-- ==== Sys2Proof/Word.lean ====
section
/-! DEFINITION. The word types of the EH1 (R2): 32-bit words, bytes, and the fields of instruction words. -/

namespace Sys2Proof

/-- A word is 32 bits (R2). -/
abbrev Word := BitVec 32

/-- A byte of memory (R2). -/
abbrev Byte := BitVec 8

/-- A 64-bit value, as a register pair or a memory doubleword holds it. -/
abbrev DWord := BitVec 64

/-- A lane mask: lane i is bit i (R2). -/
abbrev Mask := BitVec 32

/-- A field that names a general register; 127 is gz (R45). -/
abbrev Reg := BitVec 7

/-- A field that names a predicate; 15 is pt (R45). -/
abbrev PReg := BitVec 4

/-- A field that names a uniform register; 63 is sz (R45). -/
abbrev UReg := BitVec 6

end Sys2Proof
end

