-- ==== Sys2Proof/Syntax.lean ====
section
/-! DEFINITION. The instructions, packets and events of the EH1: one constructor of Instr for each row of the table of
operations. Program instructions carry the fields of their words (R43 to R46); packets carry the fields of their slot (R308,
R310, R315); events inside the device and host actions carry the numbers that say which part they happen to. -/

namespace Sys2Proof

/-- Rounding modes, by code 0 to 3 (R105). -/
inductive RMode where
  | rne | rz | ru | rd
deriving DecidableEq, Repr

/-- Compare conditions, by code 0 to 7 (R81). -/
inductive CC where
  | eq | ne | lt | le | gt | ge | num | nan
deriving DecidableEq, Repr

/-- Operations of PBOOL, by code 0 to 2 (R82). -/
inductive BoolOp where
  | and | or | xor
deriving DecidableEq, Repr

/-- Access widths, by code 0 to 6 (R46). -/
inductive Width where
  | s8 | z8 | s16 | z16 | w32 | w64 | w128
deriving DecidableEq, Repr

/-- Access orders, by code 0 to 3 (R46). -/
inductive Order where
  | weak | strong | acq | rel
deriving DecidableEq, Repr

/-- Operations of ATOM, by code 0 to 11 (R232). -/
inductive AtomOp where
  | add | minI | minN | maxI | maxN | and | or | xor | exch | fadd | fmin | fmax
deriving DecidableEq, Repr

/-- Reduction operations, by code 0 to 7 (R170). -/
inductive RedOp where
  | add | minI | minN | maxI | maxN | fadd | fmin | fmax
deriving DecidableEq, Repr

/-- Operations of VOTE, by code 0 to 2 (R167). -/
inductive VoteOp where
  | all | any | uni
deriving DecidableEq, Repr

/-- Operations of CCTL, by code 0 to 2 (R187). -/
inductive CctlOp where
  | wb | inv | wbinv
deriving DecidableEq, Repr

/-- Bytes a lane of COPYL copies, by code 0 to 2 (R202). -/
inductive CopySize where
  | b4 | b8 | b16
deriving DecidableEq, Repr

/-- Row formats of MSTORE and MLOAD, by code 0 to 2 (R149). -/
inductive RowFmt where
  | f32 | bf16 | narrow
deriving DecidableEq, Repr

/-- Places where a soft error can arise (R206). -/
inductive ErrPlace where
  | channel | vault | l2 | l1 | scratchpad | gather | priv
deriving DecidableEq, Repr

/-- Causes of a class A alarm (R350). -/
inductive AlarmA where
  | signature | mesh | debugLock
deriving DecidableEq, Repr

/-- Causes of a class B alarm, in the order of the alarm status word (R307, R350). -/
inductive AlarmB where
  | voltage | clock | temperature
deriving DecidableEq, Repr

/-- What a host snoop asks of a line that the CXL.cache agent holds (R178). -/
inductive SnoopKind where
  | giveUp | downgrade
deriving DecidableEq, Repr

/-- Trailer fields of a command slot and the queue it stands in (R308). -/
structure PktHdr where
  q     : Nat
  cls   : BitVec 2
  fence : BitVec 3
deriving DecidableEq, Repr

/-- The body of a LAUNCH packet (R315). -/
structure LaunchBody where
  image    : BitVec 64
  param    : BitVec 64
  ctxs     : BitVec 32
  gang     : BitVec 8
  cls      : BitVec 8
  flags    : BitVec 8
  vector   : BitVec 8
  cores    : BitVec 128
  seed     : BitVec 64
  deadline : BitVec 64
  x        : BitVec 32
  y        : BitVec 32
  z        : BitVec 32
  chunk    : BitVec 32
  groups   : BitVec 64
  record   : BitVec 64
  /-- Whether a byte of the body that R315 does not name is not zero. -/
  rsv      : Bool
deriving DecidableEq, Repr

/-- Every step the table of operations lists, one constructor for each row. -/
inductive Instr where
  /-- IADD (R75). -/
  | iadd (d a b : Reg) (r : Bool)
  /-- ISUB (R75). -/
  | isub (d a b : Reg) (r : Bool)
  /-- IMUL (R75). -/
  | imul (d a b : Reg) (r : Bool)
  /-- IMULH_I32 (R75). -/
  | imulhI (d a b : Reg) (r : Bool)
  /-- IMULH_N32 (R75). -/
  | imulhN (d a b : Reg) (r : Bool)
  /-- IMIN_I32 (R75). -/
  | iminI (d a b : Reg) (r : Bool)
  /-- IMIN_N32 (R75). -/
  | iminN (d a b : Reg) (r : Bool)
  /-- IMAX_I32 (R75). -/
  | imaxI (d a b : Reg) (r : Bool)
  /-- IMAX_N32 (R75). -/
  | imaxN (d a b : Reg) (r : Bool)
  /-- IABS (R75). -/
  | iabs (d a : Reg) (r : Bool)
  /-- AND (R75). -/
  | and (d a b : Reg) (r : Bool)
  /-- OR (R75). -/
  | or (d a b : Reg) (r : Bool)
  /-- XOR (R75). -/
  | xor (d a b : Reg) (r : Bool)
  /-- ANDN (R75). -/
  | andn (d a b : Reg) (r : Bool)
  /-- SHL (R75). -/
  | shl (d a b : Reg) (r : Bool)
  /-- SHR (R75). -/
  | shr (d a b : Reg) (r : Bool)
  /-- SAR (R75). -/
  | sar (d a b : Reg) (r : Bool)
  /-- ROTL (R75). -/
  | rotl (d a b : Reg) (r : Bool)
  /-- POPC (R75). -/
  | popc (d a : Reg) (r : Bool)
  /-- CLZ (R75). -/
  | clz (d a : Reg) (r : Bool)
  /-- BREV (R75). -/
  | brev (d a : Reg) (r : Bool)
  /-- IADDI (R76). -/
  | iaddi (d a : Reg) (imm : BitVec 8)
  /-- SHLI (R76). -/
  | shli (d a : Reg) (imm : BitVec 5)
  /-- SHRI (R76). -/
  | shri (d a : Reg) (imm : BitVec 5)
  /-- SARI (R76). -/
  | sari (d a : Reg) (imm : BitVec 5)
  /-- ANDI (R76). -/
  | andi (d a : Reg) (imm : BitVec 8)
  /-- ORI (R76). -/
  | ori (d a : Reg) (imm : BitVec 8)
  /-- XORI (R76). -/
  | xori (d a : Reg) (imm : BitVec 8)
  /-- IMAD (R77). -/
  | imad (d a b : Reg) (r : Bool) (c : Reg)
  /-- IADD32I (R77). -/
  | iadd32i (d a : Reg) (r : Bool) (imm : Word)
  /-- LEA (R77). -/
  | lea (d a b : Reg) (r : Bool) (sh : BitVec 5)
  /-- BFE (R78). -/
  | bfe (d a : Reg) (r : Bool) (sgn : Bool) (len : BitVec 6) (pos : BitVec 5)
  /-- BFI (R78). -/
  | bfi (d a b : Reg) (r : Bool) (len : BitVec 6) (pos : BitVec 5)
  /-- IADD64 (R79). -/
  | iadd64 (d a b : Reg) (r : Bool)
  /-- IMULW_I32 (R79). -/
  | imulwI (d a b : Reg) (r : Bool)
  /-- IMULW_N32 (R79). -/
  | imulwN (d a b : Reg) (r : Bool)
  /-- DIVI (R80). -/
  | divi (d a : Reg) (la : BitVec 4) (c : Reg)
  /-- DIVN (R80). -/
  | divn (d a : Reg) (la : BitVec 4) (c : Reg)
  /-- REMI (R80). -/
  | remi (d a : Reg) (la : BitVec 4) (c : Reg)
  /-- REMN (R80). -/
  | remn (d a : Reg) (la : BitVec 4) (c : Reg)
  /-- FADD (R114). -/
  | fadd (d a b : Reg) (r : Bool)
  /-- FSUB (R114). -/
  | fsub (d a b : Reg) (r : Bool)
  /-- FMUL (R114). -/
  | fmul (d a b : Reg) (r : Bool)
  /-- FMIN (R115). -/
  | fmin (d a b : Reg) (r : Bool)
  /-- FMAX (R115). -/
  | fmax (d a b : Reg) (r : Bool)
  /-- HADD2_BF (R114). -/
  | hadd2Bf (d a b : Reg) (r : Bool)
  /-- HMUL2_BF (R114). -/
  | hmul2Bf (d a b : Reg) (r : Bool)
  /-- HADD2_HF (R114). -/
  | hadd2Hf (d a b : Reg) (r : Bool)
  /-- HMUL2_HF (R114). -/
  | hmul2Hf (d a b : Reg) (r : Bool)
  /-- HMIN2_BF (R114). -/
  | hmin2Bf (d a b : Reg) (r : Bool)
  /-- HMAX2_BF (R114). -/
  | hmax2Bf (d a b : Reg) (r : Bool)
  /-- FFMA (R116). -/
  | ffma (d a b : Reg) (r : Bool) (c : Reg) (mode : RMode)
  /-- FADDM (R116). -/
  | faddm (d a b : Reg) (r : Bool) (mode : RMode)
  /-- FMULM (R116). -/
  | fmulm (d a b : Reg) (r : Bool) (mode : RMode)
  /-- HFMA2_BF (R116). -/
  | hfma2Bf (d a b : Reg) (r : Bool) (c : Reg) (mode : RMode)
  /-- HFMA2_HF (R116). -/
  | hfma2Hf (d a b : Reg) (r : Bool) (c : Reg) (mode : RMode)
  /-- FADDI (R117). -/
  | faddi (d a : Reg) (r : Bool) (imm : Word)
  /-- FMULI (R117). -/
  | fmuli (d a : Reg) (r : Bool) (imm : Word)
  /-- ICMP_I32 (R81). -/
  | icmpI (pd : PReg) (cc : CC) (a b : Reg)
  /-- ICMP_N32 (R81). -/
  | icmpN (pd : PReg) (cc : CC) (a b : Reg)
  /-- FCMP (R81). -/
  | fcmp (pd : PReg) (cc : CC) (a b : Reg)
  /-- ICMPI_I32 (R81). -/
  | icmpiI (pd : PReg) (cc : CC) (a : Reg) (imm : BitVec 7)
  /-- PBOOL (R82). -/
  | pbool (pd : PReg) (op : BoolOp) (na : Bool) (pa : PReg) (nb : Bool) (pb : PReg)
  /-- P2G (R83). -/
  | p2g (d : Reg) (r : Bool)
  /-- G2P (R83). -/
  | g2p (a : Reg)
  /-- SEL (R84). -/
  | sel (d a b : Reg) (r : Bool) (q : PReg) (qneg : Bool)
  /-- FRCP (R120). -/
  | frcp (d a : Reg) (la : BitVec 4)
  /-- FRSQ (R120). -/
  | frsq (d a : Reg) (la : BitVec 4)
  /-- FSQRT (R120). -/
  | fsqrt (d a : Reg) (la : BitVec 4)
  /-- FEXP2 (R120). -/
  | fexp2 (d a : Reg) (la : BitVec 4)
  /-- FLOG2 (R120). -/
  | flog2 (d a : Reg) (la : BitVec 4)
  /-- FSINR (R120). -/
  | fsinr (d a : Reg) (la : BitVec 4)
  /-- FCOSR (R120). -/
  | fcosr (d a : Reg) (la : BitVec 4)
  /-- FRND (R119). -/
  | frnd (d a : Reg) (mode : RMode) (la : BitVec 4)
  /-- FCLASS (R122). -/
  | fclass (d a : Reg) (la : BitVec 4)
  /-- F2I_I32 (R123). -/
  | f2iI (d a : Reg) (la : BitVec 4)
  /-- F2I_N32 (R123). -/
  | f2iN (d a : Reg) (la : BitVec 4)
  /-- I2F_I32 (R119). -/
  | i2fI (d a : Reg) (la : BitVec 4)
  /-- I2F_N32 (R119). -/
  | i2fN (d a : Reg) (la : BitVec 4)
  /-- F2BF (R119). -/
  | f2bf (d a : Reg) (la : BitVec 4)
  /-- BF2F (R119). -/
  | bf2f (d a : Reg) (la : BitVec 4)
  /-- F2HF (R119). -/
  | f2hf (d a : Reg) (la : BitVec 4)
  /-- HF2F (R119). -/
  | hf2f (d a : Reg) (la : BitVec 4)
  /-- CVTN (R125). -/
  | cvtn (d a : Reg) (la : BitVec 4) (c : Reg) (pack : Bool) (fmt : BitVec 16)
  /-- UNPN (R126). -/
  | unpn (d a : Reg) (la : BitVec 4) (c : Reg) (pack : Bool) (fmt : BitVec 16)
  /-- F2I_M (R124). -/
  | f2iM (d a : Reg) (la : BitVec 4) (uns : Bool) (mode : RMode)
  /-- JMP (R89). -/
  | jmp (off : BitVec 22)
  /-- CALL (R98). -/
  | call (off : BitVec 22)
  /-- RET (R99). -/
  | ret
  /-- EXIT (R91). -/
  | exit
  /-- NOP (R89). -/
  | nop
  /-- YIELD (R89). -/
  | yield
  /-- SLEEP (R89). -/
  | sleep (n : BitVec 8)
  /-- BRK (R90). -/
  | brk (n : BitVec 8)
  /-- TRAP (R90). -/
  | trap (n : BitVec 8)
  /-- BRA (R92). -/
  | bra (p : PReg) (neg : Bool) (off : BitVec 17) (join : Word)
  /-- BRX (R93). -/
  | brx (a : Reg) (join : Word)
  /-- MOV (R85). -/
  | mov (d a : Reg) (r : Bool)
  /-- MOVI (R85). -/
  | movi (d : Reg) (imm : BitVec 8)
  /-- SRD (R73). -/
  | srd (d : Reg) (n : BitVec 8)
  /-- SWR (R73). -/
  | swr (a : Reg) (n : BitVec 8)
  /-- U2G (R88). -/
  | u2g (d : Reg) (sa : UReg) (r : Bool)
  /-- G2U (R88). -/
  | g2u (sd : UReg) (a : Reg)
  /-- UADD (R87). -/
  | uadd (sd sa sb : UReg)
  /-- UMOV (R87). -/
  | umov (sd sa : UReg)
  /-- UAND (R87). -/
  | uand (sd sa sb : UReg)
  /-- USHL (R87). -/
  | ushl (sd sa sb : UReg)
  /-- UMOVI (R87). -/
  | umovi (sd : UReg) (imm : BitVec 8)
  /-- MOV32I (R85). -/
  | mov32i (d : Reg) (r : Bool) (imm : Word)
  /-- UMOV32I (R87). -/
  | umov32i (sd : UReg) (imm : Word)
  /-- FENCE_ACQ (R217). -/
  | fenceAcq
  /-- FENCE_REL (R217). -/
  | fenceRel
  /-- FENCE_AR (R217). -/
  | fenceAr
  /-- LD (R183). -/
  | ld (d a : Reg) (na : Bool) (la : BitVec 4) (h : BitVec 10) (ord : Order) (wd : Width) (imm : BitVec 17)
  /-- ST (R184). -/
  | st (d a : Reg) (na : Bool) (la : BitVec 4) (h : BitVec 10) (ord : Order) (wd : Width) (imm : BitVec 17)
  /-- LDS (R194). -/
  | lds (d a : Reg) (la : BitVec 4) (win : BitVec 4) (remote : Bool) (cih : BitVec 2) (wd : Width) (off : BitVec 17)
  /-- STS (R194). -/
  | sts (d a : Reg) (la : BitVec 4) (win : BitVec 4) (remote : Bool) (cih : BitVec 2) (wd : Width) (off : BitVec 17)
  /-- LDP (R190). -/
  | ldp (d a : Reg) (la : BitVec 4) (wd : Width) (imm : BitVec 17)
  /-- STP (R190). -/
  | stp (d a : Reg) (la : BitVec 4) (wd : Width) (imm : BitVec 17)
  /-- PREF (R186). -/
  | pref (a : Reg) (l2 : Bool) (la : BitVec 4) (h : BitVec 10) (wd : Width) (imm : BitVec 17)
  /-- GFETCH (R198). -/
  | gfetch (d : Reg) (bm : Bool) (la : BitVec 4) (t : BitVec 8) (sa sb : UReg)
  /-- COPYL (R202). -/
  | copyl (d a : Reg) (n : CopySize) (la : BitVec 4) (h : BitVec 10) (win : BitVec 4) (remote : Bool) (cih : BitVec 2) (lwin : BitVec 4) (loff : BitVec 11)
  /-- CCTL (R187). -/
  | cctl (a : Reg) (op : CctlOp) (la : BitVec 4) (h : BitVec 10) (imm : BitVec 17)
  /-- AABORT (R251). -/
  | aabort
  /-- ASTAT (R251). -/
  | astat (d : Reg) (la : BitVec 4)
  /-- ATOM (R232). -/
  | atom (d a : Reg) (op : AtomOp) (la : BitVec 4) (h : BitVec 10) (ord : Order) (wide : Bool) (imm : BitVec 17)
  /-- ACAS (R234). -/
  | acas (pd : PReg) (d a : Reg) (la : BitVec 4) (h : BitVec 10) (ord : Order) (wide : Bool) (c : Reg) (imm : BitVec 10)
  /-- DCAS (R235). -/
  | dcas (pd : PReg) (d a : Reg) (la : BitVec 4) (h1 h2 : BitVec 10) (c : Reg) (ord : Order)
  /-- AMOVE (R235). -/
  | amove (d a : Reg) (wide : Bool) (la : BitVec 4) (h1 h2 : BitVec 10) (c : Reg) (ord : Order)
  /-- ABEGIN (R240). -/
  | abegin (off : Word)
  /-- AEND (R246). -/
  | aend (rel acq : Bool) (pd : PReg)
  /-- MZERO (R148). -/
  | mzero (d : Reg) (la : BitVec 4)
  /-- MIDLE (R148). -/
  | midle (d : Reg) (clr : Bool) (la : BitVec 4)
  /-- MMA (R143). -/
  | mma (d : Reg) (mc z : Bool) (la : BitVec 4) (tA tB : BitVec 8) (sa sb : UReg)
  /-- MMAS (R144). -/
  | mmas (d : Reg) (cr mc z : Bool) (la : BitVec 4) (tA tB : BitVec 8) (sa sb : UReg)
  /-- MMAG (R147). -/
  | mmag (d : Reg) (mc z : Bool) (la : BitVec 4) (tA tB : BitVec 8) (sa sb : UReg)
  /-- MSTORE (R149). -/
  | mstore (d : Reg) (fmt : RowFmt) (la : BitVec 4) (t : BitVec 8) (sa : UReg)
  /-- MLOAD (R149). -/
  | mload (d : Reg) (fmt : RowFmt) (la : BitVec 4) (t : BitVec 8) (sa : UReg)
  /-- SWZ (R165). -/
  | swz (d a : Reg) (x : BitVec 5)
  /-- SHFL (R166). -/
  | shfl (d a b : Reg) (r : Bool)
  /-- VOTE (R167). -/
  | vote (pd : PReg) (op : VoteOp) (na : Bool) (pa : PReg)
  /-- BALLOT (R168). -/
  | ballot (d : Reg) (na : Bool) (pa : PReg)
  /-- SCAN (R169). -/
  | scan (d a : Reg) (ex : Bool) (op : RedOp)
  /-- REDUCE (R169). -/
  | reduce (d a : Reg) (op : RedOp)
  /-- MATCH (R168). -/
  | matchLanes (d a : Reg)
  /-- EXPAND (R157). -/
  | expand (d a : Reg) (g : Bool) (e : BitVec 2) (la : BitVec 4) (c : Reg) (gal : BitVec 6)
  /-- ENEXT (R159). -/
  | enext (d : Reg) (fin : Bool) (e : BitVec 2) (la : BitVec 4) (pd : PReg)
  /-- SEGRED (R161). -/
  | segred (d a : Reg) (e : BitVec 2) (la : BitVec 4) (pd : PReg) (op : RedOp)
  /-- XSECT (R171). -/
  | xsect (d a : Reg) (sgn : Bool) (la : BitVec 4) (c : Reg) (pd qa qb : PReg)
  /-- XMERGE (R171). -/
  | xmerge (d a : Reg) (sgn : Bool) (la : BitVec 4) (c : Reg) (pd qa qb : PReg)
  /-- SCALEQ (R173). -/
  | scaleq (d a : Reg) (q : Bool) (la : BitVec 4) (fmt : BitVec 16)
  /-- SPAWN (R282). -/
  | spawn (pd : PReg) (a : Reg) (la : BitVec 4) (role : BitVec 2) (cnt : BitVec 5)
  /-- TFETCH (R283). -/
  | tfetch (d : Reg) (la : BitVec 4) (pd : PReg)
  /-- ATR_PUSH (R285). -/
  | atrPush (d a : Reg) (la : BitVec 4) (atr : BitVec 2) (n : BitVec 5) (pd : PReg) (h : BitVec 10) (c : Reg)
  /-- ATR_POP (R286). -/
  | atrPop (d : Reg) (la : BitVec 4) (atr : BitVec 2) (win : BitVec 4) (pd : PReg) (tmo : BitVec 10) (off : BitVec 10)
  /-- ATR_POP_TIMEOUT (R286). -/
  | atrPopTimeout (fl seq : Nat)
  /-- ATR_RET (R287). -/
  | atrRet (a : Reg) (la : BitVec 4) (atr : BitVec 2) (rn : BitVec 3) (c : Reg)
  /-- CQRY (R294). -/
  | cqry (d a : Reg) (la : BitVec 4) (h : BitVec 10) (cx : BitVec 2) (imm : BitVec 17)
  /-- DSTEP (R297). -/
  | dstep (d a : Reg) (la : BitVec 4) (h : BitVec 10) (cx : BitVec 2) (imm : BitVec 17)
  /-- FWAIT (R289). -/
  | fwait (pd : PReg) (a : Reg) (atr : Bool) (la : BitVec 4) (tmo : BitVec 16)
  /-- FWAIT_TIMEOUT (R289). -/
  | fwaitTimeout (fl seq : Nat)
  /-- FTEST (R289). -/
  | ftest (pd : PReg) (a : Reg) (atr : Bool) (la : BitVec 4)
  /-- CHAIN (R291). -/
  | chain (d a : Reg) (n : BitVec 4) (la : BitVec 4) (h : BitVec 10) (cx : BitVec 2) (imm : BitVec 17)
  /-- POOL_ALLOC (R299). -/
  | poolAlloc (d : Reg) (la : BitVec 4) (pd : PReg) (q : BitVec 6)
  /-- POOL_FREE (R299). -/
  | poolFree (a : Reg) (la : BitVec 4) (q : BitVec 6)
  /-- SCOPE_OPEN (R300). -/
  | scopeOpen (d : Reg) (one any : Bool) (la : BitVec 4) (pd : PReg)
  /-- SCOPE_CLOSE (R301). -/
  | scopeClose (la : BitVec 4)
  /-- CANCEL (R301). -/
  | cancel (a : Reg) (la : BitVec 4)
  /-- BAR_SYNC (R323). -/
  | barSync (k : BitVec 8)
  /-- BAR_ARV (R323). -/
  | barArv (d : Reg) (k : BitVec 8)
  /-- BAR_WAIT (R323). -/
  | barWait (a : Reg) (k : BitVec 8)
  /-- JOIN (R323). -/
  | joinGal (k : BitVec 8)
  /-- LEAVE (R323). -/
  | leaveGal (k : BitVec 8)
  /-- LAND_WAIT (R325). -/
  | landWait (d a : Reg)
  /-- BEST_TAKE (R332). -/
  | bestTake (d : Reg) (r : Bool)
  /-- BEST_INVAL (R332). -/
  | bestInval (d a : Reg) (r : Bool)
  /-- SPEC_MARK (R334). -/
  | specMark (a : Reg)
  /-- SPEC_COMMIT (R334). -/
  | specCommit (a : Reg)
  /-- SPEC_BACK (R334). -/
  | specBack
  /-- RNG (R335). -/
  | rng (d a b : Reg) (r : Bool)
  /-- GTIME (R326). -/
  | gtime (d : Reg) (r : Bool)
  /-- BAR_INIT (R323). -/
  | barInit (k : BitVec 6) (n : BitVec 12)
  /-- BAR_SYNCN (R323). -/
  | barSyncn (k : BitVec 6) (n : BitVec 12)
  /-- LAND_INIT (R325). -/
  | landInit (d a b : Reg) (r : Bool) (pd : PReg)
  /-- TLWAIT (R327). -/
  | tlwait (pd : PReg) (cx : BitVec 2) (a : Reg) (tmo : BitVec 16)
  /-- TLWAIT_TIMEOUT (R327). -/
  | tlwaitTimeout (fl : Nat) (slotB : Bool)
  /-- DL_SET (R328). -/
  | dlSet (a : Reg) (min : Bool)
  /-- BEST_OFFER (R332). -/
  | bestOffer (pd : PReg) (d a b : Reg) (r : Bool)
  /-- GROW (R100). -/
  | grow (pd : PReg) (n : BitVec 7)
  /-- GROW_GRANT (R100). -/
  | growGrant (fl : Nat) (slotB : Bool)
  /-- GROW_DENIAL (R101). -/
  | growDenial (fl : Nat) (slotB : Bool)
  /-- SHRINK (R102). -/
  | shrink (n : BitVec 8)
  /-- CSRR (R346). -/
  | csrr (d : Reg) (c : BitVec 8)
  /-- CSRW (R346). -/
  | csrw (a : Reg) (c : BitVec 8)
  /-- HALT (R347). -/
  | halt (a : Reg)
  /-- ERET (R347). -/
  | eret (a : Reg)
  /-- TLBI (R271). -/
  | tlbi (d a b : Reg)
  /-- FAULTACK (R347). -/
  | faultack (a : Reg)
  /-- CLAUSE_DECODE (R55). -/
  | clauseDecode (fl : Nat) (slotB : Bool)
  /-- SLOT_AGED (R26). -/
  | slotAged (fl : Nat) (slotB : Bool)
  /-- LONG_LATENCY_COMPLETION (R49). -/
  | longLatencyCompletion (fl seq : Nat)
  /-- SLEEP_EXPIRY (R89). -/
  | sleepExpiry (fl : Nat) (slotB : Bool)
  /-- COPYL_WORD_LANDING (R325). -/
  | copylWordLanding (core copy word : Nat)
  /-- TASK_QUEUE_FLIGHT_START (R21). -/
  | taskQueueFlightStart (core : Nat)
  /-- HELD_EVENT_HANDLER_START (R34). -/
  | heldEventHandlerStart (launch : Word) (core : Nat)
  /-- DEADLINE_FIRE (R328). -/
  | deadlineFire (launch : Word)
  /-- LAUNCH_START (R18). -/
  | launchStart (q : Nat)
  /-- LAUNCH_COMPLETION (R22). -/
  | launchCompletion (launch : Word)
  /-- PREEMPTION_REQUEST (R341). -/
  | preemptionRequest (launch : Word) (gang : Nat)
  /-- GANG_RESUME (R342). -/
  | gangResume (launch : Word) (gang firstCore : Nat)
  /-- REFLEX_WINDOW_OPEN (R29). -/
  | reflexWindowOpen
  /-- REFLEX_BOUNDARY (R30). -/
  | reflexBoundary
  /-- REFLEX_WINDOW_CLOSE (R29). -/
  | reflexWindowClose
  /-- POWER_CAP_WITHHOLD (R349). -/
  | powerCapWithhold (cycles : Nat)
  /-- COPY (R292). -/
  | copyCmd (ctx num : Nat)
  /-- FILL (R292). -/
  | fillCmd (ctx num : Nat)
  /-- REDUCE_COPY (R292). -/
  | reduceCopyCmd (ctx num : Nat)
  /-- NOP_COMMAND (R292). -/
  | nopCmd (ctx num : Nat)
  /-- COLLISION_QUERY (R295). -/
  | collisionQuery (ctx num : Nat)
  /-- DYNAMICS_STEP (R298). -/
  | dynamicsStep (ctx num : Nat)
  /-- ENGINE_COMMAND_COMPLETION (R224). -/
  | engineCommandCompletion (ctx : Nat)
  /-- RESTRIPE_HANDOVER (R227). -/
  | restripeHandover (ctx num : Nat)
  /-- REGION_MERGE (R223). -/
  | regionMerge (region : Nat)
  /-- PRIORITY_RESERVATION_EXPIRY (R252). -/
  | priorityReservationExpiry (addr : Nat)
  /-- L1_EVICTION (R180). -/
  | l1Eviction (core idx : Nat)
  /-- TRANSLATION_EVICTION (R270). -/
  | translationEviction (idx : Nat)
  /-- STOP (R310). -/
  | stopPkt (hdr : PktHdr)
  /-- WAIT_TIMELINE (R310). -/
  | waitTimelinePkt (hdr : PktHdr) (ctx : BitVec 8) (value : BitVec 64)
  /-- SIGNAL (R310). -/
  | signalPkt (hdr : PktHdr) (ctx : BitVec 8) (irq : Bool) (vector : BitVec 8) (va value : BitVec 64)
  /-- FENCE (R310). -/
  | fencePkt (hdr : PktHdr)
  /-- RESTRIPE (R310). -/
  | restripePkt (hdr : PktHdr) (ctx : BitVec 8) (pages : BitVec 32) (va : BitVec 64) (place : Word)
  /-- LAUNCH (R315). -/
  | launchPkt (hdr : PktHdr) (body : LaunchBody)
  /-- CHAIN_PACKET (R310). -/
  | chainPkt (hdr : PktHdr) (ctx : BitVec 8) (count : BitVec 32) (va : BitVec 64)
  /-- INDIRECT (R314). -/
  | indirectPkt (hdr : PktHdr) (ctx : BitVec 8) (count : BitVec 32) (va : BitVec 64)
  /-- SET_DEADLINE (R310). -/
  | setDeadlinePkt (hdr : PktHdr) (launch : Word) (deadline : BitVec 64)
  /-- NOP_PACKET (R310). -/
  | nopPkt (hdr : PktHdr)
  /-- CONTEXT (R310). -/
  | contextPkt (hdr : PktHdr) (ctx : BitVec 8) (valid : Bool) (root hbase tbase pbase : BitVec 64)
  /-- SLOT_FETCH (R308). -/
  | slotFetch (q : Nat)
  /-- FIRMWARE_CORE_ROUND (R313). -/
  | firmwareCoreRound
  /-- DOORBELL (R306). -/
  | doorbell (q : Nat) (v : BitVec 64)
  /-- QUEUE_OPEN (R306). -/
  | queueOpen (q : Nat)
  /-- QUEUE_CLOSE (R306). -/
  | queueClose (q : Nat)
  /-- HALT_CLEAR (R306). -/
  | haltClear (q : Nat)
  /-- ACCEPTED_WORD_0_WRITE (R279). -/
  | acceptedWord0Write (v : BitVec 64)
  /-- REGISTER_WRITE (R307). -/
  | registerWrite (off : Nat) (v : BitVec 64)
  /-- HOST_CXL_MEM_READ (R318). -/
  | hostCxlMemRead (pa : Nat)
  /-- HOST_CXL_MEM_WRITE (R318). -/
  | hostCxlMemWrite (pa : Nat) (v : Word) (be : BitVec 4)
  /-- RESET (R348). -/
  | resetDevice (warm sigOk : Bool)
  /-- ATTESTATION_SIGN (R348). -/
  | attestationSign
  /-- CLASS_A_ALARM (R350). -/
  | classAAlarm (cause : AlarmA)
  /-- CLASS_B_ALARM (R350). -/
  | classBAlarm (cause : AlarmB)
  /-- PTM_TIME_SYNC (R326). -/
  | ptmTimeSync (t : BitVec 64)
  /-- PATROL_SCRUB (R351). -/
  | patrolScrub (pa : Nat)
  /-- SOFT_ERROR (R206). -/
  | softError (place : ErrPlace) (unit addr : Nat) (fatal : Bool)
  /-- CXL_CACHE_SNOOP (R178). -/
  | cxlCacheSnoop (line : Nat) (kind : SnoopKind)
  /-- CHANNEL_CALIBRATION (R351). -/
  | channelCalibration (ch : Nat)
deriving DecidableEq, Repr

end Sys2Proof
end

