-- ==== Sys2Proof/Machine/Fp.lean ====
section
/-! DEFINITION. FP32, BF16 and FP16 values as exact dyadic numbers, the one rounding of R105, and addition, multiplication,
fused multiply-add, minimum, maximum and comparison (R103 to R107, R113, R115). -/

namespace Sys2Proof.Machine

/-- What an FP bit pattern stands for: a NaN (signalling or quiet), an infinity, or the number ± m × 2^e (R103, R104). -/
inductive Fp where
  | nan (sig : Bool)
  | inf (neg : Bool)
  | fin (neg : Bool) (m : Nat) (e : Int)
deriving DecidableEq, Repr

/-- Exponent bits, mantissa bits and bias of an IEEE format (R103). -/
structure FpFmt where
  eb   : Nat
  mb   : Nat
  bias : Nat
deriving DecidableEq, Repr

def fp32 : FpFmt := { eb := 8, mb := 23, bias := 127 }
def bf16 : FpFmt := { eb := 8, mb := 7, bias := 127 }
def fp16 : FpFmt := { eb := 5, mb := 10, bias := 15 }

/-- Flags of FPSTAT (R107). -/
def flagNV : Word := 1
def flagDZ : Word := 2
def flagOF : Word := 4
def flagUF : Word := 8
def flagNX : Word := 16

/-- A result pattern and the flags it raises. -/
structure FpRes where
  bits  : Nat
  flags : Word
deriving DecidableEq, Repr

/-- The all-ones exponent field of a format. -/
def FpFmt.emax (f : FpFmt) : Nat := 2 ^ f.eb - 1

/-- The canonical NaN of a format (R103). -/
def FpFmt.qnan (f : FpFmt) : Nat := f.emax * 2 ^ f.mb + 2 ^ (f.mb - 1)

/-- The sign bit of a format's pattern. -/
def FpFmt.signBit (f : FpFmt) (neg : Bool) : Nat := if neg then 2 ^ (f.eb + f.mb) else 0

/-- The pattern of an infinity. -/
def FpFmt.infBits (f : FpFmt) (neg : Bool) : Nat := f.signBit neg + f.emax * 2 ^ f.mb

/-- The exponent of the unit in the last place of a subnormal. -/
def FpFmt.qmin (f : FpFmt) : Int := 1 - (f.bias : Int) - (f.mb : Int)

/-- Reads a pattern in a format (R103, R104). -/
def FpFmt.read (f : FpFmt) (bits : Nat) : Fp :=
  let neg := decide ((bits / 2 ^ (f.eb + f.mb)) % 2 = 1)
  let ex := (bits / 2 ^ f.mb) % 2 ^ f.eb
  let ma := bits % 2 ^ f.mb
  if ex = f.emax then
    if ma = 0 then .inf neg else .nan (decide (ma < 2 ^ (f.mb - 1)))
  else if ex = 0 then .fin neg ma f.qmin
  else .fin neg (ma + 2 ^ f.mb) (f.qmin + ((ex : Int) - 1))

/-- Whether a rounding mode raises the magnitude: the kept part is odd, the dropped part is above, at or below one half. -/
def roundsUp (mode : RMode) (neg odd : Bool) (dropped half : Nat) : Bool :=
  match mode with
  | .rne => decide (half < dropped) || (decide (dropped = half) && odd)
  | .rz  => false
  | .ru  => !neg && decide (0 < dropped)
  | .rd  => neg && decide (0 < dropped)

/-- m × 2^e in units of 2^q, rounded under a mode; the second part says whether anything was dropped. -/
def roundAt (mode : RMode) (neg : Bool) (m : Nat) (e q : Int) : Nat × Bool :=
  if q ≤ e then (m * 2 ^ (e - q).toNat, false)
  else
    let s := (q - e).toNat
    let n := m / 2 ^ s
    let r := m % 2 ^ s
    (if roundsUp mode neg (decide (n % 2 = 1)) r (2 ^ (s - 1)) && decide (0 < r) then n + 1 else n, decide (0 < r))

/-- The number ± m × 2^e with m > 0, rounded once to a format, with the flags of R107 and the overflow of R105. -/
def FpFmt.round (f : FpFmt) (mode : RMode) (neg : Bool) (m : Nat) (e : Int) : FpRes :=
  let ex : Int := (Nat.log2 m : Int) + e
  let emin : Int := 1 - (f.bias : Int)
  let q : Int := max ex emin - (f.mb : Int)
  let (n, dropped) := roundAt mode neg m e q
  let mag : Nat := (q - f.qmin).toNat * 2 ^ f.mb + n
  if f.emax * 2 ^ f.mb ≤ mag then
    let toInf : Bool := match mode with
      | .rne => true
      | .rz => false
      | .ru => !neg
      | .rd => neg
    { bits := if toInf then f.infBits neg else f.signBit neg + (f.emax * 2 ^ f.mb - 1), flags := flagOF ||| flagNX }
  else
    let tiny : Bool := decide (ex < emin) &&
      (decide (ex < emin - 1) || decide ((roundAt mode neg m e (ex - (f.mb : Int))).1 < 2 ^ (f.mb + 1)))
    { bits := f.signBit neg + mag,
      flags := (if dropped then flagNX else 0) ||| (if dropped && tiny then flagUF else 0) }

/-- A finite number, zero included, rounded to a format; a zero keeps its sign. -/
def FpFmt.fin (f : FpFmt) (mode : RMode) (neg : Bool) (m : Nat) (e : Int) : FpRes :=
  if m = 0 then { bits := f.signBit neg, flags := 0 } else f.round mode neg m e

/-- The canonical NaN with the flags given. -/
def FpFmt.nanRes (f : FpFmt) (flags : Word) : FpRes := { bits := f.qnan, flags := flags }

/-- Whether a value is a NaN, and whether it signals. -/
def Fp.isNan : Fp → Bool
  | .nan _ => true
  | _ => false
def Fp.isSig : Fp → Bool
  | .nan s => s
  | _ => false

/-- The flag of signalling operands (R107). -/
def sigFlag (xs : List Fp) : Word := if xs.any Fp.isSig then flagNV else 0

/-- The exact sum of two finite numbers; an exact zero takes its sign from R105. -/
def addExact (mode : RMode) (n1 : Bool) (m1 : Nat) (e1 : Int) (n2 : Bool) (m2 : Nat) (e2 : Int) : Bool × Nat × Int :=
  let e := min e1 e2
  let a : Int := (m1 : Int) * 2 ^ (e1 - e).toNat
  let b : Int := (m2 : Int) * 2 ^ (e2 - e).toNat
  let s : Int := (if n1 then -a else a) + (if n2 then -b else b)
  if s = 0 then
    (if m1 = 0 ∧ m2 = 0 ∧ n1 = n2 then n1 else decide (mode = .rd), 0, e)
  else (decide (s < 0), s.natAbs, e)

/-- Addition in a format (R105, R113). -/
def FpFmt.add (f : FpFmt) (mode : RMode) (x y : Fp) : FpRes :=
  match x, y with
  | .nan _, _ => f.nanRes (sigFlag [x, y])
  | _, .nan _ => f.nanRes (sigFlag [x, y])
  | .inf a, .inf b => if a = b then { bits := f.infBits a, flags := 0 } else f.nanRes flagNV
  | .inf a, .fin .. => { bits := f.infBits a, flags := 0 }
  | .fin .., .inf b => { bits := f.infBits b, flags := 0 }
  | .fin n1 m1 e1, .fin n2 m2 e2 =>
    let (n, m, e) := addExact mode n1 m1 e1 n2 m2 e2
    f.fin mode n m e

/-- The negative of a value. -/
def Fp.neg : Fp → Fp
  | .nan s => .nan s
  | .inf n => .inf !n
  | .fin n m e => .fin (!n) m e

/-- Multiplication in a format (R113). -/
def FpFmt.mul (f : FpFmt) (mode : RMode) (x y : Fp) : FpRes :=
  match x, y with
  | .nan _, _ => f.nanRes (sigFlag [x, y])
  | _, .nan _ => f.nanRes (sigFlag [x, y])
  | .inf a, .inf b => { bits := f.infBits (a != b), flags := 0 }
  | .inf a, .fin b m _ => if m = 0 then f.nanRes flagNV else { bits := f.infBits (a != b), flags := 0 }
  | .fin a m _, .inf b => if m = 0 then f.nanRes flagNV else { bits := f.infBits (a != b), flags := 0 }
  | .fin n1 m1 e1, .fin n2 m2 e2 => f.fin mode (n1 != n2) (m1 * m2) (e1 + e2)

/-- The exact product as a value: 0 × ∞ is a signalling NaN here, so that it raises NV whatever the addend (R113). -/
def mulExact (x y : Fp) : Fp :=
  match x, y with
  | .nan s, .nan t => .nan (s || t)
  | .nan s, .inf _ => .nan s
  | .nan s, .fin .. => .nan s
  | .inf _, .nan t => .nan t
  | .fin .., .nan t => .nan t
  | .inf a, .inf b => .inf (a != b)
  | .inf a, .fin b m _ => if m = 0 then .nan true else .inf (a != b)
  | .fin a m _, .inf b => if m = 0 then .nan true else .inf (a != b)
  | .fin n1 m1 e1, .fin n2 m2 e2 => .fin (n1 != n2) (m1 * m2) (e1 + e2)

/-- Fused multiply-add with one rounding (R116). -/
def FpFmt.fma (f : FpFmt) (mode : RMode) (x y z : Fp) : FpRes := f.add mode (mulExact x y) z

/-- The value of a number against another: negative, zero or positive difference of two finite or infinite values. -/
def Fp.sgnDiff (x y : Fp) : Int :=
  match x, y with
  | .inf a, .inf b => if a = b then 0 else if a then -1 else 1
  | .inf a, _ => if a then -1 else 1
  | _, .inf b => if b then 1 else -1
  | .fin n1 m1 e1, .fin n2 m2 e2 =>
    let (n, m, _) := addExact .rne n1 m1 e1 (!n2) m2 e2
    if m = 0 then 0 else if n then -1 else 1
  | _, _ => 0

/-- Whether a value is negative or minus zero. -/
def Fp.isNeg : Fp → Bool
  | .nan _ => false
  | .inf n => n
  | .fin n _ _ => n

/-- x is below y in the order of R115, in which −0 is below +0. -/
def Fp.below (x y : Fp) : Bool :=
  decide (Fp.sgnDiff x y < 0) || (decide (Fp.sgnDiff x y = 0) && x.isNeg && !y.isNeg)

/-- Minimum (or maximum) of two patterns under R115. -/
def FpFmt.minmax (f : FpFmt) (isMax : Bool) (xb yb : Nat) : FpRes :=
  let x := f.read xb
  let y := f.read yb
  let fl := sigFlag [x, y]
  if x.isNan && y.isNan then { bits := f.qnan, flags := fl }
  else if x.isNan then { bits := yb, flags := fl }
  else if y.isNan then { bits := xb, flags := fl }
  else if isMax then { bits := if Fp.below x y then yb else xb, flags := fl }
  else { bits := if Fp.below y x then yb else xb, flags := fl }

/-- Whether an FP32 comparison holds (R81). -/
def fcmpHolds (cc : CC) (x y : Fp) : Bool :=
  let un := x.isNan || y.isNan
  let d := Fp.sgnDiff x y
  match cc with
  | .eq => !un && decide (d = 0)
  | .ne => un || decide (d ≠ 0)
  | .lt => !un && decide (d < 0)
  | .le => !un && decide (d ≤ 0)
  | .gt => !un && decide (0 < d)
  | .ge => !un && decide (0 ≤ d)
  | .num => !un
  | .nan => un

/-- The invalid flag of a comparison (R81). -/
def fcmpFlags (cc : CC) (x y : Fp) : Word :=
  let ordered : Bool := match cc with
    | .lt | .le | .gt | .ge => true
    | _ => false
  if x.isSig || y.isSig || (ordered && (x.isNan || y.isNan)) then flagNV else 0

/-- A value rounded to a format from another: conversions and widenings, a NaN giving the canonical NaN (R119). -/
def FpFmt.convert (f : FpFmt) (mode : RMode) (x : Fp) : FpRes :=
  match x with
  | .nan s => f.nanRes (if s then flagNV else 0)
  | .inf n => { bits := f.infBits n, flags := 0 }
  | .fin n m e => f.fin mode n m e

/-- An integer rounded to a format. -/
def FpFmt.ofInt (f : FpFmt) (mode : RMode) (i : Int) : FpRes := f.fin mode (decide (i < 0)) i.natAbs 0

/-- A 32-bit result of an FP32 operation. -/
def FpRes.word (r : FpRes) : Word := BitVec.ofNat 32 r.bits

/-- The FP32 value of a register. -/
def Fp.ofWord (w : Word) : Fp := fp32.read w.toNat

/-- rne32 of a sum and of a product of two registers (R4). -/
def rneAdd (x y : Word) : FpRes := fp32.add .rne (Fp.ofWord x) (Fp.ofWord y)
def rneMul (x y : Word) : FpRes := fp32.mul .rne (Fp.ofWord x) (Fp.ofWord y)

/-- A finite FP32 value rounded to an integer, with whether it changed: FRND and F2I (R119, R123). -/
def roundInt (mode : RMode) (neg : Bool) (m : Nat) (e : Int) : Nat × Bool := roundAt mode neg m e 0

/-- FRND: rounding to an integral FP32 value, keeping the sign (R119). -/
def frndRes (mode : RMode) (x : Fp) : FpRes :=
  match x with
  | .nan s => fp32.nanRes (if s then flagNV else 0)
  | .inf n => { bits := fp32.infBits n, flags := 0 }
  | .fin n m e =>
    let (i, dropped) := roundInt mode n m e
    { bits := (fp32.fin .rne n i 0).bits, flags := if dropped then flagNX else 0 }

/-- F2I: an FP32 value to a signed or unsigned 32-bit integer (R123). -/
def f2iRes (mode : RMode) (uns : Bool) (x : Fp) : FpRes :=
  let lo : Int := if uns then 0 else -(2 ^ 31)
  let hi : Int := if uns then 2 ^ 32 - 1 else 2 ^ 31 - 1
  let pat (i : Int) : Nat := (i % 2 ^ 32).toNat
  match x with
  | .nan _ => { bits := 0, flags := flagNV }
  | .inf n => { bits := pat (if n then lo else hi), flags := flagNV }
  | .fin n m e =>
    let (i, dropped) := roundInt mode n m e
    let v : Int := if n then -(i : Int) else i
    if v < lo then { bits := pat lo, flags := flagNV }
    else if hi < v then { bits := pat hi, flags := flagNV }
    else { bits := pat v, flags := if dropped then flagNX else 0 }

/-- FCLASS: the one bit of R122. -/
def fclassBits (w : Word) : Nat :=
  match Fp.ofWord w with
  | .nan s => if s then 2 ^ 8 else 2 ^ 9
  | .inf n => if n then 1 else 2 ^ 7
  | .fin n m _ =>
    if m = 0 then (if n then 2 ^ 3 else 2 ^ 4)
    else if m < 2 ^ 23 then (if n then 2 ^ 2 else 2 ^ 5)
    else (if n then 2 else 2 ^ 6)

end Sys2Proof.Machine
end

