-- ==== Sys2Proof/Machine/Special.lean ====
section
/-! DEFINITION. The special functions of R120 and R121, computed in fixed point with 600 fraction bits and rounded once
(log entry 8). -/

namespace Sys2Proof.Machine

/-- Fraction bits of the fixed-point numbers. -/
def fxBits : Nat := 600

/-- π ÷ 2 with 600 fraction bits, rounded down. -/
def halfPi : Nat := ((0x1921fb54442d18469898cc51701b839 * 2 ^ 240 + 0xa252049c1114cf98e804177d4c76273644a29410f31c6809bbdf2a33679a) * 2 ^ 240 + 0x748636605614dbe4be286e9fc26adadaa3848bc90b6aecc4bcfd8de89885)

/-- The natural logarithm of 2 with 600 fraction bits, rounded down. -/
def lnTwo : Nat := ((0xb17217f7d1cf79abc9e3b39803f2f6 * 2 ^ 240 + 0xaf40f343267298b62d8a0d175b8baafa2be7b876206debac98559552fb4a) * 2 ^ 240 + 0xfa1b10ed2eae35c138214427573b291169b8253e96ca16224ae8c51acbda)

/-- The bits of the integer square root of n from bit k - 1 down, given the bits above. -/
def isqrtLoop (n : Nat) : Nat → Nat → Nat
  | 0, acc => acc
  | k + 1, acc => if (acc + 2 ^ k) * (acc + 2 ^ k) ≤ n then isqrtLoop n k (acc + 2 ^ k) else isqrtLoop n k acc

/-- The integer square root. -/
def isqrt (n : Nat) : Nat := isqrtLoop n (Nat.log2 n / 2 + 1) 0

/-- Rounds m × 2^e where the exact value lies strictly between m and m + 1 units when inexact is set. -/
def roundSticky (neg : Bool) (m : Nat) (e : Int) (inexact : Bool) : FpRes :=
  fp32.fin .rne neg (2 * m + (if inexact then 1 else 0)) (e - 1)

/-- Removes factors of two from a positive mantissa. -/
def normOdd : Nat → Nat → Int → Nat × Int
  | 0, m, e => (m, e)
  | k + 1, m, e => if m % 2 = 0 then normOdd k (m / 2) (e + 1) else (m, e)

/-- 1 ÷ (± m × 2^e) for m > 0 (R120). -/
def frcpFin (neg : Bool) (m : Nat) (e : Int) : FpRes :=
  let n := 2 ^ 100
  roundSticky neg (n / m) (-e - 100) (decide (n % m ≠ 0))

/-- The square root of m × 2^e (R120). -/
def fsqrtFin (m : Nat) (e : Int) : FpRes :=
  let m' := if e % 2 = 0 then m else 2 * m
  let e' := if e % 2 = 0 then e else e - 1
  let n := m' * 2 ^ 100
  let r := isqrt n
  roundSticky false r (e' / 2 - 50) (decide (r * r ≠ n))

/-- 1 ÷ the square root of m × 2^e for m > 0 (R120). -/
def frsqFin (m : Nat) (e : Int) : FpRes :=
  let (m1, e1) := normOdd 32 m e
  let m' := if e1 % 2 = 0 then m1 else 2 * m1
  let e' := if e1 % 2 = 0 then e1 else e1 - 1
  let r := isqrt (2 ^ 200 / m')
  roundSticky false r (-(e' / 2) - 100) (decide (r * r * m' ≠ 2 ^ 200))

/-- Terms of the exponential series from term i on: the last term, and the sum so far. -/
def expLoop (x : Nat) : Nat → Nat → Nat → Nat → Nat
  | 0, _, _, sum => sum
  | k + 1, i, term, sum =>
    let t := term * x / 2 ^ fxBits / i
    expLoop x k (i + 1) t (sum + t)

/-- e^x for a fixed-point x below 1. -/
def expFx (x : Nat) : Nat := expLoop x 160 1 (2 ^ fxBits) (2 ^ fxBits)

/-- 2^(± m × 2^e) (R120): integer part and fraction apart. Arguments of magnitude 256 and more overflow or vanish. -/
def fexp2Fin (neg : Bool) (m : Nat) (e : Int) : FpRes :=
  if m = 0 then { bits := 0x3F800000, flags := 0 }
  else if decide (8 ≤ (Nat.log2 m : Int) + e) then
    if neg then { bits := 0, flags := flagUF ||| flagNX }
    else { bits := fp32.infBits false, flags := flagOF ||| flagNX }
  else
    -- magnitude below 256, a multiple of 2^-149
    let x : Int := (m : Int) * 2 ^ (e + (fxBits : Int)).toNat
    let x : Int := if neg then -x else x
    let n : Int := x / 2 ^ fxBits
    let fr : Nat := (x % 2 ^ fxBits).toNat
    if fr = 0 then fp32.round .rne false 1 n
    else roundSticky false (expFx (fr * lnTwo / 2 ^ fxBits)) (n - (fxBits : Int)) true

/-- Terms of the series of the inverse hyperbolic tangent, odd powers from 2i + 1 on. -/
def atanhLoop (z2 : Nat) : Nat → Nat → Nat → Nat → Nat
  | 0, _, _, sum => sum
  | k + 1, i, pw, sum => atanhLoop z2 k (i + 1) (pw * z2 / 2 ^ fxBits) (sum + pw / (2 * i + 1))

/-- log₂ of m × 2^e for m > 0 (R120). -/
def flog2Fin (m : Nat) (e : Int) : FpRes :=
  let k := Nat.log2 m
  let ex : Int := (k : Int) + e
  if m = 2 ^ k then fp32.ofInt .rne ex
  else
    let one := 2 ^ fxBits
    let mant := m * one / 2 ^ k
    let z := (mant - one) * one / (mant + one)
    let ln := 2 * atanhLoop (z * z / one) 200 0 z 0
    let v : Int := ex * (one : Int) + ((ln * one / lnTwo : Nat) : Int)
    -- the exact value lies between v and v + 1 units; for a negative value, the magnitude between |v| - 1 and |v|
    if 0 ≤ v then roundSticky false v.toNat (-(fxBits : Int)) true
    else roundSticky true ((-v).toNat - 1) (-(fxBits : Int)) true

/-- The sine series from the term i on, its signs alternating. -/
def sinLoop (x2 : Nat) : Nat → Nat → Int → Int → Int
  | 0, _, _, sum => sum
  | k + 1, i, term, sum =>
    let t : Int := -(term * (x2 : Int) / 2 ^ fxBits / ((i + 1) * (i + 2) : Nat))
    sinLoop x2 k (i + 2) t (sum + t)

/-- Sine and cosine of a fixed-point angle of at most π ÷ 2. -/
def sinFx (x : Nat) : Int := sinLoop (x * x / 2 ^ fxBits) 90 1 (x : Int) (x : Int)
def cosFx (x : Nat) : Int := sinLoop (x * x / 2 ^ fxBits) 90 0 (2 ^ fxBits) (2 ^ fxBits)

/-- Sine (or cosine) of ± m × 2^e for m > 0, the argument reduced exactly (R120). -/
def fsincosFin (cos neg : Bool) (m : Nat) (e : Int) : FpRes :=
  let x : Nat := m * 2 ^ (e + (fxBits : Int)).toNat
  let quad := (x / halfPi) % 4
  let r := x % halfPi
  let q := if cos then (quad + 1) % 4 else quad
  let v : Int := if q % 2 = 0 then sinFx r else cosFx r
  let sg : Bool := decide (2 ≤ q) != (!cos && neg)
  if v ≤ 0 then roundSticky (sg != decide (v < 0)) v.natAbs (-(fxBits : Int)) true
  else roundSticky sg (v.toNat - 1) (-(fxBits : Int)) true

/-- The special functions of R120. -/
inductive SpecialFn where
  | rcp | rsq | sqrt | exp2 | log2 | sin | cos
deriving DecidableEq, Repr

def nvNan : FpRes := fp32.nanRes flagNV
def plusZero : FpRes := { bits := 0, flags := 0 }
def minusZero : FpRes := { bits := 0x80000000, flags := 0 }
def infRes (neg : Bool) (flags : Word) : FpRes := { bits := fp32.infBits neg, flags := flags }
def oneRes : FpRes := { bits := 0x3F800000, flags := 0 }

/-- A special function of a value (R120, R121). -/
def specialFn (fn : SpecialFn) (x : Fp) : FpRes :=
  match x with
  | .nan s => fp32.nanRes (if s then flagNV else 0)
  | .inf neg =>
    match fn with
    | .rcp => if neg then minusZero else plusZero
    | .rsq => if neg then nvNan else plusZero
    | .sqrt => if neg then nvNan else infRes false 0
    | .exp2 => if neg then plusZero else infRes false 0
    | .log2 => if neg then nvNan else infRes false 0
    | .sin => nvNan
    | .cos => nvNan
  | .fin neg m e =>
    if m = 0 then
      match fn with
      | .rcp => infRes neg flagDZ
      | .rsq => infRes neg flagDZ
      | .sqrt => if neg then minusZero else plusZero
      | .exp2 => oneRes
      | .log2 => infRes true flagDZ
      | .sin => if neg then minusZero else plusZero
      | .cos => oneRes
    else
      match fn with
      | .rcp => frcpFin neg m e
      | .rsq => if neg then nvNan else frsqFin m e
      | .sqrt => if neg then nvNan else fsqrtFin m e
      | .exp2 => fexp2Fin neg m e
      | .log2 => if neg then nvNan else flog2Fin m e
      | .sin => fsincosFin false neg m e
      | .cos => fsincosFin true neg m e

end Sys2Proof.Machine
end

