-- ==== Sys2Proof/Machine/Narrow.lean ====
section
/-! DEFINITION. Narrow formats, block scales and their conversions (R109 to R112, R125, R126, R150, R199). -/

namespace Sys2Proof.Machine

/-- A narrow format descriptor taken apart (R109). -/
structure NFmt where
  s    : Nat
  e    : Nat
  m    : Nat
  bias : Int
deriving DecidableEq, Repr

/-- The fields of a 16-bit format descriptor (R109). -/
def NFmt.ofDesc (d : BitVec 16) : NFmt :=
  { s := d.toNat % 2, e := d.toNat / 2 % 8, m := d.toNat / 16 % 16, bias := (d.extractLsb' 8 8).toInt }

/-- The code width w (R109). -/
def NFmt.width (f : NFmt) : Nat := f.s + f.e + f.m

/-- The exponent of the unit of a code's smallest step (R110). -/
def NFmt.qmin (f : NFmt) : Int := if f.e = 0 then -f.bias else 1 - f.bias - (f.m : Int)

/-- The value of a code, a zero always +0 (R110). -/
def NFmt.value (f : NFmt) (code : Nat) : Fp :=
  let mag := code % 2 ^ (f.e + f.m)
  let neg := decide (f.s = 1) && decide ((code / 2 ^ (f.e + f.m)) % 2 = 1)
  let ef := mag / 2 ^ f.m
  let mf := mag % 2 ^ f.m
  if mag = 0 then .fin false 0 0
  else if f.e = 0 || ef = 0 then .fin neg mf f.qmin
  else .fin neg (mf + 2 ^ f.m) (f.qmin + ((ef : Int) - 1))

/-- A narrow code with the flags that CVTN raises for it (R111). -/
structure NRes where
  code  : Nat
  flags : Word
deriving DecidableEq, Repr

/-- The largest magnitude code with a sign; zero for a negative value of an unsigned format (R111). -/
def NFmt.largest (f : NFmt) (neg : Bool) : Nat :=
  2 ^ (f.e + f.m) - 1 + (if neg then 2 ^ (f.e + f.m) else 0)

/-- The magnitude bits of m × 2^e rounded to nearest, ties to even magnitude bits, the exponent unbounded above, and
whether the value changed (R111). A format without exponent bits has the fixed-point grid, which goes on above its largest value: the
model's choice (log entry 85). -/
def NFmt.magnitude (f : NFmt) (m : Nat) (e : Int) : Nat × Bool :=
  if m = 0 then (0, false)
  else
    let ex : Int := (Nat.log2 m : Int) + e
    let q : Int := if f.e = 0 then f.qmin else max (ex - (f.m : Int)) f.qmin
    let base := (q - f.qmin).toNat * 2 ^ f.m
    if q ≤ e then (base + m * 2 ^ (e - q).toNat, false)
    else
      let s := (q - e).toNat
      let n := m / 2 ^ s
      let r := m % 2 ^ s
      let half := 2 ^ (s - 1)
      let up := decide (half < r) || (decide (r = half) && decide ((base + n) % 2 = 1))
      (base + n + (if up then 1 else 0), decide (0 < r))

/-- narrow(x, fmt) of R111, with the flags of CVTN. A NaN gives code 0 with NV (R125). -/
def NFmt.narrow (f : NFmt) (x : Fp) : NRes :=
  match x with
  | .nan _ => { code := 0, flags := flagNV }
  | .inf neg =>
    if f.s = 0 ∧ neg = true then { code := 0, flags := flagNX }
    else { code := f.largest neg, flags := flagNX ||| flagOF }
  | .fin neg m e =>
    if f.s = 0 ∧ neg = true ∧ 0 < m then { code := 0, flags := flagNX }
    else
      let (mag, dropped) := f.magnitude m e
      if 2 ^ (f.e + f.m) ≤ mag then { code := f.largest neg, flags := flagNX ||| flagOF }
      else
        { code := if mag = 0 then 0 else mag + (if neg then 2 ^ (f.e + f.m) else 0),
          flags := if dropped then flagNX else 0 }

/-- A value times 2^i, exactly. -/
def Fp.scale (x : Fp) (i : Int) : Fp :=
  match x with
  | .nan s => .nan s
  | .inf n => .inf n
  | .fin n m e => .fin n m (e + i)

/-- A narrow code widened under scale code k: rne32(value × 2^(k − 127)), scale 0xFF giving the canonical NaN (R112, R126,
R151). -/
def NFmt.widen (f : NFmt) (code k : Nat) : FpRes :=
  if k = 0xFF then { bits := fp32.qnan, flags := 0 }
  else fp32.convert .rne ((f.value code).scale ((k : Int) - 127))

/-- Whether the magnitude of a value is at most the largest finite value of a format times 2^i. -/
def NFmt.fits (f : NFmt) (x : Fp) (i : Int) : Bool :=
  match x with
  | .nan _ => false
  | .inf _ => false
  | .fin _ m e =>
    match (f.value (2 ^ (f.e + f.m) - 1)).scale i with
    | .fin _ m' e' => decide (Fp.sgnDiff (.fin false m e) (.fin false m' e') ≤ 0)
    | _ => false

/-- The smallest scale code from k on under which every value fits; 0xFE when there is none (R150). -/
def NFmt.scaleFrom (f : NFmt) (xs : List Fp) : Nat → Nat → Nat
  | 0, k => k
  | n + 1, k => if xs.all (fun x => f.fits x ((k : Int) - 127)) then k else NFmt.scaleFrom f xs n (k + 1)

/-- scale(x_0 …, fmt) of R150. -/
def NFmt.scaleCode (f : NFmt) (xs : List Fp) : Nat :=
  if xs.any Fp.isNan then 0xFF else f.scaleFrom xs 0xFE 0

/-- Quantises a value under a scale code, as MSTORE and SCALEQ do (R150, R173). -/
def NFmt.quant (f : NFmt) (k : Nat) (x : Fp) : Nat :=
  if k = 0xFF then 0 else (f.narrow (x.scale (127 - (k : Int)))).code

/-- CVTN of a list of registers under a scale code: the packed word and the flags (R125). -/
def cvtnWord (f : NFmt) (width k : Nat) : List Word → Nat → Nat × Word
  | [], _ => (0, 0)
  | w :: ws, i =>
    let r : NRes := if k = 0xFF then { code := 0, flags := flagNV } else f.narrow ((Fp.ofWord w).scale (127 - (k : Int)))
    let (v, fl) := cvtnWord f width k ws (i + 1)
    (v + r.code * 2 ^ (width * i), r.flags ||| fl)

/-- Field i of a packed word, read as a code: bits above w are ignored (R126). -/
def packedCode (f : NFmt) (width i : Nat) (w : Word) : Nat := w.toNat / 2 ^ (width * i) % 2 ^ f.width

end Sys2Proof.Machine
end

