-- ==== Sys2Proof/Machine/Limits.lean ====
section
/-! DEFINITION. The ranges that check 8 of R55 holds the operand fields to, instruction by instruction: register pairs and
ranges, numbers of special registers, barriers and galleries, and the widths, orders and operations an instruction allows. -/

namespace Sys2Proof.Machine

/-- An even register of at most 124, which names a pair (R79). -/
def isPair (r : Reg) : Bool := decide (r.toNat % 2 = 0) && decide (r.toNat ≤ 124)

/-- A pair, or 127 for a zero pair (R79). -/
def isPairZ (r : Reg) : Bool := isPair r || decide (r.toNat = 127)

/-- Registers of a width (R182). -/
def Width.regs : Width → Nat
  | .w64 => 2
  | .w128 => 4
  | _ => 1

/-- The register range of an access: d + r - 1 is at most 126 for the pair and quad widths (R182). -/
def rangeOk (d : Reg) (wd : Width) : Bool := decide (Width.regs wd = 1) || decide (d.toNat + Width.regs wd ≤ 127)

/-- The widths of stores (R182). -/
def storeWidth : Width → Bool
  | .s8 => false
  | .s16 => false
  | _ => true

/-- The widths of private accesses (R190). -/
def privWidth : Width → Bool
  | .w32 => true
  | .w64 => true
  | .w128 => true
  | _ => false

/-- Code width of a narrow format descriptor (R109). -/
def descWidth (d : BitVec 16) : Nat := d.toNat % 2 + d.toNat / 2 % 8 + d.toNat / 16 % 16

/-- Whether a narrow format descriptor is valid (R109). -/
def descValid (d : BitVec 16) : Bool :=
  decide (d.toNat / 16 % 16 ≤ 8) && decide (descWidth d ≤ 8) && decide (1 ≤ d.toNat / 2 % 8 + d.toNat / 16 % 16)

/-- The integer conditions (R81). -/
def intCond : CC → Bool
  | .num => false
  | .nan => false
  | _ => true

/-- A core-in-hall field is zero unless the access is remote (R46, R202). -/
def cihOk (remote : Bool) (cih : BitVec 2) : Bool := remote || decide (cih = 0)

/-- The orders of atomics: never weak (R232). -/
def atomOrder : Order → Bool
  | .weak => false
  | _ => true

/-- The floating operations of ATOM (R232). -/
def AtomOp.isFloat : AtomOp → Bool
  | .fadd => true
  | .fmin => true
  | .fmax => true
  | _ => false

/-- The CSR numbers of R345. -/
def csrDefined (c : BitVec 8) : Bool :=
  decide (c.toNat ∈ [0x00, 0x01, 0x02, 0x10, 0x11, 0x12, 0x13, 0x14, 0x15, 0x20, 0x21, 0x22, 0x23, 0x24, 0x30])

/-- The CSRs that CSRW may name (R345, R346). -/
def csrWritable (c : BitVec 8) : Bool := decide (c.toNat ∈ [0x20, 0x21, 0x22, 0x30])

/-- Whether the fields of an instruction lie in their ranges. -/
def limits : Instr → Bool
  | .bfe _ _ _ _ len pos => decide (1 ≤ len.toNat) && decide (pos.toNat + len.toNat ≤ 32)
  | .bfi _ _ _ _ len pos => decide (1 ≤ len.toNat) && decide (pos.toNat + len.toNat ≤ 32)
  | .iadd64 d a b _ => isPair d && isPairZ a && isPairZ b
  | .imulwI d _ _ _ => isPair d
  | .imulwN d _ _ _ => isPair d
  | .icmpI _ cc _ _ => intCond cc
  | .icmpN _ cc _ _ => intCond cc
  | .icmpiI _ cc _ _ => intCond cc
  | .cvtn _ a _ _ pack fmt =>
    descValid fmt && (!pack || decide (descWidth fmt ≤ 4)) && decide (a.toNat ≤ if pack then 119 else 123)
  | .unpn d _ _ _ pack fmt =>
    descValid fmt && (!pack || decide (descWidth fmt ≤ 4)) && decide (d.toNat ≤ if pack then 119 else 123)
  | .srd _ n => decide (n.toNat ≤ 20)
  | .swr _ n => decide (13 ≤ n.toNat) && decide (n.toNat ≤ 16)
  | .ld d _ _ _ _ ord wd _ => decide (ord ≠ .rel) && rangeOk d wd
  | .st d _ _ _ _ ord wd _ => decide (ord ≠ .acq) && storeWidth wd && rangeOk d wd
  | .lds d _ _ _ remote cih wd _ => cihOk remote cih && rangeOk d wd
  | .sts d _ _ _ remote cih wd _ => cihOk remote cih && storeWidth wd && rangeOk d wd
  | .ldp d _ _ wd _ => privWidth wd && rangeOk d wd
  | .stp d _ _ wd _ => privWidth wd && rangeOk d wd
  | .gfetch d _ _ _ _ _ => decide (d.toNat ≤ 126)
  | .copyl _ _ _ _ _ _ remote cih _ _ => cihOk remote cih
  | .atom d _ op _ _ ord wide _ => atomOrder ord && (!wide || (isPair d && !AtomOp.isFloat op))
  | .acas _ d _ _ _ ord wide c _ => atomOrder ord && (!wide || (isPair d && isPairZ c))
  | .dcas _ d _ _ _ _ _ ord => atomOrder ord && decide (d.toNat ≤ 123)
  | .amove d _ wide _ _ _ _ ord => atomOrder ord && (!wide || isPair d)
  | .mzero d _ => decide (d.toNat ≤ 95)
  | .mma d _ _ _ _ _ _ _ => decide (d.toNat ≤ 95)
  | .mmas d _ _ _ _ _ _ sa _ => decide (d.toNat ≤ 95) && decide (sa.toNat ≠ 63)
  | .mmag d _ _ _ _ _ _ _ => decide (d.toNat ≤ 95)
  | .mstore d fmt _ t _ => decide (d.toNat ≤ 95) && (decide (fmt = .narrow) || decide (t = 0))
  | .mload d fmt _ t _ => decide (d.toNat ≤ 95) && (decide (fmt = .narrow) || decide (t = 0))
  | .expand _ _ g _ _ _ gal => decide (gal.toNat ≤ 47) && (g || decide (gal = 0))
  | .xsect d _ _ _ _ _ _ _ => decide (d.toNat ≤ 125)
  | .xmerge d _ _ _ _ _ _ _ => decide (d.toNat ≤ 124)
  | .scaleq d _ q _ fmt => descValid fmt && (!q || decide (d.toNat ≠ 126))
  | .tfetch d _ _ => decide (d.toNat ≤ 123)
  | .atrPush _ a _ _ n _ _ _ => decide (a.toNat + n.toNat ≤ 126)
  | .atrRet _ _ _ rn c => decide (c.toNat + rn.toNat ≤ 126)
  | .barSync k => decide (k.toNat ≤ 47)
  | .barArv _ k => decide (k.toNat ≤ 47)
  | .barWait _ k => decide (k.toNat ≤ 47)
  | .joinGal k => decide (k.toNat ≤ 47)
  | .leaveGal k => decide (k.toNat ≤ 47)
  | .barInit k n => decide (k.toNat ≤ 47) && decide (n.toNat ≤ 2048)
  | .barSyncn k n => decide (k.toNat ≤ 47) && decide (1 ≤ n.toNat) && decide (n.toNat ≤ 2048)
  | .bestTake d _ => decide (d.toNat ≤ 123)
  | .gtime d _ => isPair d
  | .tlwait _ _ a _ => isPairZ a
  | .dlSet a _ => isPair a
  | .grow _ n => decide (1 ≤ n.toNat) && decide (n.toNat ≤ 16)
  | .shrink n => decide (1 ≤ n.toNat) && decide (n.toNat ≤ 16)
  | .csrr _ c => csrDefined c
  | .csrw _ c => csrWritable c
  | .tlbi _ a b => isPair a && isPair b
  | _ => true

end Sys2Proof.Machine
end

