-- ==== Sys2Proof/WellFormed.lean ====
section
/-! DEFINITION. When an instruction is well-formed: every operand field lies in the range that its rule gives it (check 8 of
R55). Field widths are in the types of Syntax; the ranges are in Machine/Limits. -/

namespace Sys2Proof

/-- The instruction's fields lie in their ranges. -/
def Instr.wf (i : Instr) : Bool := Machine.limits i

end Sys2Proof
end

