-- ==== Sys2Proof/Decode.lean ====
section
/-! DEFINITION. Reading instruction words (R36, R43 to R46, R52 and the layouts of the instruction chapters), the checks of
R55 on a clause, and the packets of command slots (R308 to R310, R314, R315); after them the encoder, from the same tables. -/

namespace Sys2Proof

/-- Why a word is not an instruction, or a clause is not well-formed, by the checks of R55. -/
inductive Reject where
  /-- Check 1: the header's marker, count or zero bits. -/
  | header
  /-- Check 2: the clause reaches past the code region. -/
  | pastEnd
  /-- Check 3: class 0xF. -/
  | classF
  /-- Check 4: class 0xD or 0xE, or a function that the class does not have. -/
  | noFunction
  /-- Check 5: a feature that was not accepted. -/
  | notAccepted
  /-- Check 6: a class of another engine. -/
  | wrongEngine
  /-- Check 7: no room for the X word. -/
  | lastWord
  /-- Check 8: a zero field that is not zero, or a field out of its range. -/
  | badField
  /-- Check 9: a control transfer that is not last, or one that a guard forbids. -/
  | badTransfer
deriving DecidableEq, Repr

/-- Bits lo to lo + len - 1 of a word. -/
def fld (w : Word) (lo len : Nat) : BitVec len := BitVec.ofNat len (w.toNat / 2 ^ lo)

/-- Bit n of a word. -/
def bit (w : Word) (n : Nat) : Bool := decide (w.toNat / 2 ^ n % 2 = 1)

/-- Whether bits lo to lo + len - 1 of a word are zero. -/
def zf (w : Word) (lo len : Nat) : Bool := decide (w.toNat / 2 ^ lo % 2 ^ len = 0)

/-- The instruction, if its zero fields are zero. -/
def keep (c : Bool) (i : Instr) : Option Instr := if c then some i else none

/-- Rounding mode codes (R105). -/
def RMode.ofCode (c : BitVec 2) : RMode :=
  match c.toNat with
  | 0 => .rne
  | 1 => .rz
  | 2 => .ru
  | _ => .rd

/-- The code of a value. -/
def RMode.code : RMode → Nat
  | .rne => 0
  | .rz => 1
  | .ru => 2
  | .rd => 3

/-- Condition codes (R81). -/
def CC.ofCode (c : BitVec 3) : CC :=
  match c.toNat with
  | 0 => .eq
  | 1 => .ne
  | 2 => .lt
  | 3 => .le
  | 4 => .gt
  | 5 => .ge
  | 6 => .num
  | _ => .nan

/-- The code of a value. -/
def CC.code : CC → Nat
  | .eq => 0
  | .ne => 1
  | .lt => 2
  | .le => 3
  | .gt => 4
  | .ge => 5
  | .num => 6
  | .nan => 7

/-- PBOOL operation codes; 3 to 7 are undefined (R82). -/
def BoolOp.ofCode (c : BitVec 3) : Option BoolOp :=
  match c.toNat with
  | 0 => some .and
  | 1 => some .or
  | 2 => some .xor
  | _ => none

/-- The code of a value. -/
def BoolOp.code : BoolOp → Nat
  | .and => 0
  | .or => 1
  | .xor => 2

/-- Width codes; 7 is undefined (R46). -/
def Width.ofCode (c : BitVec 3) : Option Width :=
  match c.toNat with
  | 0 => some .s8
  | 1 => some .z8
  | 2 => some .s16
  | 3 => some .z16
  | 4 => some .w32
  | 5 => some .w64
  | 6 => some .w128
  | _ => none

/-- The code of a value. -/
def Width.code : Width → Nat
  | .s8 => 0
  | .z8 => 1
  | .s16 => 2
  | .z16 => 3
  | .w32 => 4
  | .w64 => 5
  | .w128 => 6

/-- Order codes (R46). -/
def Order.ofCode (c : BitVec 2) : Order :=
  match c.toNat with
  | 0 => .weak
  | 1 => .strong
  | 2 => .acq
  | _ => .rel

/-- The code of a value. -/
def Order.code : Order → Nat
  | .weak => 0
  | .strong => 1
  | .acq => 2
  | .rel => 3

/-- ATOM operation codes; 12 to 15 are undefined (R232). -/
def AtomOp.ofCode (c : BitVec 4) : Option AtomOp :=
  match c.toNat with
  | 0 => some .add
  | 1 => some .minI
  | 2 => some .minN
  | 3 => some .maxI
  | 4 => some .maxN
  | 5 => some .and
  | 6 => some .or
  | 7 => some .xor
  | 8 => some .exch
  | 9 => some .fadd
  | 10 => some .fmin
  | 11 => some .fmax
  | _ => none

/-- The code of a value. -/
def AtomOp.code : AtomOp → Nat
  | .add => 0
  | .minI => 1
  | .minN => 2
  | .maxI => 3
  | .maxN => 4
  | .and => 5
  | .or => 6
  | .xor => 7
  | .exch => 8
  | .fadd => 9
  | .fmin => 10
  | .fmax => 11

/-- Reduction codes (R170). -/
def RedOp.ofCode (c : BitVec 3) : RedOp :=
  match c.toNat with
  | 0 => .add
  | 1 => .minI
  | 2 => .minN
  | 3 => .maxI
  | 4 => .maxN
  | 5 => .fadd
  | 6 => .fmin
  | _ => .fmax

/-- The code of a value. -/
def RedOp.code : RedOp → Nat
  | .add => 0
  | .minI => 1
  | .minN => 2
  | .maxI => 3
  | .maxN => 4
  | .fadd => 5
  | .fmin => 6
  | .fmax => 7

/-- VOTE operation codes (R167). -/
def VoteOp.ofCode (c : BitVec 3) : Option VoteOp :=
  match c.toNat with
  | 0 => some .all
  | 1 => some .any
  | 2 => some .uni
  | _ => none

/-- The code of a value. -/
def VoteOp.code : VoteOp → Nat
  | .all => 0
  | .any => 1
  | .uni => 2

/-- CCTL operation codes (R187). -/
def CctlOp.ofCode (c : BitVec 2) : Option CctlOp :=
  match c.toNat with
  | 0 => some .wb
  | 1 => some .inv
  | 2 => some .wbinv
  | _ => none

/-- The code of a value. -/
def CctlOp.code : CctlOp → Nat
  | .wb => 0
  | .inv => 1
  | .wbinv => 2

/-- COPYL size codes (R202). -/
def CopySize.ofCode (c : BitVec 2) : Option CopySize :=
  match c.toNat with
  | 0 => some .b4
  | 1 => some .b8
  | 2 => some .b16
  | _ => none

/-- The code of a value. -/
def CopySize.code : CopySize → Nat
  | .b4 => 0
  | .b8 => 1
  | .b16 => 2

/-- Row format codes (R149). -/
def RowFmt.ofCode (c : BitVec 2) : Option RowFmt :=
  match c.toNat with
  | 0 => some .f32
  | 1 => some .bf16
  | 2 => some .narrow
  | _ => none

/-- The code of a value. -/
def RowFmt.code : RowFmt → Nat
  | .f32 => 0
  | .bf16 => 1
  | .narrow => 2

/-- The widths of atomics: code 4 is one word, code 5 a doubleword (R232). -/
def wideOf (c : BitVec 3) : Option Bool :=
  match c.toNat with
  | 4 => some false
  | 5 => some true
  | _ => none

/-- The width code of an atomic. -/
def wideCode (wide : Bool) : Nat := if wide then 5 else 4

/-- Class 0x0 (R52): word 0 is w, the X word of a two-word instruction is x. -/
def decodeInt (fn : Nat) (w x : Word) : Option Instr :=
  match fn with
  | 0x00 => keep (true) (.iadd (fld w 15 7) (fld w 8 7) (fld w 1 7) (bit w 0))
  | 0x01 => keep (true) (.isub (fld w 15 7) (fld w 8 7) (fld w 1 7) (bit w 0))
  | 0x02 => keep (true) (.imul (fld w 15 7) (fld w 8 7) (fld w 1 7) (bit w 0))
  | 0x03 => keep (true) (.imulhI (fld w 15 7) (fld w 8 7) (fld w 1 7) (bit w 0))
  | 0x04 => keep (true) (.imulhN (fld w 15 7) (fld w 8 7) (fld w 1 7) (bit w 0))
  | 0x05 => keep (true) (.iminI (fld w 15 7) (fld w 8 7) (fld w 1 7) (bit w 0))
  | 0x06 => keep (true) (.iminN (fld w 15 7) (fld w 8 7) (fld w 1 7) (bit w 0))
  | 0x07 => keep (true) (.imaxI (fld w 15 7) (fld w 8 7) (fld w 1 7) (bit w 0))
  | 0x08 => keep (true) (.imaxN (fld w 15 7) (fld w 8 7) (fld w 1 7) (bit w 0))
  | 0x09 => keep (zf w 1 7) (.iabs (fld w 15 7) (fld w 8 7) (bit w 0))
  | 0x0A => keep (true) (.and (fld w 15 7) (fld w 8 7) (fld w 1 7) (bit w 0))
  | 0x0B => keep (true) (.or (fld w 15 7) (fld w 8 7) (fld w 1 7) (bit w 0))
  | 0x0C => keep (true) (.xor (fld w 15 7) (fld w 8 7) (fld w 1 7) (bit w 0))
  | 0x0D => keep (true) (.andn (fld w 15 7) (fld w 8 7) (fld w 1 7) (bit w 0))
  | 0x0E => keep (true) (.shl (fld w 15 7) (fld w 8 7) (fld w 1 7) (bit w 0))
  | 0x0F => keep (true) (.shr (fld w 15 7) (fld w 8 7) (fld w 1 7) (bit w 0))
  | 0x10 => keep (true) (.sar (fld w 15 7) (fld w 8 7) (fld w 1 7) (bit w 0))
  | 0x11 => keep (true) (.rotl (fld w 15 7) (fld w 8 7) (fld w 1 7) (bit w 0))
  | 0x12 => keep (zf w 1 7) (.popc (fld w 15 7) (fld w 8 7) (bit w 0))
  | 0x13 => keep (zf w 1 7) (.clz (fld w 15 7) (fld w 8 7) (bit w 0))
  | 0x14 => keep (zf w 1 7) (.brev (fld w 15 7) (fld w 8 7) (bit w 0))
  | 0x15 => keep (true) (.iaddi (fld w 15 7) (fld w 8 7) (fld w 0 8))
  | 0x16 => keep (zf w 5 3) (.shli (fld w 15 7) (fld w 8 7) (fld w 0 5))
  | 0x17 => keep (zf w 5 3) (.shri (fld w 15 7) (fld w 8 7) (fld w 0 5))
  | 0x18 => keep (zf w 5 3) (.sari (fld w 15 7) (fld w 8 7) (fld w 0 5))
  | 0x19 => keep (true) (.andi (fld w 15 7) (fld w 8 7) (fld w 0 8))
  | 0x1A => keep (true) (.ori (fld w 15 7) (fld w 8 7) (fld w 0 8))
  | 0x1B => keep (true) (.xori (fld w 15 7) (fld w 8 7) (fld w 0 8))
  | 0x20 => keep (zf x 0 25) (.imad (fld w 15 7) (fld w 8 7) (fld w 1 7) (bit w 0) (fld x 25 7))
  | 0x21 => keep (zf w 1 7) (.iadd32i (fld w 15 7) (fld w 8 7) (bit w 0) (fld x 0 32))
  | 0x22 => keep (zf x 5 27) (.lea (fld w 15 7) (fld w 8 7) (fld w 1 7) (bit w 0) (fld x 0 5))
  | 0x23 => keep (zf w 1 7 && zf x 12 20) (.bfe (fld w 15 7) (fld w 8 7) (bit w 0) (bit x 11) (fld x 5 6) (fld x 0 5))
  | 0x24 => keep (zf x 11 21) (.bfi (fld w 15 7) (fld w 8 7) (fld w 1 7) (bit w 0) (fld x 5 6) (fld x 0 5))
  | 0x25 => keep (zf x 0 32) (.iadd64 (fld w 15 7) (fld w 8 7) (fld w 1 7) (bit w 0))
  | 0x26 => keep (zf x 0 32) (.imulwI (fld w 15 7) (fld w 8 7) (fld w 1 7) (bit w 0))
  | 0x27 => keep (zf x 0 32) (.imulwN (fld w 15 7) (fld w 8 7) (fld w 1 7) (bit w 0))
  | 0x28 => keep (zf w 4 4 && zf x 0 25) (.divi (fld w 15 7) (fld w 8 7) (fld w 0 4) (fld x 25 7))
  | 0x29 => keep (zf w 4 4 && zf x 0 25) (.divn (fld w 15 7) (fld w 8 7) (fld w 0 4) (fld x 25 7))
  | 0x2A => keep (zf w 4 4 && zf x 0 25) (.remi (fld w 15 7) (fld w 8 7) (fld w 0 4) (fld x 25 7))
  | 0x2B => keep (zf w 4 4 && zf x 0 25) (.remn (fld w 15 7) (fld w 8 7) (fld w 0 4) (fld x 25 7))
  | _ => none

/-- Class 0x1 (R52): word 0 is w, the X word of a two-word instruction is x. -/
def decodeFloat (fn : Nat) (w x : Word) : Option Instr :=
  match fn with
  | 0x00 => keep (true) (.fadd (fld w 15 7) (fld w 8 7) (fld w 1 7) (bit w 0))
  | 0x01 => keep (true) (.fsub (fld w 15 7) (fld w 8 7) (fld w 1 7) (bit w 0))
  | 0x02 => keep (true) (.fmul (fld w 15 7) (fld w 8 7) (fld w 1 7) (bit w 0))
  | 0x03 => keep (true) (.fmin (fld w 15 7) (fld w 8 7) (fld w 1 7) (bit w 0))
  | 0x04 => keep (true) (.fmax (fld w 15 7) (fld w 8 7) (fld w 1 7) (bit w 0))
  | 0x05 => keep (true) (.hadd2Bf (fld w 15 7) (fld w 8 7) (fld w 1 7) (bit w 0))
  | 0x06 => keep (true) (.hmul2Bf (fld w 15 7) (fld w 8 7) (fld w 1 7) (bit w 0))
  | 0x07 => keep (true) (.hadd2Hf (fld w 15 7) (fld w 8 7) (fld w 1 7) (bit w 0))
  | 0x08 => keep (true) (.hmul2Hf (fld w 15 7) (fld w 8 7) (fld w 1 7) (bit w 0))
  | 0x09 => keep (true) (.hmin2Bf (fld w 15 7) (fld w 8 7) (fld w 1 7) (bit w 0))
  | 0x0A => keep (true) (.hmax2Bf (fld w 15 7) (fld w 8 7) (fld w 1 7) (bit w 0))
  | 0x20 => keep (zf x 2 23) (.ffma (fld w 15 7) (fld w 8 7) (fld w 1 7) (bit w 0) (fld x 25 7) (RMode.ofCode (fld x 0 2)))
  | 0x21 => keep (zf x 2 30) (.faddm (fld w 15 7) (fld w 8 7) (fld w 1 7) (bit w 0) (RMode.ofCode (fld x 0 2)))
  | 0x22 => keep (zf x 2 30) (.fmulm (fld w 15 7) (fld w 8 7) (fld w 1 7) (bit w 0) (RMode.ofCode (fld x 0 2)))
  | 0x23 => keep (zf x 2 23) (.hfma2Bf (fld w 15 7) (fld w 8 7) (fld w 1 7) (bit w 0) (fld x 25 7) (RMode.ofCode (fld x 0 2)))
  | 0x24 => keep (zf x 2 23) (.hfma2Hf (fld w 15 7) (fld w 8 7) (fld w 1 7) (bit w 0) (fld x 25 7) (RMode.ofCode (fld x 0 2)))
  | 0x25 => keep (zf w 1 7) (.faddi (fld w 15 7) (fld w 8 7) (bit w 0) (fld x 0 32))
  | 0x26 => keep (zf w 1 7) (.fmuli (fld w 15 7) (fld w 8 7) (bit w 0) (fld x 0 32))
  | _ => none

/-- Class 0x2 (R52): word 0 is w, the X word of a two-word instruction is x. -/
def decodeCmp (fn : Nat) (w x : Word) : Option Instr :=
  match fn with
  | 0x00 => keep (zf w 0 1) (.icmpI (fld w 18 4) (CC.ofCode (fld w 15 3)) (fld w 8 7) (fld w 1 7))
  | 0x01 => keep (zf w 0 1) (.icmpN (fld w 18 4) (CC.ofCode (fld w 15 3)) (fld w 8 7) (fld w 1 7))
  | 0x02 => keep (zf w 0 1) (.fcmp (fld w 18 4) (CC.ofCode (fld w 15 3)) (fld w 8 7) (fld w 1 7))
  | 0x03 => keep (zf w 0 1) (.icmpiI (fld w 18 4) (CC.ofCode (fld w 15 3)) (fld w 8 7) (fld w 1 7))
  | 0x04 => (BoolOp.ofCode (fld w 15 3)).bind fun op => keep (zf w 0 1 && zf w 5 2 && zf w 12 2) (.pbool (fld w 18 4) op (bit w 14) (fld w 8 4) (bit w 7) (fld w 1 4))
  | 0x05 => keep (zf w 1 14) (.p2g (fld w 15 7) (bit w 0))
  | 0x06 => keep (zf w 0 8 && zf w 15 7) (.g2p (fld w 8 7))
  | 0x20 => keep (zf x 0 20 && zf x 25 7) (.sel (fld w 15 7) (fld w 8 7) (fld w 1 7) (bit w 0) (fld x 21 4) (bit x 20))
  | _ => none

/-- Class 0x3 (R52): word 0 is w, the X word of a two-word instruction is x. -/
def decodeCvt (fn : Nat) (w x : Word) : Option Instr :=
  match fn with
  | 0x00 => keep (zf w 4 4) (.frcp (fld w 15 7) (fld w 8 7) (fld w 0 4))
  | 0x01 => keep (zf w 4 4) (.frsq (fld w 15 7) (fld w 8 7) (fld w 0 4))
  | 0x02 => keep (zf w 4 4) (.fsqrt (fld w 15 7) (fld w 8 7) (fld w 0 4))
  | 0x03 => keep (zf w 4 4) (.fexp2 (fld w 15 7) (fld w 8 7) (fld w 0 4))
  | 0x04 => keep (zf w 4 4) (.flog2 (fld w 15 7) (fld w 8 7) (fld w 0 4))
  | 0x05 => keep (zf w 4 4) (.fsinr (fld w 15 7) (fld w 8 7) (fld w 0 4))
  | 0x06 => keep (zf w 4 4) (.fcosr (fld w 15 7) (fld w 8 7) (fld w 0 4))
  | 0x07 => keep (zf w 6 2) (.frnd (fld w 15 7) (fld w 8 7) (RMode.ofCode (fld w 4 2)) (fld w 0 4))
  | 0x08 => keep (zf w 4 4) (.fclass (fld w 15 7) (fld w 8 7) (fld w 0 4))
  | 0x09 => keep (zf w 4 4) (.f2iI (fld w 15 7) (fld w 8 7) (fld w 0 4))
  | 0x0A => keep (zf w 4 4) (.f2iN (fld w 15 7) (fld w 8 7) (fld w 0 4))
  | 0x0B => keep (zf w 4 4) (.i2fI (fld w 15 7) (fld w 8 7) (fld w 0 4))
  | 0x0C => keep (zf w 4 4) (.i2fN (fld w 15 7) (fld w 8 7) (fld w 0 4))
  | 0x0D => keep (zf w 4 4) (.f2bf (fld w 15 7) (fld w 8 7) (fld w 0 4))
  | 0x0E => keep (zf w 4 4) (.bf2f (fld w 15 7) (fld w 8 7) (fld w 0 4))
  | 0x0F => keep (zf w 4 4) (.f2hf (fld w 15 7) (fld w 8 7) (fld w 0 4))
  | 0x10 => keep (zf w 4 4) (.hf2f (fld w 15 7) (fld w 8 7) (fld w 0 4))
  | 0x20 => keep (zf w 4 4 && zf x 17 8) (.cvtn (fld w 15 7) (fld w 8 7) (fld w 0 4) (fld x 25 7) (bit x 16) (fld x 0 16))
  | 0x21 => keep (zf w 4 4 && zf x 17 8) (.unpn (fld w 15 7) (fld w 8 7) (fld w 0 4) (fld x 25 7) (bit x 16) (fld x 0 16))
  | 0x22 => keep (zf w 4 4 && zf x 3 29) (.f2iM (fld w 15 7) (fld w 8 7) (fld w 0 4) (bit x 2) (RMode.ofCode (fld x 0 2)))
  | _ => none

/-- Class 0x4 (R52): word 0 is w, the X word of a two-word instruction is x. -/
def decodeCtl (fn : Nat) (w x : Word) : Option Instr :=
  match fn with
  | 0x00 => keep (true) (.jmp (fld w 0 22))
  | 0x01 => keep (true) (.call (fld w 0 22))
  | 0x02 => keep (zf w 0 22) .ret
  | 0x03 => keep (zf w 0 22) .exit
  | 0x04 => keep (zf w 0 22) .nop
  | 0x05 => keep (zf w 0 22) .yield
  | 0x06 => keep (zf w 8 14) (.sleep (fld w 0 8))
  | 0x07 => keep (zf w 8 14) (.brk (fld w 0 8))
  | 0x08 => keep (zf w 8 14) (.trap (fld w 0 8))
  | 0x20 => keep (true) (.bra (fld w 18 4) (bit w 17) (fld w 0 17) (fld x 0 32))
  | 0x21 => keep (zf w 0 8 && zf w 15 7) (.brx (fld w 8 7) (fld x 0 32))
  | _ => none

/-- Class 0x5 (R52): word 0 is w, the X word of a two-word instruction is x. -/
def decodeMov (fn : Nat) (w x : Word) : Option Instr :=
  match fn with
  | 0x00 => keep (zf w 1 7) (.mov (fld w 15 7) (fld w 8 7) (bit w 0))
  | 0x01 => keep (zf w 8 7) (.movi (fld w 15 7) (fld w 0 8))
  | 0x02 => keep (zf w 8 7) (.srd (fld w 15 7) (fld w 0 8))
  | 0x03 => keep (zf w 15 7) (.swr (fld w 8 7) (fld w 0 8))
  | 0x04 => keep (zf w 1 7 && zf w 14 1) (.u2g (fld w 15 7) (fld w 8 6) (bit w 0))
  | 0x05 => keep (zf w 0 8 && zf w 21 1) (.g2u (fld w 15 6) (fld w 8 7))
  | 0x06 => keep (zf w 0 4) (.uadd (fld w 16 6) (fld w 10 6) (fld w 4 6))
  | 0x07 => keep (zf w 0 10) (.umov (fld w 16 6) (fld w 10 6))
  | 0x08 => keep (zf w 0 4) (.uand (fld w 16 6) (fld w 10 6) (fld w 4 6))
  | 0x09 => keep (zf w 0 4) (.ushl (fld w 16 6) (fld w 10 6) (fld w 4 6))
  | 0x0A => keep (zf w 8 7 && zf w 21 1) (.umovi (fld w 15 6) (fld w 0 8))
  | 0x20 => keep (zf w 1 14) (.mov32i (fld w 15 7) (bit w 0) (fld x 0 32))
  | 0x21 => keep (zf w 0 16) (.umov32i (fld w 16 6) (fld x 0 32))
  | _ => none

/-- Class 0x6 (R52): word 0 is w, the X word of a two-word instruction is x. -/
def decodeMem (fn : Nat) (w x : Word) : Option Instr :=
  match fn with
  | 0x00 => keep (zf w 0 22) .fenceAcq
  | 0x01 => keep (zf w 0 22) .fenceRel
  | 0x02 => keep (zf w 0 22) .fenceAr
  | 0x20 => (Width.ofCode (fld x 17 3)).bind fun wd => keep (zf w 5 3) (.ld (fld w 15 7) (fld w 8 7) (bit w 4) (fld w 0 4) (fld x 22 10) (Order.ofCode (fld x 20 2)) wd (fld x 0 17))
  | 0x21 => (Width.ofCode (fld x 17 3)).bind fun wd => keep (zf w 5 3) (.st (fld w 15 7) (fld w 8 7) (bit w 4) (fld w 0 4) (fld x 22 10) (Order.ofCode (fld x 20 2)) wd (fld x 0 17))
  | 0x22 => (Width.ofCode (fld x 22 3)).bind fun wd => keep (zf w 4 4 && zf x 17 5) (.lds (fld w 15 7) (fld w 8 7) (fld w 0 4) (fld x 28 4) (bit x 27) (fld x 25 2) wd (fld x 0 17))
  | 0x23 => (Width.ofCode (fld x 22 3)).bind fun wd => keep (zf w 4 4 && zf x 17 5) (.sts (fld w 15 7) (fld w 8 7) (fld w 0 4) (fld x 28 4) (bit x 27) (fld x 25 2) wd (fld x 0 17))
  | 0x24 => (Width.ofCode (fld x 17 3)).bind fun wd => keep (zf w 4 4 && zf x 20 12) (.ldp (fld w 15 7) (fld w 8 7) (fld w 0 4) wd (fld x 0 17))
  | 0x25 => (Width.ofCode (fld x 17 3)).bind fun wd => keep (zf w 4 4 && zf x 20 12) (.stp (fld w 15 7) (fld w 8 7) (fld w 0 4) wd (fld x 0 17))
  | 0x26 => (Width.ofCode (fld x 17 3)).bind fun wd => keep (zf w 5 3 && zf w 15 7 && zf x 20 2) (.pref (fld w 8 7) (bit w 4) (fld w 0 4) (fld x 22 10) wd (fld x 0 17))
  | 0x27 => keep (zf w 5 10 && zf x 0 12) (.gfetch (fld w 15 7) (bit w 4) (fld w 0 4) (fld x 24 8) (fld x 18 6) (fld x 12 6))
  | 0x28 => (CopySize.ofCode (fld w 4 2)).bind fun n => keep (zf w 6 2) (.copyl (fld w 15 7) (fld w 8 7) n (fld w 0 4) (fld x 22 10) (fld x 18 4) (bit x 17) (fld x 15 2) (fld x 11 4) (fld x 0 11))
  | 0x29 => (CctlOp.ofCode (fld w 4 2)).bind fun op => keep (zf w 6 2 && zf w 15 7 && zf x 17 5) (.cctl (fld w 8 7) op (fld w 0 4) (fld x 22 10) (fld x 0 17))
  | _ => none

/-- Class 0x7 (R52): word 0 is w, the X word of a two-word instruction is x. -/
def decodeAtm (fn : Nat) (w x : Word) : Option Instr :=
  match fn with
  | 0x00 => keep (zf w 0 22) .aabort
  | 0x01 => keep (zf w 4 11) (.astat (fld w 15 7) (fld w 0 4))
  | 0x20 => (AtomOp.ofCode (fld w 4 4)).bind fun op => (wideOf (fld x 17 3)).bind fun wide => keep (true) (.atom (fld w 15 7) (fld w 8 7) op (fld w 0 4) (fld x 22 10) (Order.ofCode (fld x 20 2)) wide (fld x 0 17))
  | 0x21 => (wideOf (fld x 17 3)).bind fun wide => keep (true) (.acas (fld w 4 4) (fld w 15 7) (fld w 8 7) (fld w 0 4) (fld x 22 10) (Order.ofCode (fld x 20 2)) wide (fld x 10 7) (fld x 0 10))
  | 0x22 => keep (zf x 0 3) (.dcas (fld w 4 4) (fld w 15 7) (fld w 8 7) (fld w 0 4) (fld x 22 10) (fld x 12 10) (fld x 5 7) (Order.ofCode (fld x 3 2)))
  | 0x23 => keep (zf w 5 3 && zf x 0 3) (.amove (fld w 15 7) (fld w 8 7) (bit w 4) (fld w 0 4) (fld x 22 10) (fld x 12 10) (fld x 5 7) (Order.ofCode (fld x 3 2)))
  | 0x24 => keep (zf w 0 22) (.abegin (fld x 0 32))
  | 0x25 => keep (zf w 0 4 && zf w 6 16 && zf x 0 28) (.aend (bit w 4) (bit w 5) (fld x 28 4))
  | _ => none

/-- Class 0x8 (R52): word 0 is w, the X word of a two-word instruction is x. -/
def decodeMma (fn : Nat) (w x : Word) : Option Instr :=
  match fn with
  | 0x00 => keep (zf w 4 11) (.mzero (fld w 15 7) (fld w 0 4))
  | 0x01 => keep (zf w 5 10) (.midle (fld w 15 7) (bit w 4) (fld w 0 4))
  | 0x20 => keep (zf w 6 9 && zf x 0 4) (.mma (fld w 15 7) (bit w 5) (bit w 4) (fld w 0 4) (fld x 24 8) (fld x 16 8) (fld x 10 6) (fld x 4 6))
  | 0x21 => keep (zf w 7 8 && zf x 0 4) (.mmas (fld w 15 7) (bit w 6) (bit w 5) (bit w 4) (fld w 0 4) (fld x 24 8) (fld x 16 8) (fld x 10 6) (fld x 4 6))
  | 0x22 => keep (zf w 6 9 && zf x 0 4) (.mmag (fld w 15 7) (bit w 5) (bit w 4) (fld w 0 4) (fld x 24 8) (fld x 16 8) (fld x 10 6) (fld x 4 6))
  | 0x23 => (RowFmt.ofCode (fld w 4 2)).bind fun fmt => keep (zf w 6 9 && zf x 0 10 && zf x 16 8) (.mstore (fld w 15 7) fmt (fld w 0 4) (fld x 24 8) (fld x 10 6))
  | 0x24 => (RowFmt.ofCode (fld w 4 2)).bind fun fmt => keep (zf w 6 9 && zf x 0 10 && zf x 16 8) (.mload (fld w 15 7) fmt (fld w 0 4) (fld x 24 8) (fld x 10 6))
  | _ => none

/-- Class 0x9 (R52): word 0 is w, the X word of a two-word instruction is x. -/
def decodeXpd (fn : Nat) (w x : Word) : Option Instr :=
  match fn with
  | 0x00 => keep (zf w 5 3) (.swz (fld w 15 7) (fld w 8 7) (fld w 0 5))
  | 0x01 => keep (true) (.shfl (fld w 15 7) (fld w 8 7) (fld w 1 7) (bit w 0))
  | 0x02 => (VoteOp.ofCode (fld w 15 3)).bind fun op => keep (zf w 0 8 && zf w 12 2) (.vote (fld w 18 4) op (bit w 14) (fld w 8 4))
  | 0x03 => keep (zf w 0 8 && zf w 12 2) (.ballot (fld w 15 7) (bit w 14) (fld w 8 4))
  | 0x04 => keep (zf w 4 4) (.scan (fld w 15 7) (fld w 8 7) (bit w 3) (RedOp.ofCode (fld w 0 3)))
  | 0x05 => keep (zf w 3 5) (.reduce (fld w 15 7) (fld w 8 7) (RedOp.ofCode (fld w 0 3)))
  | 0x06 => keep (zf w 0 8) (.matchLanes (fld w 15 7) (fld w 8 7))
  | 0x20 => keep (zf w 7 1 && zf x 0 19) (.expand (fld w 15 7) (fld w 8 7) (bit w 6) (fld w 4 2) (fld w 0 4) (fld x 25 7) (fld x 19 6))
  | 0x21 => keep (zf w 7 8 && zf x 0 28) (.enext (fld w 15 7) (bit w 6) (fld w 4 2) (fld w 0 4) (fld x 28 4))
  | 0x22 => keep (zf w 6 2 && zf x 0 25) (.segred (fld w 15 7) (fld w 8 7) (fld w 4 2) (fld w 0 4) (fld x 28 4) (RedOp.ofCode (fld x 25 3)))
  | 0x23 => keep (zf w 5 3 && zf x 0 13) (.xsect (fld w 15 7) (fld w 8 7) (bit w 4) (fld w 0 4) (fld x 25 7) (fld x 21 4) (fld x 17 4) (fld x 13 4))
  | 0x24 => keep (zf w 5 3 && zf x 0 13) (.xmerge (fld w 15 7) (fld w 8 7) (bit w 4) (fld w 0 4) (fld x 25 7) (fld x 21 4) (fld x 17 4) (fld x 13 4))
  | 0x25 => keep (zf w 5 3 && zf x 16 16) (.scaleq (fld w 15 7) (fld w 8 7) (bit w 4) (fld w 0 4) (fld x 0 16))
  | _ => none

/-- Class 0xA (R52): word 0 is w, the X word of a two-word instruction is x. -/
def decodeEng (fn : Nat) (w x : Word) : Option Instr :=
  match fn with
  | 0x20 => keep (zf w 4 4 && zf w 15 7 && zf x 0 21) (.spawn (fld x 28 4) (fld w 8 7) (fld w 0 4) (fld x 26 2) (fld x 21 5))
  | 0x21 => keep (zf w 4 11 && zf x 0 28) (.tfetch (fld w 15 7) (fld w 0 4) (fld x 28 4))
  | 0x22 => keep (zf w 4 4 && zf x 0 4) (.atrPush (fld w 15 7) (fld w 8 7) (fld w 0 4) (fld x 30 2) (fld x 25 5) (fld x 21 4) (fld x 11 10) (fld x 4 7))
  | 0x23 => keep (zf w 4 11 && zf x 10 2) (.atrPop (fld w 15 7) (fld w 0 4) (fld x 30 2) (fld x 26 4) (fld x 22 4) (fld x 12 10) (fld x 0 10))
  | 0x24 => keep (zf w 4 4 && zf w 15 7 && zf x 0 20) (.atrRet (fld w 8 7) (fld w 0 4) (fld x 30 2) (fld x 27 3) (fld x 20 7))
  | 0x25 => keep (zf w 4 4 && zf x 17 3) (.cqry (fld w 15 7) (fld w 8 7) (fld w 0 4) (fld x 22 10) (fld x 20 2) (fld x 0 17))
  | 0x26 => keep (zf w 4 4 && zf x 17 3) (.dstep (fld w 15 7) (fld w 8 7) (fld w 0 4) (fld x 22 10) (fld x 20 2) (fld x 0 17))
  | 0x27 => keep (zf w 5 3 && zf w 15 7 && zf x 16 12) (.fwait (fld x 28 4) (fld w 8 7) (bit w 4) (fld w 0 4) (fld x 0 16))
  | 0x28 => keep (zf w 5 3 && zf w 15 7 && zf x 0 28) (.ftest (fld x 28 4) (fld w 8 7) (bit w 4) (fld w 0 4))
  | 0x29 => keep (zf x 17 3) (.chain (fld w 15 7) (fld w 8 7) (fld w 4 4) (fld w 0 4) (fld x 22 10) (fld x 20 2) (fld x 0 17))
  | 0x2A => keep (zf w 4 11 && zf x 0 22) (.poolAlloc (fld w 15 7) (fld w 0 4) (fld x 28 4) (fld x 22 6))
  | 0x2B => keep (zf w 4 4 && zf w 15 7 && zf x 0 22 && zf x 28 4) (.poolFree (fld w 8 7) (fld w 0 4) (fld x 22 6))
  | 0x2C => keep (zf w 6 9 && zf x 0 28) (.scopeOpen (fld w 15 7) (bit w 5) (bit w 4) (fld w 0 4) (fld x 28 4))
  | 0x2D => keep (zf w 4 18 && zf x 0 32) (.scopeClose (fld w 0 4))
  | 0x2E => keep (zf w 4 4 && zf w 15 7 && zf x 0 32) (.cancel (fld w 8 7) (fld w 0 4))
  | _ => none

/-- Class 0xB (R52): word 0 is w, the X word of a two-word instruction is x. -/
def decodeSyn (fn : Nat) (w x : Word) : Option Instr :=
  match fn with
  | 0x00 => keep (zf w 8 14) (.barSync (fld w 0 8))
  | 0x01 => keep (zf w 8 7) (.barArv (fld w 15 7) (fld w 0 8))
  | 0x02 => keep (zf w 15 7) (.barWait (fld w 8 7) (fld w 0 8))
  | 0x03 => keep (zf w 8 14) (.joinGal (fld w 0 8))
  | 0x04 => keep (zf w 8 14) (.leaveGal (fld w 0 8))
  | 0x05 => keep (zf w 0 8) (.landWait (fld w 15 7) (fld w 8 7))
  | 0x06 => keep (zf w 1 14) (.bestTake (fld w 15 7) (bit w 0))
  | 0x07 => keep (zf w 1 7) (.bestInval (fld w 15 7) (fld w 8 7) (bit w 0))
  | 0x08 => keep (zf w 0 8 && zf w 15 7) (.specMark (fld w 8 7))
  | 0x09 => keep (zf w 0 8 && zf w 15 7) (.specCommit (fld w 8 7))
  | 0x0A => keep (zf w 0 22) .specBack
  | 0x0B => keep (true) (.rng (fld w 15 7) (fld w 8 7) (fld w 1 7) (bit w 0))
  | 0x0C => keep (zf w 1 14) (.gtime (fld w 15 7) (bit w 0))
  | 0x20 => keep (zf w 0 22 && zf x 18 14) (.barInit (fld x 12 6) (fld x 0 12))
  | 0x21 => keep (zf w 0 22 && zf x 18 14) (.barSyncn (fld x 12 6) (fld x 0 12))
  | 0x22 => keep (zf x 0 28) (.landInit (fld w 15 7) (fld w 8 7) (fld w 1 7) (bit w 0) (fld x 28 4))
  | 0x23 => keep (zf w 0 8 && zf w 15 7 && zf x 16 10) (.tlwait (fld x 28 4) (fld x 26 2) (fld w 8 7) (fld x 0 16))
  | 0x24 => keep (zf w 0 8 && zf w 15 7 && zf x 1 31) (.dlSet (fld w 8 7) (bit x 0))
  | 0x25 => keep (zf x 0 28) (.bestOffer (fld x 28 4) (fld w 15 7) (fld w 8 7) (fld w 1 7) (bit w 0))
  | _ => none

/-- Class 0xC (R52): word 0 is w, the X word of a two-word instruction is x. -/
def decodeSys (fn : Nat) (w _x : Word) : Option Instr :=
  match fn with
  | 0x00 => keep (zf w 0 1 && zf w 8 10) (.grow (fld w 18 4) (fld w 1 7))
  | 0x01 => keep (zf w 8 14) (.shrink (fld w 0 8))
  | 0x02 => keep (zf w 8 7) (.csrr (fld w 15 7) (fld w 0 8))
  | 0x03 => keep (zf w 15 7) (.csrw (fld w 8 7) (fld w 0 8))
  | 0x04 => keep (zf w 0 8 && zf w 15 7) (.halt (fld w 8 7))
  | 0x05 => keep (zf w 0 8 && zf w 15 7) (.eret (fld w 8 7))
  | 0x06 => keep (zf w 0 1) (.tlbi (fld w 15 7) (fld w 8 7) (fld w 1 7))
  | 0x07 => keep (zf w 0 8 && zf w 15 7) (.faultack (fld w 8 7))
  | _ => none
/-- The class and function of an instruction word: bits [31:22] (R43). -/
def opBits (w : Word) : Nat := w.toNat / 2 ^ 22

/-- Whether a class has a function (R52). -/
def opDefined (op : Nat) : Bool :=
  let fn := op % 64
  match op / 64 with
  | 0 => decide (fn ≤ 0x1B) || (decide (0x20 ≤ fn) && decide (fn ≤ 0x2B))
  | 1 => decide (fn ≤ 0x0A) || (decide (0x20 ≤ fn) && decide (fn ≤ 0x26))
  | 2 => decide (fn ≤ 0x06) || (decide (0x20 ≤ fn) && decide (fn ≤ 0x20))
  | 3 => decide (fn ≤ 0x10) || (decide (0x20 ≤ fn) && decide (fn ≤ 0x22))
  | 4 => decide (fn ≤ 0x08) || (decide (0x20 ≤ fn) && decide (fn ≤ 0x21))
  | 5 => decide (fn ≤ 0x0A) || (decide (0x20 ≤ fn) && decide (fn ≤ 0x21))
  | 6 => decide (fn ≤ 0x02) || (decide (0x20 ≤ fn) && decide (fn ≤ 0x29))
  | 7 => decide (fn ≤ 0x01) || (decide (0x20 ≤ fn) && decide (fn ≤ 0x25))
  | 8 => decide (fn ≤ 0x01) || (decide (0x20 ≤ fn) && decide (fn ≤ 0x24))
  | 9 => decide (fn ≤ 0x06) || (decide (0x20 ≤ fn) && decide (fn ≤ 0x25))
  | 10 => (decide (0x20 ≤ fn) && decide (fn ≤ 0x2E))
  | 11 => decide (fn ≤ 0x0C) || (decide (0x20 ≤ fn) && decide (fn ≤ 0x25))
  | 12 => decide (fn ≤ 0x07)
  | _ => false

/-- The instruction whose class and function are op, with its fields (R52). -/
def decodeOp (op : Nat) (w x : Word) : Option Instr :=
  match op / 64 with
  | 0 => decodeInt (op % 64) w x
  | 1 => decodeFloat (op % 64) w x
  | 2 => decodeCmp (op % 64) w x
  | 3 => decodeCvt (op % 64) w x
  | 4 => decodeCtl (op % 64) w x
  | 5 => decodeMov (op % 64) w x
  | 6 => decodeMem (op % 64) w x
  | 7 => decodeAtm (op % 64) w x
  | 8 => decodeMma (op % 64) w x
  | 9 => decodeXpd (op % 64) w x
  | 10 => decodeEng (op % 64) w x
  | 11 => decodeSyn (op % 64) w x
  | 12 => decodeSys (op % 64) w x
  | _ => none

/-- Checks 3, 4 and 8 of R55 on the words of one instruction; x is ignored by a one-word instruction. -/
def decode (w x : Word) : Except Reject Instr :=
  let op := opBits w
  if 15 * 64 ≤ op then .error .classF
  else if opDefined op = false then .error .noFunction
  else
    match decodeOp op w x with
    | none => .error .badField
    | some i => if i.wf then .ok i else .error .badField

/-- Whether word 0 announces an X word: bit 27 (R36). -/
def hasX (w : Word) : Bool := bit w 27

/-- Four bytes as a word, the first at the lowest address (R2). -/
def wordOf (b0 b1 b2 b3 : Byte) : Word :=
  BitVec.ofNat 32 (b0.toNat + b1.toNat * 256 + b2.toNat * 65536 + b3.toNat * 16777216)

/-- Reads the instruction at the start of a list of bytes, and the bytes after it. -/
def decodeBytes (bs : List Byte) : Except Reject (Instr × List Byte) :=
  match bs with
  | b0 :: b1 :: b2 :: b3 :: rest =>
    let w := wordOf b0 b1 b2 b3
    if hasX w then
      match rest with
      | c0 :: c1 :: c2 :: c3 :: rest' =>
        match decode w (wordOf c0 c1 c2 c3) with
        | .ok i => .ok (i, rest')
        | .error e => .error e
      | _ =>
        match decode w 0 with
        | .ok _ => .error .lastWord
        | .error .badField => .error .lastWord
        | .error e => .error e
    else
      match decode w 0 with
      | .ok i => .ok (i, rest)
      | .error e => .error e
  | _ => .error .pastEnd

/-- The n low bytes of a number, lowest first. -/
def bytesOf : Nat → Nat → List Byte
  | 0, _ => []
  | n + 1, v => BitVec.ofNat 8 v :: bytesOf n (v / 256)

/-- The instruction whose bits are w, as the table of operations numbers them: word 0 in bits 31 to 0, the X word above. -/
def decodeTableWord (nbits w : Nat) : Option Instr :=
  match decodeBytes (bytesOf 8 (w % 2 ^ nbits)) with
  | .ok (i, _) => some i
  | .error _ => none

/-- The engine of a class (R38). -/
def engineOf (cls : Nat) : Nat :=
  match cls with
  | 0 | 1 | 2 | 5 => 0
  | 3 => 1
  | 4 => 2
  | 6 | 7 => 3
  | 8 => 4
  | 9 => 5
  | 10 | 11 => 6
  | _ => 7

/-- The feature bit that gates a class and function (R54). -/
def featureOf (op : Nat) : Nat :=
  match op / 64, op % 64 with
  | 8, 0x21 => 8
  | 8, 0x22 => 9
  | 7, 0x24 => 10
  | 7, 0x25 => 10
  | 7, 0x00 => 10
  | 7, 0x01 => 10
  | 9, 0x20 => 11
  | 9, 0x21 => 11
  | 9, 0x22 => 11
  | 9, 0x23 => 12
  | 9, 0x24 => 12
  | 10, 0x22 => 13
  | 10, 0x23 => 13
  | 10, 0x24 => 13
  | 10, 0x25 => 14
  | 10, 0x26 => 15
  | 11, 0x08 => 16
  | 11, 0x09 => 16
  | 11, 0x0A => 16
  | 3, 0x20 => 17
  | 3, 0x21 => 17
  | 9, 0x25 => 17
  | _, _ => 0

/-- The control transfers (R41). -/
def Instr.isTransfer : Instr → Bool
  | .jmp .. => true
  | .call .. => true
  | .ret => true
  | .exit => true
  | .bra .. => true
  | .brx .. => true
  | .trap .. => true
  | .brk .. => true
  | .halt .. => true
  | .eret .. => true
  | _ => false

/-- The control transfers that may end a guarded clause (R41). -/
def Instr.mayGuard : Instr → Bool
  | .exit => true
  | .trap .. => true
  | .brk .. => true
  | _ => false

/-- Fields of a clause header (R37). -/
def hdrCount (h : Word) : Nat := (fld h 24 4).toNat
def hdrEngine (h : Word) : Nat := (fld h 21 3).toNat
def hdrGneg (h : Word) : Bool := bit h 20
def hdrGuard (h : Word) : PReg := fld h 16 4
def hdrWaitAll (h : Word) : Bool := bit h 15
def hdrWaitMem (h : Word) : Bool := bit h 14
def hdrWaitMat (h : Word) : Bool := bit h 13
def hdrWaitAsy (h : Word) : Bool := bit h 12
def hdrWaitCol (h : Word) : Bool := bit h 11
def hdrYield (h : Word) : Bool := bit h 7

/-- Check 1 of R55. -/
def hdrOk (h : Word) : Bool :=
  decide ((fld h 28 4).toNat = 15) && decide (hdrCount h ≠ 0) && zf h 8 3 && zf h 0 7

/-- The unguarded form of a header (R40). -/
def hdrUnguarded (h : Word) : Bool := decide ((hdrGuard h).toNat = 15) && !hdrGneg h

/-- Checks 3 to 9 of R55 on one instruction; last says whether it ends the clause. -/
def instrCheck (accepted : BitVec 64) (h w : Word) (x : Option Word) (last : Bool) : Option Reject :=
  let op := opBits w
  if 15 * 64 ≤ op then some .classF
  else if opDefined op = false then some .noFunction
  else if accepted.getLsbD (featureOf op) = false then some .notAccepted
  else if engineOf (op / 64) ≠ hdrEngine h then some .wrongEngine
  else if hasX w && x.isNone then some .lastWord
  else
    match decode w (x.getD 0) with
    | .error e => some e
    | .ok i => if i.isTransfer && (!last || (!hdrUnguarded h && !i.mayGuard)) then some .badTransfer else none

/-- The checks of R55 on the words of a clause, in address order, with the number of the failing word; pos is the number of
the first word. -/
def bodyCheck (accepted : BitVec 64) (h : Word) : List Word → Nat → Option (Reject × Nat)
  | [], _ => none
  | w :: rest, pos =>
    if hasX w then
      match rest with
      | [] =>
        match instrCheck accepted h w none true with
        | some e => some (e, pos)
        | none => none
      | x :: rest' =>
        match instrCheck accepted h w (some x) rest'.isEmpty with
        | some e => some (e, pos)
        | none => bodyCheck accepted h rest' (pos + 2)
    else
      match instrCheck accepted h w none rest.isEmpty with
      | some e => some (e, pos)
      | none => bodyCheck accepted h rest (pos + 1)

/-- All checks of R55 on the clause whose header is word idx of a code region, with the number of the failing word. -/
def clauseCheck (accepted : BitVec 64) (code : List Word) (idx : Nat) : Option (Reject × Nat) :=
  match code.drop idx with
  | [] => some (.pastEnd, idx)
  | h :: rest =>
    if hdrOk h = false then some (.header, idx)
    else if rest.length < hdrCount h then some (.pastEnd, idx)
    else bodyCheck accepted h (rest.take (hdrCount h)) (idx + 1)

/-- The class and function of a program instruction (R52); none for packets and events. -/
def Instr.op : Instr → Option Nat
  | .iadd .. => some 0x000
  | .isub .. => some 0x001
  | .imul .. => some 0x002
  | .imulhI .. => some 0x003
  | .imulhN .. => some 0x004
  | .iminI .. => some 0x005
  | .iminN .. => some 0x006
  | .imaxI .. => some 0x007
  | .imaxN .. => some 0x008
  | .iabs .. => some 0x009
  | .and .. => some 0x00A
  | .or .. => some 0x00B
  | .xor .. => some 0x00C
  | .andn .. => some 0x00D
  | .shl .. => some 0x00E
  | .shr .. => some 0x00F
  | .sar .. => some 0x010
  | .rotl .. => some 0x011
  | .popc .. => some 0x012
  | .clz .. => some 0x013
  | .brev .. => some 0x014
  | .iaddi .. => some 0x015
  | .shli .. => some 0x016
  | .shri .. => some 0x017
  | .sari .. => some 0x018
  | .andi .. => some 0x019
  | .ori .. => some 0x01A
  | .xori .. => some 0x01B
  | .imad .. => some 0x020
  | .iadd32i .. => some 0x021
  | .lea .. => some 0x022
  | .bfe .. => some 0x023
  | .bfi .. => some 0x024
  | .iadd64 .. => some 0x025
  | .imulwI .. => some 0x026
  | .imulwN .. => some 0x027
  | .divi .. => some 0x028
  | .divn .. => some 0x029
  | .remi .. => some 0x02A
  | .remn .. => some 0x02B
  | .fadd .. => some 0x040
  | .fsub .. => some 0x041
  | .fmul .. => some 0x042
  | .fmin .. => some 0x043
  | .fmax .. => some 0x044
  | .hadd2Bf .. => some 0x045
  | .hmul2Bf .. => some 0x046
  | .hadd2Hf .. => some 0x047
  | .hmul2Hf .. => some 0x048
  | .hmin2Bf .. => some 0x049
  | .hmax2Bf .. => some 0x04A
  | .ffma .. => some 0x060
  | .faddm .. => some 0x061
  | .fmulm .. => some 0x062
  | .hfma2Bf .. => some 0x063
  | .hfma2Hf .. => some 0x064
  | .faddi .. => some 0x065
  | .fmuli .. => some 0x066
  | .icmpI .. => some 0x080
  | .icmpN .. => some 0x081
  | .fcmp .. => some 0x082
  | .icmpiI .. => some 0x083
  | .pbool .. => some 0x084
  | .p2g .. => some 0x085
  | .g2p .. => some 0x086
  | .sel .. => some 0x0A0
  | .frcp .. => some 0x0C0
  | .frsq .. => some 0x0C1
  | .fsqrt .. => some 0x0C2
  | .fexp2 .. => some 0x0C3
  | .flog2 .. => some 0x0C4
  | .fsinr .. => some 0x0C5
  | .fcosr .. => some 0x0C6
  | .frnd .. => some 0x0C7
  | .fclass .. => some 0x0C8
  | .f2iI .. => some 0x0C9
  | .f2iN .. => some 0x0CA
  | .i2fI .. => some 0x0CB
  | .i2fN .. => some 0x0CC
  | .f2bf .. => some 0x0CD
  | .bf2f .. => some 0x0CE
  | .f2hf .. => some 0x0CF
  | .hf2f .. => some 0x0D0
  | .cvtn .. => some 0x0E0
  | .unpn .. => some 0x0E1
  | .f2iM .. => some 0x0E2
  | .jmp .. => some 0x100
  | .call .. => some 0x101
  | .ret => some 0x102
  | .exit => some 0x103
  | .nop => some 0x104
  | .yield => some 0x105
  | .sleep .. => some 0x106
  | .brk .. => some 0x107
  | .trap .. => some 0x108
  | .bra .. => some 0x120
  | .brx .. => some 0x121
  | .mov .. => some 0x140
  | .movi .. => some 0x141
  | .srd .. => some 0x142
  | .swr .. => some 0x143
  | .u2g .. => some 0x144
  | .g2u .. => some 0x145
  | .uadd .. => some 0x146
  | .umov .. => some 0x147
  | .uand .. => some 0x148
  | .ushl .. => some 0x149
  | .umovi .. => some 0x14A
  | .mov32i .. => some 0x160
  | .umov32i .. => some 0x161
  | .fenceAcq => some 0x180
  | .fenceRel => some 0x181
  | .fenceAr => some 0x182
  | .ld .. => some 0x1A0
  | .st .. => some 0x1A1
  | .lds .. => some 0x1A2
  | .sts .. => some 0x1A3
  | .ldp .. => some 0x1A4
  | .stp .. => some 0x1A5
  | .pref .. => some 0x1A6
  | .gfetch .. => some 0x1A7
  | .copyl .. => some 0x1A8
  | .cctl .. => some 0x1A9
  | .aabort => some 0x1C0
  | .astat .. => some 0x1C1
  | .atom .. => some 0x1E0
  | .acas .. => some 0x1E1
  | .dcas .. => some 0x1E2
  | .amove .. => some 0x1E3
  | .abegin .. => some 0x1E4
  | .aend .. => some 0x1E5
  | .mzero .. => some 0x200
  | .midle .. => some 0x201
  | .mma .. => some 0x220
  | .mmas .. => some 0x221
  | .mmag .. => some 0x222
  | .mstore .. => some 0x223
  | .mload .. => some 0x224
  | .swz .. => some 0x240
  | .shfl .. => some 0x241
  | .vote .. => some 0x242
  | .ballot .. => some 0x243
  | .scan .. => some 0x244
  | .reduce .. => some 0x245
  | .matchLanes .. => some 0x246
  | .expand .. => some 0x260
  | .enext .. => some 0x261
  | .segred .. => some 0x262
  | .xsect .. => some 0x263
  | .xmerge .. => some 0x264
  | .scaleq .. => some 0x265
  | .spawn .. => some 0x2A0
  | .tfetch .. => some 0x2A1
  | .atrPush .. => some 0x2A2
  | .atrPop .. => some 0x2A3
  | .atrRet .. => some 0x2A4
  | .cqry .. => some 0x2A5
  | .dstep .. => some 0x2A6
  | .fwait .. => some 0x2A7
  | .ftest .. => some 0x2A8
  | .chain .. => some 0x2A9
  | .poolAlloc .. => some 0x2AA
  | .poolFree .. => some 0x2AB
  | .scopeOpen .. => some 0x2AC
  | .scopeClose .. => some 0x2AD
  | .cancel .. => some 0x2AE
  | .barSync .. => some 0x2C0
  | .barArv .. => some 0x2C1
  | .barWait .. => some 0x2C2
  | .joinGal .. => some 0x2C3
  | .leaveGal .. => some 0x2C4
  | .landWait .. => some 0x2C5
  | .bestTake .. => some 0x2C6
  | .bestInval .. => some 0x2C7
  | .specMark .. => some 0x2C8
  | .specCommit .. => some 0x2C9
  | .specBack => some 0x2CA
  | .rng .. => some 0x2CB
  | .gtime .. => some 0x2CC
  | .barInit .. => some 0x2E0
  | .barSyncn .. => some 0x2E1
  | .landInit .. => some 0x2E2
  | .tlwait .. => some 0x2E3
  | .dlSet .. => some 0x2E4
  | .bestOffer .. => some 0x2E5
  | .grow .. => some 0x300
  | .shrink .. => some 0x301
  | .csrr .. => some 0x302
  | .csrw .. => some 0x303
  | .halt .. => some 0x304
  | .eret .. => some 0x305
  | .tlbi .. => some 0x306
  | .faultack .. => some 0x307
  | _ => none

/-- Words of a program instruction (R36). -/
def Instr.words (i : Instr) : Nat :=
  match i.op with
  | some op => if 32 ≤ op % 64 then 2 else 1
  | none => 0

/-- A little-endian 64-bit value in two words of a slot. -/
def slotDword (ws : List Word) (n : Nat) : BitVec 64 :=
  BitVec.ofNat 64 ((ws.getD n 0).toNat + (ws.getD (n + 1) 0).toNat * 2 ^ 32)

/-- Whether words a to b - 1 of a slot are zero. -/
def slotZero (ws : List Word) (a b : Nat) : Bool := ((ws.drop a).take (b - a)).all (fun w => decide (w = 0))

/-- A packet, or the halt code of R310 it is refused with. -/
def slotIf (zero limits : Bool) (p : Instr) : Except Nat Instr :=
  if zero = false then .error 3 else if limits = false then .error 5 else .ok p

/-- The body of a LAUNCH packet (R315); its reserved fields, those of the trailer among them, are a ground of refusal (R310). -/
def launchBodyOf (ws : List Word) : LaunchBody :=
  let w5 := ws.getD 5 0
  { image := slotDword ws 0, param := slotDword ws 2, ctxs := ws.getD 4 0, gang := fld w5 0 8, cls := fld w5 8 8,
    flags := fld w5 16 8, vector := fld w5 24 8,
    cores := BitVec.ofNat 128 ((slotDword ws 6).toNat + (slotDword ws 8).toNat * 2 ^ 64), seed := slotDword ws 10,
    deadline := slotDword ws 12, x := ws.getD 14 0, y := ws.getD 15 0, z := ws.getD 16 0, chunk := ws.getD 17 0,
    groups := slotDword ws 18, record := slotDword ws 20, rsv := !(slotZero ws 22 63 && zf (ws.getD 63 0) 13 11) }

/-- Reads a command slot of 64 words: the packet, or its halt code (R308 to R311). -/
def decodeSlot (q : Nat) (ws : List Word) : Except Nat Instr :=
  let tr := ws.getD 63 0
  let hdr : PktHdr := { q := q, cls := fld tr 8 2, fence := fld tr 10 3 }
  let w0 := ws.getD 0 0
  let ctx : BitVec 8 := fld w0 0 8
  let count := ws.getD 1 0
  let va := slotDword ws 2
  let trz := zf tr 13 11
  let cnt := decide (1 ≤ count.toNat) && decide (count.toNat ≤ 4096)
  let ty := (fld tr 0 8).toNat
  if ty = 0 ∨ 11 < ty then .error 1
  else if hdr.cls = 3 then .error 2
  else
    match ty with
    | 1 => slotIf (trz && slotZero ws 0 63) true (.stopPkt hdr)
    | 2 => slotIf (trz && zf w0 8 24 && slotZero ws 1 2 && slotZero ws 4 63) true (.waitTimelinePkt hdr ctx va)
    | 3 =>
      slotIf (trz && zf w0 9 7 && zf w0 24 8 && slotZero ws 1 2 && slotZero ws 6 63)
        (decide ((fld w0 16 8).toNat ≤ 31) && decide (va.toNat % 8 = 0))
        (.signalPkt hdr ctx (bit w0 8) (fld w0 16 8) va (slotDword ws 4))
    | 4 => slotIf (trz && slotZero ws 0 63) true (.fencePkt hdr)
    | 5 =>
      slotIf (trz && zf w0 8 24 && slotZero ws 5 63) (cnt && decide (va.toNat % 4096 = 0))
        (.restripePkt hdr ctx count va (ws.getD 4 0))
    | 6 => .ok (.launchPkt hdr (launchBodyOf ws))
    | 7 => slotIf (trz && zf w0 8 24 && slotZero ws 4 63) cnt (.chainPkt hdr ctx count va)
    | 8 => slotIf (trz && zf w0 8 24 && slotZero ws 4 63) (cnt && decide (va.toNat % 256 = 0)) (.indirectPkt hdr ctx count va)
    | 9 => slotIf (trz && slotZero ws 1 2 && slotZero ws 4 63) true (.setDeadlinePkt hdr w0 va)
    | 10 => slotIf (trz && slotZero ws 0 63) true (.nopPkt hdr)
    | _ =>
      slotIf (trz && zf w0 9 23 && slotZero ws 1 2 && slotZero ws 10 63 && (bit w0 8 || slotZero ws 2 10))
        (decide (va.toNat % 8192 = 0) && decide ((slotDword ws 4).toNat % 256 = 0) &&
          decide ((slotDword ws 6).toNat % 256 = 0) && decide ((slotDword ws 8).toNat % 256 = 0))
        (.contextPkt hdr ctx (bit w0 8) va (slotDword ws 4) (slotDword ws 6) (slotDword ws 8))

/-- The words of a program instruction; packets and events have none. -/
def encode : Instr → List Word
  | .iadd d a b r => [BitVec.ofNat 32 (0x00000000 + d.toNat * 32768 + a.toNat * 256 + b.toNat * 2 + r.toNat)]
  | .isub d a b r => [BitVec.ofNat 32 (0x00400000 + d.toNat * 32768 + a.toNat * 256 + b.toNat * 2 + r.toNat)]
  | .imul d a b r => [BitVec.ofNat 32 (0x00800000 + d.toNat * 32768 + a.toNat * 256 + b.toNat * 2 + r.toNat)]
  | .imulhI d a b r => [BitVec.ofNat 32 (0x00C00000 + d.toNat * 32768 + a.toNat * 256 + b.toNat * 2 + r.toNat)]
  | .imulhN d a b r => [BitVec.ofNat 32 (0x01000000 + d.toNat * 32768 + a.toNat * 256 + b.toNat * 2 + r.toNat)]
  | .iminI d a b r => [BitVec.ofNat 32 (0x01400000 + d.toNat * 32768 + a.toNat * 256 + b.toNat * 2 + r.toNat)]
  | .iminN d a b r => [BitVec.ofNat 32 (0x01800000 + d.toNat * 32768 + a.toNat * 256 + b.toNat * 2 + r.toNat)]
  | .imaxI d a b r => [BitVec.ofNat 32 (0x01C00000 + d.toNat * 32768 + a.toNat * 256 + b.toNat * 2 + r.toNat)]
  | .imaxN d a b r => [BitVec.ofNat 32 (0x02000000 + d.toNat * 32768 + a.toNat * 256 + b.toNat * 2 + r.toNat)]
  | .iabs d a r => [BitVec.ofNat 32 (0x02400000 + d.toNat * 32768 + a.toNat * 256 + r.toNat)]
  | .and d a b r => [BitVec.ofNat 32 (0x02800000 + d.toNat * 32768 + a.toNat * 256 + b.toNat * 2 + r.toNat)]
  | .or d a b r => [BitVec.ofNat 32 (0x02C00000 + d.toNat * 32768 + a.toNat * 256 + b.toNat * 2 + r.toNat)]
  | .xor d a b r => [BitVec.ofNat 32 (0x03000000 + d.toNat * 32768 + a.toNat * 256 + b.toNat * 2 + r.toNat)]
  | .andn d a b r => [BitVec.ofNat 32 (0x03400000 + d.toNat * 32768 + a.toNat * 256 + b.toNat * 2 + r.toNat)]
  | .shl d a b r => [BitVec.ofNat 32 (0x03800000 + d.toNat * 32768 + a.toNat * 256 + b.toNat * 2 + r.toNat)]
  | .shr d a b r => [BitVec.ofNat 32 (0x03C00000 + d.toNat * 32768 + a.toNat * 256 + b.toNat * 2 + r.toNat)]
  | .sar d a b r => [BitVec.ofNat 32 (0x04000000 + d.toNat * 32768 + a.toNat * 256 + b.toNat * 2 + r.toNat)]
  | .rotl d a b r => [BitVec.ofNat 32 (0x04400000 + d.toNat * 32768 + a.toNat * 256 + b.toNat * 2 + r.toNat)]
  | .popc d a r => [BitVec.ofNat 32 (0x04800000 + d.toNat * 32768 + a.toNat * 256 + r.toNat)]
  | .clz d a r => [BitVec.ofNat 32 (0x04C00000 + d.toNat * 32768 + a.toNat * 256 + r.toNat)]
  | .brev d a r => [BitVec.ofNat 32 (0x05000000 + d.toNat * 32768 + a.toNat * 256 + r.toNat)]
  | .iaddi d a imm => [BitVec.ofNat 32 (0x05400000 + d.toNat * 32768 + a.toNat * 256 + imm.toNat)]
  | .shli d a imm => [BitVec.ofNat 32 (0x05800000 + d.toNat * 32768 + a.toNat * 256 + imm.toNat)]
  | .shri d a imm => [BitVec.ofNat 32 (0x05C00000 + d.toNat * 32768 + a.toNat * 256 + imm.toNat)]
  | .sari d a imm => [BitVec.ofNat 32 (0x06000000 + d.toNat * 32768 + a.toNat * 256 + imm.toNat)]
  | .andi d a imm => [BitVec.ofNat 32 (0x06400000 + d.toNat * 32768 + a.toNat * 256 + imm.toNat)]
  | .ori d a imm => [BitVec.ofNat 32 (0x06800000 + d.toNat * 32768 + a.toNat * 256 + imm.toNat)]
  | .xori d a imm => [BitVec.ofNat 32 (0x06C00000 + d.toNat * 32768 + a.toNat * 256 + imm.toNat)]
  | .imad d a b r c => [BitVec.ofNat 32 (0x08000000 + d.toNat * 32768 + a.toNat * 256 + b.toNat * 2 + r.toNat), BitVec.ofNat 32 (c.toNat * 33554432)]
  | .iadd32i d a r imm => [BitVec.ofNat 32 (0x08400000 + d.toNat * 32768 + a.toNat * 256 + r.toNat), BitVec.ofNat 32 (imm.toNat)]
  | .lea d a b r sh => [BitVec.ofNat 32 (0x08800000 + d.toNat * 32768 + a.toNat * 256 + b.toNat * 2 + r.toNat), BitVec.ofNat 32 (sh.toNat)]
  | .bfe d a r sgn len pos => [BitVec.ofNat 32 (0x08C00000 + d.toNat * 32768 + a.toNat * 256 + r.toNat), BitVec.ofNat 32 (sgn.toNat * 2048 + len.toNat * 32 + pos.toNat)]
  | .bfi d a b r len pos => [BitVec.ofNat 32 (0x09000000 + d.toNat * 32768 + a.toNat * 256 + b.toNat * 2 + r.toNat), BitVec.ofNat 32 (len.toNat * 32 + pos.toNat)]
  | .iadd64 d a b r => [BitVec.ofNat 32 (0x09400000 + d.toNat * 32768 + a.toNat * 256 + b.toNat * 2 + r.toNat), BitVec.ofNat 32 (0)]
  | .imulwI d a b r => [BitVec.ofNat 32 (0x09800000 + d.toNat * 32768 + a.toNat * 256 + b.toNat * 2 + r.toNat), BitVec.ofNat 32 (0)]
  | .imulwN d a b r => [BitVec.ofNat 32 (0x09C00000 + d.toNat * 32768 + a.toNat * 256 + b.toNat * 2 + r.toNat), BitVec.ofNat 32 (0)]
  | .divi d a la c => [BitVec.ofNat 32 (0x0A000000 + d.toNat * 32768 + a.toNat * 256 + la.toNat), BitVec.ofNat 32 (c.toNat * 33554432)]
  | .divn d a la c => [BitVec.ofNat 32 (0x0A400000 + d.toNat * 32768 + a.toNat * 256 + la.toNat), BitVec.ofNat 32 (c.toNat * 33554432)]
  | .remi d a la c => [BitVec.ofNat 32 (0x0A800000 + d.toNat * 32768 + a.toNat * 256 + la.toNat), BitVec.ofNat 32 (c.toNat * 33554432)]
  | .remn d a la c => [BitVec.ofNat 32 (0x0AC00000 + d.toNat * 32768 + a.toNat * 256 + la.toNat), BitVec.ofNat 32 (c.toNat * 33554432)]
  | .fadd d a b r => [BitVec.ofNat 32 (0x10000000 + d.toNat * 32768 + a.toNat * 256 + b.toNat * 2 + r.toNat)]
  | .fsub d a b r => [BitVec.ofNat 32 (0x10400000 + d.toNat * 32768 + a.toNat * 256 + b.toNat * 2 + r.toNat)]
  | .fmul d a b r => [BitVec.ofNat 32 (0x10800000 + d.toNat * 32768 + a.toNat * 256 + b.toNat * 2 + r.toNat)]
  | .fmin d a b r => [BitVec.ofNat 32 (0x10C00000 + d.toNat * 32768 + a.toNat * 256 + b.toNat * 2 + r.toNat)]
  | .fmax d a b r => [BitVec.ofNat 32 (0x11000000 + d.toNat * 32768 + a.toNat * 256 + b.toNat * 2 + r.toNat)]
  | .hadd2Bf d a b r => [BitVec.ofNat 32 (0x11400000 + d.toNat * 32768 + a.toNat * 256 + b.toNat * 2 + r.toNat)]
  | .hmul2Bf d a b r => [BitVec.ofNat 32 (0x11800000 + d.toNat * 32768 + a.toNat * 256 + b.toNat * 2 + r.toNat)]
  | .hadd2Hf d a b r => [BitVec.ofNat 32 (0x11C00000 + d.toNat * 32768 + a.toNat * 256 + b.toNat * 2 + r.toNat)]
  | .hmul2Hf d a b r => [BitVec.ofNat 32 (0x12000000 + d.toNat * 32768 + a.toNat * 256 + b.toNat * 2 + r.toNat)]
  | .hmin2Bf d a b r => [BitVec.ofNat 32 (0x12400000 + d.toNat * 32768 + a.toNat * 256 + b.toNat * 2 + r.toNat)]
  | .hmax2Bf d a b r => [BitVec.ofNat 32 (0x12800000 + d.toNat * 32768 + a.toNat * 256 + b.toNat * 2 + r.toNat)]
  | .ffma d a b r c mode => [BitVec.ofNat 32 (0x18000000 + d.toNat * 32768 + a.toNat * 256 + b.toNat * 2 + r.toNat), BitVec.ofNat 32 (c.toNat * 33554432 + mode.code)]
  | .faddm d a b r mode => [BitVec.ofNat 32 (0x18400000 + d.toNat * 32768 + a.toNat * 256 + b.toNat * 2 + r.toNat), BitVec.ofNat 32 (mode.code)]
  | .fmulm d a b r mode => [BitVec.ofNat 32 (0x18800000 + d.toNat * 32768 + a.toNat * 256 + b.toNat * 2 + r.toNat), BitVec.ofNat 32 (mode.code)]
  | .hfma2Bf d a b r c mode => [BitVec.ofNat 32 (0x18C00000 + d.toNat * 32768 + a.toNat * 256 + b.toNat * 2 + r.toNat), BitVec.ofNat 32 (c.toNat * 33554432 + mode.code)]
  | .hfma2Hf d a b r c mode => [BitVec.ofNat 32 (0x19000000 + d.toNat * 32768 + a.toNat * 256 + b.toNat * 2 + r.toNat), BitVec.ofNat 32 (c.toNat * 33554432 + mode.code)]
  | .faddi d a r imm => [BitVec.ofNat 32 (0x19400000 + d.toNat * 32768 + a.toNat * 256 + r.toNat), BitVec.ofNat 32 (imm.toNat)]
  | .fmuli d a r imm => [BitVec.ofNat 32 (0x19800000 + d.toNat * 32768 + a.toNat * 256 + r.toNat), BitVec.ofNat 32 (imm.toNat)]
  | .icmpI pd cc a b => [BitVec.ofNat 32 (0x20000000 + pd.toNat * 262144 + cc.code * 32768 + a.toNat * 256 + b.toNat * 2)]
  | .icmpN pd cc a b => [BitVec.ofNat 32 (0x20400000 + pd.toNat * 262144 + cc.code * 32768 + a.toNat * 256 + b.toNat * 2)]
  | .fcmp pd cc a b => [BitVec.ofNat 32 (0x20800000 + pd.toNat * 262144 + cc.code * 32768 + a.toNat * 256 + b.toNat * 2)]
  | .icmpiI pd cc a imm => [BitVec.ofNat 32 (0x20C00000 + pd.toNat * 262144 + cc.code * 32768 + a.toNat * 256 + imm.toNat * 2)]
  | .pbool pd op na pa nb pb => [BitVec.ofNat 32 (0x21000000 + pd.toNat * 262144 + op.code * 32768 + na.toNat * 16384 + pa.toNat * 256 + nb.toNat * 128 + pb.toNat * 2)]
  | .p2g d r => [BitVec.ofNat 32 (0x21400000 + d.toNat * 32768 + r.toNat)]
  | .g2p a => [BitVec.ofNat 32 (0x21800000 + a.toNat * 256)]
  | .sel d a b r q qneg => [BitVec.ofNat 32 (0x28000000 + d.toNat * 32768 + a.toNat * 256 + b.toNat * 2 + r.toNat), BitVec.ofNat 32 (q.toNat * 2097152 + qneg.toNat * 1048576)]
  | .frcp d a la => [BitVec.ofNat 32 (0x30000000 + d.toNat * 32768 + a.toNat * 256 + la.toNat)]
  | .frsq d a la => [BitVec.ofNat 32 (0x30400000 + d.toNat * 32768 + a.toNat * 256 + la.toNat)]
  | .fsqrt d a la => [BitVec.ofNat 32 (0x30800000 + d.toNat * 32768 + a.toNat * 256 + la.toNat)]
  | .fexp2 d a la => [BitVec.ofNat 32 (0x30C00000 + d.toNat * 32768 + a.toNat * 256 + la.toNat)]
  | .flog2 d a la => [BitVec.ofNat 32 (0x31000000 + d.toNat * 32768 + a.toNat * 256 + la.toNat)]
  | .fsinr d a la => [BitVec.ofNat 32 (0x31400000 + d.toNat * 32768 + a.toNat * 256 + la.toNat)]
  | .fcosr d a la => [BitVec.ofNat 32 (0x31800000 + d.toNat * 32768 + a.toNat * 256 + la.toNat)]
  | .frnd d a mode la => [BitVec.ofNat 32 (0x31C00000 + d.toNat * 32768 + a.toNat * 256 + mode.code * 16 + la.toNat)]
  | .fclass d a la => [BitVec.ofNat 32 (0x32000000 + d.toNat * 32768 + a.toNat * 256 + la.toNat)]
  | .f2iI d a la => [BitVec.ofNat 32 (0x32400000 + d.toNat * 32768 + a.toNat * 256 + la.toNat)]
  | .f2iN d a la => [BitVec.ofNat 32 (0x32800000 + d.toNat * 32768 + a.toNat * 256 + la.toNat)]
  | .i2fI d a la => [BitVec.ofNat 32 (0x32C00000 + d.toNat * 32768 + a.toNat * 256 + la.toNat)]
  | .i2fN d a la => [BitVec.ofNat 32 (0x33000000 + d.toNat * 32768 + a.toNat * 256 + la.toNat)]
  | .f2bf d a la => [BitVec.ofNat 32 (0x33400000 + d.toNat * 32768 + a.toNat * 256 + la.toNat)]
  | .bf2f d a la => [BitVec.ofNat 32 (0x33800000 + d.toNat * 32768 + a.toNat * 256 + la.toNat)]
  | .f2hf d a la => [BitVec.ofNat 32 (0x33C00000 + d.toNat * 32768 + a.toNat * 256 + la.toNat)]
  | .hf2f d a la => [BitVec.ofNat 32 (0x34000000 + d.toNat * 32768 + a.toNat * 256 + la.toNat)]
  | .cvtn d a la c pack fmt => [BitVec.ofNat 32 (0x38000000 + d.toNat * 32768 + a.toNat * 256 + la.toNat), BitVec.ofNat 32 (c.toNat * 33554432 + pack.toNat * 65536 + fmt.toNat)]
  | .unpn d a la c pack fmt => [BitVec.ofNat 32 (0x38400000 + d.toNat * 32768 + a.toNat * 256 + la.toNat), BitVec.ofNat 32 (c.toNat * 33554432 + pack.toNat * 65536 + fmt.toNat)]
  | .f2iM d a la uns mode => [BitVec.ofNat 32 (0x38800000 + d.toNat * 32768 + a.toNat * 256 + la.toNat), BitVec.ofNat 32 (uns.toNat * 4 + mode.code)]
  | .jmp off => [BitVec.ofNat 32 (0x40000000 + off.toNat)]
  | .call off => [BitVec.ofNat 32 (0x40400000 + off.toNat)]
  | .ret => [BitVec.ofNat 32 (0x40800000)]
  | .exit => [BitVec.ofNat 32 (0x40C00000)]
  | .nop => [BitVec.ofNat 32 (0x41000000)]
  | .yield => [BitVec.ofNat 32 (0x41400000)]
  | .sleep n => [BitVec.ofNat 32 (0x41800000 + n.toNat)]
  | .brk n => [BitVec.ofNat 32 (0x41C00000 + n.toNat)]
  | .trap n => [BitVec.ofNat 32 (0x42000000 + n.toNat)]
  | .bra p neg off join => [BitVec.ofNat 32 (0x48000000 + p.toNat * 262144 + neg.toNat * 131072 + off.toNat), BitVec.ofNat 32 (join.toNat)]
  | .brx a join => [BitVec.ofNat 32 (0x48400000 + a.toNat * 256), BitVec.ofNat 32 (join.toNat)]
  | .mov d a r => [BitVec.ofNat 32 (0x50000000 + d.toNat * 32768 + a.toNat * 256 + r.toNat)]
  | .movi d imm => [BitVec.ofNat 32 (0x50400000 + d.toNat * 32768 + imm.toNat)]
  | .srd d n => [BitVec.ofNat 32 (0x50800000 + d.toNat * 32768 + n.toNat)]
  | .swr a n => [BitVec.ofNat 32 (0x50C00000 + a.toNat * 256 + n.toNat)]
  | .u2g d sa r => [BitVec.ofNat 32 (0x51000000 + d.toNat * 32768 + sa.toNat * 256 + r.toNat)]
  | .g2u sd a => [BitVec.ofNat 32 (0x51400000 + sd.toNat * 32768 + a.toNat * 256)]
  | .uadd sd sa sb => [BitVec.ofNat 32 (0x51800000 + sd.toNat * 65536 + sa.toNat * 1024 + sb.toNat * 16)]
  | .umov sd sa => [BitVec.ofNat 32 (0x51C00000 + sd.toNat * 65536 + sa.toNat * 1024)]
  | .uand sd sa sb => [BitVec.ofNat 32 (0x52000000 + sd.toNat * 65536 + sa.toNat * 1024 + sb.toNat * 16)]
  | .ushl sd sa sb => [BitVec.ofNat 32 (0x52400000 + sd.toNat * 65536 + sa.toNat * 1024 + sb.toNat * 16)]
  | .umovi sd imm => [BitVec.ofNat 32 (0x52800000 + sd.toNat * 32768 + imm.toNat)]
  | .mov32i d r imm => [BitVec.ofNat 32 (0x58000000 + d.toNat * 32768 + r.toNat), BitVec.ofNat 32 (imm.toNat)]
  | .umov32i sd imm => [BitVec.ofNat 32 (0x58400000 + sd.toNat * 65536), BitVec.ofNat 32 (imm.toNat)]
  | .fenceAcq => [BitVec.ofNat 32 (0x60000000)]
  | .fenceRel => [BitVec.ofNat 32 (0x60400000)]
  | .fenceAr => [BitVec.ofNat 32 (0x60800000)]
  | .ld d a na la h ord wd imm => [BitVec.ofNat 32 (0x68000000 + d.toNat * 32768 + a.toNat * 256 + na.toNat * 16 + la.toNat), BitVec.ofNat 32 (h.toNat * 4194304 + ord.code * 1048576 + wd.code * 131072 + imm.toNat)]
  | .st d a na la h ord wd imm => [BitVec.ofNat 32 (0x68400000 + d.toNat * 32768 + a.toNat * 256 + na.toNat * 16 + la.toNat), BitVec.ofNat 32 (h.toNat * 4194304 + ord.code * 1048576 + wd.code * 131072 + imm.toNat)]
  | .lds d a la win remote cih wd off => [BitVec.ofNat 32 (0x68800000 + d.toNat * 32768 + a.toNat * 256 + la.toNat), BitVec.ofNat 32 (win.toNat * 268435456 + remote.toNat * 134217728 + cih.toNat * 33554432 + wd.code * 4194304 + off.toNat)]
  | .sts d a la win remote cih wd off => [BitVec.ofNat 32 (0x68C00000 + d.toNat * 32768 + a.toNat * 256 + la.toNat), BitVec.ofNat 32 (win.toNat * 268435456 + remote.toNat * 134217728 + cih.toNat * 33554432 + wd.code * 4194304 + off.toNat)]
  | .ldp d a la wd imm => [BitVec.ofNat 32 (0x69000000 + d.toNat * 32768 + a.toNat * 256 + la.toNat), BitVec.ofNat 32 (wd.code * 131072 + imm.toNat)]
  | .stp d a la wd imm => [BitVec.ofNat 32 (0x69400000 + d.toNat * 32768 + a.toNat * 256 + la.toNat), BitVec.ofNat 32 (wd.code * 131072 + imm.toNat)]
  | .pref a l2 la h wd imm => [BitVec.ofNat 32 (0x69800000 + a.toNat * 256 + l2.toNat * 16 + la.toNat), BitVec.ofNat 32 (h.toNat * 4194304 + wd.code * 131072 + imm.toNat)]
  | .gfetch d bm la t sa sb => [BitVec.ofNat 32 (0x69C00000 + d.toNat * 32768 + bm.toNat * 16 + la.toNat), BitVec.ofNat 32 (t.toNat * 16777216 + sa.toNat * 262144 + sb.toNat * 4096)]
  | .copyl d a n la h win remote cih lwin loff => [BitVec.ofNat 32 (0x6A000000 + d.toNat * 32768 + a.toNat * 256 + n.code * 16 + la.toNat), BitVec.ofNat 32 (h.toNat * 4194304 + win.toNat * 262144 + remote.toNat * 131072 + cih.toNat * 32768 + lwin.toNat * 2048 + loff.toNat)]
  | .cctl a op la h imm => [BitVec.ofNat 32 (0x6A400000 + a.toNat * 256 + op.code * 16 + la.toNat), BitVec.ofNat 32 (h.toNat * 4194304 + imm.toNat)]
  | .aabort => [BitVec.ofNat 32 (0x70000000)]
  | .astat d la => [BitVec.ofNat 32 (0x70400000 + d.toNat * 32768 + la.toNat)]
  | .atom d a op la h ord wide imm => [BitVec.ofNat 32 (0x78000000 + d.toNat * 32768 + a.toNat * 256 + op.code * 16 + la.toNat), BitVec.ofNat 32 (h.toNat * 4194304 + ord.code * 1048576 + (wideCode wide) * 131072 + imm.toNat)]
  | .acas pd d a la h ord wide c imm => [BitVec.ofNat 32 (0x78400000 + pd.toNat * 16 + d.toNat * 32768 + a.toNat * 256 + la.toNat), BitVec.ofNat 32 (h.toNat * 4194304 + ord.code * 1048576 + (wideCode wide) * 131072 + c.toNat * 1024 + imm.toNat)]
  | .dcas pd d a la h1 h2 c ord => [BitVec.ofNat 32 (0x78800000 + pd.toNat * 16 + d.toNat * 32768 + a.toNat * 256 + la.toNat), BitVec.ofNat 32 (h1.toNat * 4194304 + h2.toNat * 4096 + c.toNat * 32 + ord.code * 8)]
  | .amove d a wide la h1 h2 c ord => [BitVec.ofNat 32 (0x78C00000 + d.toNat * 32768 + a.toNat * 256 + wide.toNat * 16 + la.toNat), BitVec.ofNat 32 (h1.toNat * 4194304 + h2.toNat * 4096 + c.toNat * 32 + ord.code * 8)]
  | .abegin off => [BitVec.ofNat 32 (0x79000000), BitVec.ofNat 32 (off.toNat)]
  | .aend rel acq pd => [BitVec.ofNat 32 (0x79400000 + rel.toNat * 16 + acq.toNat * 32), BitVec.ofNat 32 (pd.toNat * 268435456)]
  | .mzero d la => [BitVec.ofNat 32 (0x80000000 + d.toNat * 32768 + la.toNat)]
  | .midle d clr la => [BitVec.ofNat 32 (0x80400000 + d.toNat * 32768 + clr.toNat * 16 + la.toNat)]
  | .mma d mc z la tA tB sa sb => [BitVec.ofNat 32 (0x88000000 + d.toNat * 32768 + mc.toNat * 32 + z.toNat * 16 + la.toNat), BitVec.ofNat 32 (tA.toNat * 16777216 + tB.toNat * 65536 + sa.toNat * 1024 + sb.toNat * 16)]
  | .mmas d cr mc z la tA tB sa sb => [BitVec.ofNat 32 (0x88400000 + d.toNat * 32768 + cr.toNat * 64 + mc.toNat * 32 + z.toNat * 16 + la.toNat), BitVec.ofNat 32 (tA.toNat * 16777216 + tB.toNat * 65536 + sa.toNat * 1024 + sb.toNat * 16)]
  | .mmag d mc z la tA tB sa sb => [BitVec.ofNat 32 (0x88800000 + d.toNat * 32768 + mc.toNat * 32 + z.toNat * 16 + la.toNat), BitVec.ofNat 32 (tA.toNat * 16777216 + tB.toNat * 65536 + sa.toNat * 1024 + sb.toNat * 16)]
  | .mstore d fmt la t sa => [BitVec.ofNat 32 (0x88C00000 + d.toNat * 32768 + fmt.code * 16 + la.toNat), BitVec.ofNat 32 (t.toNat * 16777216 + sa.toNat * 1024)]
  | .mload d fmt la t sa => [BitVec.ofNat 32 (0x89000000 + d.toNat * 32768 + fmt.code * 16 + la.toNat), BitVec.ofNat 32 (t.toNat * 16777216 + sa.toNat * 1024)]
  | .swz d a x => [BitVec.ofNat 32 (0x90000000 + d.toNat * 32768 + a.toNat * 256 + x.toNat)]
  | .shfl d a b r => [BitVec.ofNat 32 (0x90400000 + d.toNat * 32768 + a.toNat * 256 + b.toNat * 2 + r.toNat)]
  | .vote pd op na pa => [BitVec.ofNat 32 (0x90800000 + pd.toNat * 262144 + op.code * 32768 + na.toNat * 16384 + pa.toNat * 256)]
  | .ballot d na pa => [BitVec.ofNat 32 (0x90C00000 + d.toNat * 32768 + na.toNat * 16384 + pa.toNat * 256)]
  | .scan d a ex op => [BitVec.ofNat 32 (0x91000000 + d.toNat * 32768 + a.toNat * 256 + ex.toNat * 8 + op.code)]
  | .reduce d a op => [BitVec.ofNat 32 (0x91400000 + d.toNat * 32768 + a.toNat * 256 + op.code)]
  | .matchLanes d a => [BitVec.ofNat 32 (0x91800000 + d.toNat * 32768 + a.toNat * 256)]
  | .expand d a g e la c gal => [BitVec.ofNat 32 (0x98000000 + d.toNat * 32768 + a.toNat * 256 + g.toNat * 64 + e.toNat * 16 + la.toNat), BitVec.ofNat 32 (c.toNat * 33554432 + gal.toNat * 524288)]
  | .enext d fin e la pd => [BitVec.ofNat 32 (0x98400000 + d.toNat * 32768 + fin.toNat * 64 + e.toNat * 16 + la.toNat), BitVec.ofNat 32 (pd.toNat * 268435456)]
  | .segred d a e la pd op => [BitVec.ofNat 32 (0x98800000 + d.toNat * 32768 + a.toNat * 256 + e.toNat * 16 + la.toNat), BitVec.ofNat 32 (pd.toNat * 268435456 + op.code * 33554432)]
  | .xsect d a sgn la c pd qa qb => [BitVec.ofNat 32 (0x98C00000 + d.toNat * 32768 + a.toNat * 256 + sgn.toNat * 16 + la.toNat), BitVec.ofNat 32 (c.toNat * 33554432 + pd.toNat * 2097152 + qa.toNat * 131072 + qb.toNat * 8192)]
  | .xmerge d a sgn la c pd qa qb => [BitVec.ofNat 32 (0x99000000 + d.toNat * 32768 + a.toNat * 256 + sgn.toNat * 16 + la.toNat), BitVec.ofNat 32 (c.toNat * 33554432 + pd.toNat * 2097152 + qa.toNat * 131072 + qb.toNat * 8192)]
  | .scaleq d a q la fmt => [BitVec.ofNat 32 (0x99400000 + d.toNat * 32768 + a.toNat * 256 + q.toNat * 16 + la.toNat), BitVec.ofNat 32 (fmt.toNat)]
  | .spawn pd a la role cnt => [BitVec.ofNat 32 (0xA8000000 + a.toNat * 256 + la.toNat), BitVec.ofNat 32 (pd.toNat * 268435456 + role.toNat * 67108864 + cnt.toNat * 2097152)]
  | .tfetch d la pd => [BitVec.ofNat 32 (0xA8400000 + d.toNat * 32768 + la.toNat), BitVec.ofNat 32 (pd.toNat * 268435456)]
  | .atrPush d a la atr n pd h c => [BitVec.ofNat 32 (0xA8800000 + d.toNat * 32768 + a.toNat * 256 + la.toNat), BitVec.ofNat 32 (atr.toNat * 1073741824 + n.toNat * 33554432 + pd.toNat * 2097152 + h.toNat * 2048 + c.toNat * 16)]
  | .atrPop d la atr win pd tmo off => [BitVec.ofNat 32 (0xA8C00000 + d.toNat * 32768 + la.toNat), BitVec.ofNat 32 (atr.toNat * 1073741824 + win.toNat * 67108864 + pd.toNat * 4194304 + tmo.toNat * 4096 + off.toNat)]
  | .atrRet a la atr rn c => [BitVec.ofNat 32 (0xA9000000 + a.toNat * 256 + la.toNat), BitVec.ofNat 32 (atr.toNat * 1073741824 + rn.toNat * 134217728 + c.toNat * 1048576)]
  | .cqry d a la h cx imm => [BitVec.ofNat 32 (0xA9400000 + d.toNat * 32768 + a.toNat * 256 + la.toNat), BitVec.ofNat 32 (h.toNat * 4194304 + cx.toNat * 1048576 + imm.toNat)]
  | .dstep d a la h cx imm => [BitVec.ofNat 32 (0xA9800000 + d.toNat * 32768 + a.toNat * 256 + la.toNat), BitVec.ofNat 32 (h.toNat * 4194304 + cx.toNat * 1048576 + imm.toNat)]
  | .fwait pd a atr la tmo => [BitVec.ofNat 32 (0xA9C00000 + a.toNat * 256 + atr.toNat * 16 + la.toNat), BitVec.ofNat 32 (pd.toNat * 268435456 + tmo.toNat)]
  | .ftest pd a atr la => [BitVec.ofNat 32 (0xAA000000 + a.toNat * 256 + atr.toNat * 16 + la.toNat), BitVec.ofNat 32 (pd.toNat * 268435456)]
  | .chain d a n la h cx imm => [BitVec.ofNat 32 (0xAA400000 + d.toNat * 32768 + a.toNat * 256 + n.toNat * 16 + la.toNat), BitVec.ofNat 32 (h.toNat * 4194304 + cx.toNat * 1048576 + imm.toNat)]
  | .poolAlloc d la pd q => [BitVec.ofNat 32 (0xAA800000 + d.toNat * 32768 + la.toNat), BitVec.ofNat 32 (pd.toNat * 268435456 + q.toNat * 4194304)]
  | .poolFree a la q => [BitVec.ofNat 32 (0xAAC00000 + a.toNat * 256 + la.toNat), BitVec.ofNat 32 (q.toNat * 4194304)]
  | .scopeOpen d one any la pd => [BitVec.ofNat 32 (0xAB000000 + d.toNat * 32768 + one.toNat * 32 + any.toNat * 16 + la.toNat), BitVec.ofNat 32 (pd.toNat * 268435456)]
  | .scopeClose la => [BitVec.ofNat 32 (0xAB400000 + la.toNat), BitVec.ofNat 32 (0)]
  | .cancel a la => [BitVec.ofNat 32 (0xAB800000 + a.toNat * 256 + la.toNat), BitVec.ofNat 32 (0)]
  | .barSync k => [BitVec.ofNat 32 (0xB0000000 + k.toNat)]
  | .barArv d k => [BitVec.ofNat 32 (0xB0400000 + d.toNat * 32768 + k.toNat)]
  | .barWait a k => [BitVec.ofNat 32 (0xB0800000 + a.toNat * 256 + k.toNat)]
  | .joinGal k => [BitVec.ofNat 32 (0xB0C00000 + k.toNat)]
  | .leaveGal k => [BitVec.ofNat 32 (0xB1000000 + k.toNat)]
  | .landWait d a => [BitVec.ofNat 32 (0xB1400000 + d.toNat * 32768 + a.toNat * 256)]
  | .bestTake d r => [BitVec.ofNat 32 (0xB1800000 + d.toNat * 32768 + r.toNat)]
  | .bestInval d a r => [BitVec.ofNat 32 (0xB1C00000 + d.toNat * 32768 + a.toNat * 256 + r.toNat)]
  | .specMark a => [BitVec.ofNat 32 (0xB2000000 + a.toNat * 256)]
  | .specCommit a => [BitVec.ofNat 32 (0xB2400000 + a.toNat * 256)]
  | .specBack => [BitVec.ofNat 32 (0xB2800000)]
  | .rng d a b r => [BitVec.ofNat 32 (0xB2C00000 + d.toNat * 32768 + a.toNat * 256 + b.toNat * 2 + r.toNat)]
  | .gtime d r => [BitVec.ofNat 32 (0xB3000000 + d.toNat * 32768 + r.toNat)]
  | .barInit k n => [BitVec.ofNat 32 (0xB8000000), BitVec.ofNat 32 (k.toNat * 4096 + n.toNat)]
  | .barSyncn k n => [BitVec.ofNat 32 (0xB8400000), BitVec.ofNat 32 (k.toNat * 4096 + n.toNat)]
  | .landInit d a b r pd => [BitVec.ofNat 32 (0xB8800000 + d.toNat * 32768 + a.toNat * 256 + b.toNat * 2 + r.toNat), BitVec.ofNat 32 (pd.toNat * 268435456)]
  | .tlwait pd cx a tmo => [BitVec.ofNat 32 (0xB8C00000 + a.toNat * 256), BitVec.ofNat 32 (pd.toNat * 268435456 + cx.toNat * 67108864 + tmo.toNat)]
  | .dlSet a min => [BitVec.ofNat 32 (0xB9000000 + a.toNat * 256), BitVec.ofNat 32 (min.toNat)]
  | .bestOffer pd d a b r => [BitVec.ofNat 32 (0xB9400000 + d.toNat * 32768 + a.toNat * 256 + b.toNat * 2 + r.toNat), BitVec.ofNat 32 (pd.toNat * 268435456)]
  | .grow pd n => [BitVec.ofNat 32 (0xC0000000 + pd.toNat * 262144 + n.toNat * 2)]
  | .shrink n => [BitVec.ofNat 32 (0xC0400000 + n.toNat)]
  | .csrr d c => [BitVec.ofNat 32 (0xC0800000 + d.toNat * 32768 + c.toNat)]
  | .csrw a c => [BitVec.ofNat 32 (0xC0C00000 + a.toNat * 256 + c.toNat)]
  | .halt a => [BitVec.ofNat 32 (0xC1000000 + a.toNat * 256)]
  | .eret a => [BitVec.ofNat 32 (0xC1400000 + a.toNat * 256)]
  | .tlbi d a b => [BitVec.ofNat 32 (0xC1800000 + d.toNat * 32768 + a.toNat * 256 + b.toNat * 2)]
  | .faultack a => [BitVec.ofNat 32 (0xC1C00000 + a.toNat * 256)]
  | _ => []

/-- A 64-bit value as two words, the low one first. -/
def dwordWords (v : BitVec 64) : List Word := [BitVec.ofNat 32 v.toNat, BitVec.ofNat 32 (v.toNat / 2 ^ 32)]

/-- A command slot: the words of its body, zeros, and the trailer with type, class, fence bits and lap (R308). -/
def slotWords (ty : Nat) (hdr : PktHdr) (lap : BitVec 8) (body : List Word) : List Word :=
  body ++ List.replicate (63 - body.length) 0 ++
    [BitVec.ofNat 32 (ty + hdr.cls.toNat * 256 + hdr.fence.toNat * 1024 + lap.toNat * 16777216)]

/-- The words of a LAUNCH body that R315 names. -/
def launchWords (b : LaunchBody) : List Word :=
  dwordWords b.image ++ dwordWords b.param ++
    [b.ctxs, BitVec.ofNat 32 (b.gang.toNat + b.cls.toNat * 256 + b.flags.toNat * 65536 + b.vector.toNat * 16777216)] ++
    dwordWords (BitVec.ofNat 64 b.cores.toNat) ++ dwordWords (BitVec.ofNat 64 (b.cores.toNat / 2 ^ 64)) ++ dwordWords b.seed ++
    dwordWords b.deadline ++ [b.x, b.y, b.z, b.chunk] ++ dwordWords b.groups ++ dwordWords b.record

/-- The 64 words of a packet's slot in a round of the ring whose lap number is given (R308 to R310, R314, R315); program
instructions and events have none. -/
def encodeSlot (lap : BitVec 8) : Instr → List Word
  | .stopPkt hdr => slotWords 1 hdr lap []
  | .waitTimelinePkt hdr ctx value => slotWords 2 hdr lap ([BitVec.ofNat 32 ctx.toNat, 0] ++ dwordWords value)
  | .signalPkt hdr ctx irq vector va value =>
    slotWords 3 hdr lap ([BitVec.ofNat 32 (ctx.toNat + irq.toNat * 256 + vector.toNat * 65536), 0] ++ dwordWords va ++ dwordWords value)
  | .fencePkt hdr => slotWords 4 hdr lap []
  | .restripePkt hdr ctx pages va place =>
    slotWords 5 hdr lap ([BitVec.ofNat 32 ctx.toNat, pages] ++ dwordWords va ++ [place])
  | .launchPkt hdr body => slotWords 6 hdr lap (launchWords body)
  | .chainPkt hdr ctx count va => slotWords 7 hdr lap ([BitVec.ofNat 32 ctx.toNat, count] ++ dwordWords va)
  | .indirectPkt hdr ctx count va => slotWords 8 hdr lap ([BitVec.ofNat 32 ctx.toNat, count] ++ dwordWords va)
  | .setDeadlinePkt hdr launch deadline => slotWords 9 hdr lap ([launch, 0] ++ dwordWords deadline)
  | .nopPkt hdr => slotWords 10 hdr lap []
  | .contextPkt hdr ctx valid root hbase tbase pbase =>
    slotWords 11 hdr lap ([BitVec.ofNat 32 (ctx.toNat + valid.toNat * 256), 0] ++ dwordWords root ++ dwordWords hbase ++
      dwordWords tbase ++ dwordWords pbase)
  | _ => []

/-- Whether the fields of a packet lie in their limits (R309, R310, R314). -/
def packetOk : Instr → Bool
  | .stopPkt hdr => decide (hdr.cls ≠ 3)
  | .waitTimelinePkt hdr _ _ => decide (hdr.cls ≠ 3)
  | .signalPkt hdr _ _ vector va _ => decide (hdr.cls ≠ 3) && decide (vector.toNat ≤ 31) && decide (va.toNat % 8 = 0)
  | .fencePkt hdr => decide (hdr.cls ≠ 3)
  | .restripePkt hdr _ pages va _ =>
    decide (hdr.cls ≠ 3) && decide (1 ≤ pages.toNat) && decide (pages.toNat ≤ 4096) && decide (va.toNat % 4096 = 0)
  | .launchPkt hdr body => decide (hdr.cls ≠ 3) && !body.rsv
  | .chainPkt hdr _ count _ => decide (hdr.cls ≠ 3) && decide (1 ≤ count.toNat) && decide (count.toNat ≤ 4096)
  | .indirectPkt hdr _ count va =>
    decide (hdr.cls ≠ 3) && decide (1 ≤ count.toNat) && decide (count.toNat ≤ 4096) && decide (va.toNat % 256 = 0)
  | .setDeadlinePkt hdr _ _ => decide (hdr.cls ≠ 3)
  | .nopPkt hdr => decide (hdr.cls ≠ 3)
  | .contextPkt hdr _ valid root hbase tbase pbase =>
    decide (hdr.cls ≠ 3) && decide (root.toNat % 8192 = 0) && decide (hbase.toNat % 256 = 0) && decide (tbase.toNat % 256 = 0) &&
      decide (pbase.toNat % 256 = 0) &&
      (valid || (decide (root = 0) && decide (hbase = 0) && decide (tbase = 0) && decide (pbase = 0)))
  | _ => false

end Sys2Proof
end

