-- ==== Sys2Proof/Config.lean ====
section
/-! DEFINITION. What is fixed for the machine, and the free values: constants without a body, for values that the manual
leaves open. -/

namespace Sys2Proof.Config

/-- Bytes of LPDDR-6, read as 256 × 2^30 (R1, R317; log entry 2). -/
def lpddrBytes : Nat := 274877906944

/-- Bytes of the stacked vaults, 32 × 2 MiB (R1). -/
def vaultBytes : Nat := 67108864

/-- Device physical addresses are those below this bound: the LPDDR-6 range followed by the vaults (R317). -/
def deviceBytes : Nat := lpddrBytes + vaultBytes

/-- Cores of the device (R8). -/
def cores : Nat := 128

/-- Feature word 0 as advertised (R279): bit 0 and bits 8 to 17. -/
def advertised : BitVec 64 := 0x3FF01

/-- Free value (R268, log entry 7): a byte of a page whose placement word was changed without moving the data, drawn at a
counter and an address. -/
opaque staleByte : Nat → Nat → Byte

/-- Free value (R257, log entry 7): whether a use of an entry that the host wrote during a launch reads the old one. -/
opaque oldEntry : Nat → Bool

/-- Free value (R203, log entry 7): whether a later landing on an overlapped destination word replaces the earlier. -/
opaque laterLands : Nat → Bool

/-- Free value (R188, log entry 7): the number of the 128-byte block at which the private words of the n-th flight start. -/
opaque privateBlock : Nat → BitVec 41

/-- Free value (R199, R261, log entry 7): whether a row beyond a tensor's first plane lies by the row stride alone. -/
opaque rowsByStride : Bool

/-- Free value (R338, log entries 7 and 13): where firmware places a context image in device memory, in units of 256 bytes from the top of
the LPDDR-6 range, before it is brought into the range, drawn at a counter. -/
opaque imagePlace : Nat → Nat

/-- Free value (R338, log entries 7 and 13): bytes of a context image whose place or value the manual does not give, with their offsets, drawn
at a counter. -/
opaque imageRest : Nat → List (Nat × Byte)

/-- Free value (R161, log entry 7): an owner's result where the flights of an expansion reduce one deal by different
operations, drawn at a counter. -/
opaque mixedReduction : Nat → Nat → Word

/-- Free value (R295, log entry 7): what the capsule test takes for a quotient that is a NaN once it is clamped to 0 to 1. -/
opaque clampNan : Word → Word

/-- Free value (R348, log entry 12): the digest of the firmware image. -/
opaque firmwareDigest : Nat → BitVec 256

/-- Free value (R348, log entry 12): the version of the firmware image. -/
opaque firmwareVersion : Nat → Word

/-- Free values (R303, R348, log entry 38): the 64-byte block at which firmware places the fault ring at start-up, and the binary
logarithm of the number of its records, before they are brought into their ranges. -/
opaque ringBlock : Nat → Nat
opaque ringLog : Nat → Nat

/-- Free value (R338, log entry 13): the bytes of the section of a context image that holds the expansion state of a core. -/
opaque expansionBytes : Nat

/-- Free value (R326, log entry 63): by how much a correction of global time changes its rate, before it is brought into the range. -/
opaque ptmRate : Nat → Nat

/-- Free value (R348, log entry 12): a signature over the attestation record, drawn at a counter. -/
opaque attestationSignature : Nat → BitVec 512

end Sys2Proof.Config
end

