-- ==== Sys2Proof/Machine/Cells.lean ====
section
/-! DEFINITION. Sparse tables: lists of (key, value) pairs in one canonical form, keys strictly rising. `Tbl` is a table of
records; `Cells` is a table of words in which an unlisted key reads as zero and no listed word is zero, so that equal
contents are equal lists. Memory, scratchpads, register files and private words are all held in this form. -/

namespace Sys2Proof.Machine

/-- A table of records by number. -/
abbrev Tbl (α : Type) := List (Nat × α)

/-- A sparse array of words by number; an unlisted number reads as zero. -/
abbrev Cells (w : Nat) := List (Nat × BitVec w)

/-- The record listed under a number, if there is one. -/
def Tbl.find {α : Type} : Tbl α → Nat → Option α
  | [], _ => none
  | (k, v) :: t, a => if a = k then some v else Tbl.find t a

/-- Removes every record listed under a number. -/
def Tbl.del {α : Type} : Tbl α → Nat → Tbl α
  | [], _ => []
  | (k, v) :: t, a => if a = k then Tbl.del t a else (k, v) :: Tbl.del t a

/-- Places a record before the first larger number. -/
def Tbl.ins {α : Type} : Tbl α → Nat → α → Tbl α
  | [], a, x => [(a, x)]
  | (k, v) :: t, a, x => if a < k then (a, x) :: (k, v) :: t else (k, v) :: Tbl.ins t a x

/-- Lists a record under a number, in place of any record listed there. -/
def Tbl.put {α : Type} (t : Tbl α) (a : Nat) (x : α) : Tbl α := Tbl.ins (Tbl.del t a) a x

/-- Changes the record listed under a number, if there is one. -/
def Tbl.modify {α : Type} (t : Tbl α) (a : Nat) (g : α → α) : Tbl α :=
  match Tbl.find t a with
  | none => t
  | some x => Tbl.put t a (g x)

/-- The numbers of a table rise strictly. -/
def Tbl.sorted {α : Type} : Tbl α → Bool
  | [] => true
  | [_] => true
  | (k, _) :: (k', v') :: t => decide (k < k') && Tbl.sorted ((k', v') :: t)

/-- The word at a number; zero where none is listed. -/
def Cells.get {w : Nat} (c : Cells w) (a : Nat) : BitVec w := (Tbl.find c a).getD 0

/-- Writes a word; writing zero removes the entry. -/
def Cells.set {w : Nat} (c : Cells w) (a : Nat) (v : BitVec w) : Cells w :=
  if v = 0 then Tbl.del c a else Tbl.put c a v

/-- The canonical form: strictly rising numbers, no zero listed. -/
def Cells.wf {w : Nat} (c : Cells w) : Bool := Tbl.sorted c && c.all (fun e => decide (e.2 ≠ 0))

/-- Writes a list of words, the first at the given number. -/
def Cells.setList {w : Nat} (c : Cells w) (a : Nat) : List (BitVec w) → Cells w
  | [] => c
  | v :: vs => Cells.setList (Cells.set c a v) (a + 1) vs

/-- Reads a number of words in a row. -/
def Cells.getList {w : Nat} (c : Cells w) (a : Nat) : Nat → List (BitVec w)
  | 0 => []
  | n + 1 => Cells.get c a :: Cells.getList c (a + 1) n

/-- Keeps only the words whose number passes a test. -/
def Cells.keep {w : Nat} (c : Cells w) (p : Nat → Bool) : Cells w := c.filter (fun e => p e.1)

end Sys2Proof.Machine
end

