-- ==== Sys2Proof/Machine/State.lean ====
section
/-! DEFINITION. The state of the device as plain data: every piece of state the manual names, and the model's own fields
inputs, choices, freeCtr and cur (log entries 4, 5, 6, 7). -/

namespace Sys2Proof.Machine

/-- Why the model's machine stops. -/
inductive Fault where
  /-- Raised by a program instruction carried out where no flight stands to issue it; no run reaches it from a state in
  which a slot issues. Safe: the model stops. -/
  | noIssuingSlot
  /-- Raised by an access whose physical address lies outside the 256 GB of LPDDR-6 and the 64 MiB of vaults (R317, log
  entry 2). Safe: the model stops. -/
  | physicalHole
deriving DecidableEq, Repr

/-- Why the model refuses an instruction. -/
inductive Refusal where
  /-- Raised by an arm of exec that has no meaning yet. Safe: the model stops. -/
  | notModelled (mnemonic : String)
deriving DecidableEq, Repr

/-- The outcome of a step of this machine, over a state type. -/
abbrev Outcome (σ : Type) := Host.Outcome σ Fault Refusal

/-- The fault codes of R5. -/
inductive FCode where
  | undef | clause | hazard | priv | page | prot | bounds | handle | align | stackLimit | scratch | barrierCount
  | barrierBusy | gallery | divstack | tensor | expand | engine | pool | trap | brk | ecc
deriving DecidableEq, Repr

/-- An open clause of a slot: its header, where it stands, and the lanes whose guard was true when its first instruction
issued (R36, R40). -/
structure Clause where
  hdr   : Word
  base  : Word
  guard : Option Mask
deriving DecidableEq, Repr

/-- What a slot that is not ready waits for (R27), beside what the instruction at its PC needs before it can issue. -/
inductive Wait where
  /-- Nothing. -/
  | none
  /-- The slot's pending instructions, before its trapped lanes end as EXIT would end them; the other lanes then go on, this many words
  further (R50, R344, R347). -/
  | ending (skip : Nat) (lanes : Mask)
  /-- A barrier phase that the slot arrived in (R323). -/
  | barrier (k : Nat) (phase : Word)
  /-- A phase after the named ones, lane by lane (R323). -/
  | barWait (k : Nat) (toks : List (Nat × Word))
  /-- Landing words, each as lane, reference and token (R325). -/
  | land (refs : List (Nat × Word × Word))
  /-- A timeline, lane by lane, until a cycle if there is a timeout (R327). -/
  | timeline (ctx : Nat) (pd : PReg) (vals : List (Nat × DWord)) (stop : Option Nat)
  /-- A GROW request for n registers, made by these lanes (R100). -/
  | grow (pd : PReg) (lanes : Mask) (n : Nat)
  /-- A cycle (R89). -/
  | sleep (stop : Nat)
  /-- The cycle after a YIELD (R89). -/
  | yielded (cycle : Nat)
deriving DecidableEq, Repr

/-- Where a slot stands in the steps of R96: not at its join, just arrived, or waiting there. -/
inductive JoinSt where
  | no | arriving | waiting
deriving DecidableEq, Repr

/-- One of the two program-counter slots of a flight (R11, R94). A slot with mask zero is free. -/
structure Slot where
  pc      : Word
  mask    : Mask
  ref     : Option Nat
  /-- Whether the slot has reached its join, or executed RET, and takes the steps of R96. -/
  join    : JoinSt
  clause  : Option Clause
  wait    : Wait
  /-- Lanes parked on a replayable fault (R343). -/
  park    : Mask
  /-- Ring position up to which records must be acknowledged before the replay. -/
  parkSeq : Nat
  /-- Lanes of a user trap that a handler serves or will serve (R344). -/
  trapped : Mask
  /-- Lanes that the instruction at the PC is replayed for. -/
  replay  : Option Mask
  /-- Issues of another slot of the class on the partition while this one was ready (R26). -/
  aged    : Nat
  /-- Whether the slot is aged: 256 such issues have passed it over (R26). -/
  old     : Bool
  /-- Whether the slot's last clause had the yield hint set (R25). -/
  hint    : Bool
deriving DecidableEq, Repr

/-- A free slot. -/
def Slot.free : Slot :=
  { pc := 0, mask := 0, ref := none, join := .no, clause := none, wait := .none, park := 0, parkSeq := 0,
    trapped := 0, replay := none, aged := 0, old := false, hint := false }

/-- Kinds of divergence stack entry (R94). -/
inductive EntKind where
  | path | join | wait | frame
deriving DecidableEq, Repr

/-- A divergence stack entry (R94). -/
structure StackEnt where
  kind : EntKind
  pc   : Word
  mask : Mask
  ref  : Option Nat
deriving DecidableEq, Repr

/-- What one lane of a pending load reads: its space, context, virtual and physical address, and the handle that it names (R183). -/
structure LaneAddr where
  lane : Nat
  host : Bool
  ctx  : Nat
  va   : Nat
  pa   : Nat
  uncached : Bool
  handle : Nat
deriving DecidableEq, Repr

/-- Work of an engine command (R292, R294, R297, R227). -/
inductive CmdKind where
  /-- A COPY, FILL, REDUCE-COPY or NOP descriptor of sixteen words. -/
  | chain (desc : List Word)
  /-- A collision query: its record of sixteen words, and where the four words of its result record
  lie. -/
  | query (words : List Word) (result : List LaneAddr)
  /-- A dynamics step: its record of twelve words, and where each of them lies. -/
  | dyn (words : List Word) (at_ : List LaneAddr)
  /-- A restripe of pages from a virtual address to a placement word; the page size in bytes. -/
  | restripe (va pages size : Nat) (place : Word)
deriving DecidableEq, Repr

/-- A command that a lane hands over, and whether it is the lane's last (R290, R291). -/
structure CmdItem where
  lane  : Nat
  scope : Word
  kind  : CmdKind
  last  : Bool
deriving DecidableEq, Repr

/-- What a resume issues again for an instruction that was pending at a pre-emption (R142, R340). -/
inductive Again where
  /-- An LD: register, width, order and addresses. -/
  | mem (d : Nat) (wd : Width) (ord : Order) (lanes : List LaneAddr)
  /-- An LDP: register, words, and the first word index of each lane. -/
  | priv (d n : Nat) (idx : List (Nat × Int))
  /-- A GFETCH: register, tensor identifier, .BM, row and first column as read at issue. -/
  | gather (d t : Nat) (bm : Bool) (row col : Nat)
  /-- A matrix instruction: the general and uniform registers that it read at issue. -/
  | product (gpr unif : Cells 32)
deriving DecidableEq, Repr

/-- What a pending long-latency instruction still has to do (R49, R340). -/
inductive PendAct where
  /-- Write general registers (register, lane, value), predicates (predicate, lane, value) and FPSTAT flags. -/
  | write (g : List (Nat × Nat × Word)) (p : List (Nat × Nat × Bool)) (flags : Word)
  /-- Write general registers with values read at issue; a resume after a pre-emption reads them again. -/
  | reading (g : List (Nat × Nat × Word)) (again : Again)
  /-- Write accumulator rows, and add to idle counters, as (lane, amount) (R146). While it may still be fetching its operands, what a
  replay of it starts from (R142). -/
  | product (g : List (Nat × Nat × Word)) (idle : List (Nat × Nat)) (again : Option Again)
  /-- Read memory and write registers from d, lane by lane. -/
  | load (d : Nat) (wd : Width) (ord : Order) (lanes : List LaneAddr)
  /-- A load that has read memory and met an uncorrectable error in these lanes (R206). -/
  | bad (d : Nat) (wd : Width) (ord : Order) (lanes all : List LaneAddr)
  /-- An instruction that a resume issues again, once this many fault records are acknowledged (R340, log entry 59). -/
  | again (what : Again) (after : Nat)
  /-- One that met a user trap when it was issued again: it waits for its handler (R7, R344, log entry 59). -/
  | trapped (what : Again)
  /-- Wait for futures (lane, future), until a cycle if there is a timeout (R289). -/
  | fwait (pd : Nat) (atr : Bool) (futs : List (Nat × Word)) (stop : Option Nat)
  /-- Wait for a tile (R286). -/
  | atrPop (d pd atr win off : Nat) (stop : Option Nat)
  /-- An arrival at a forming expansion (R156). -/
  | expand (e : Nat)
  /-- A reduction whose partners have not come (R161). -/
  | segred (e : Nat)
  /-- Commands that wait for room in the queue of a context since a cycle: destination, the futures of the lanes served, and
  what is not yet handed over (R290). -/
  | commands (cx d : Nat) (since : Nat) (got : List (Nat × Word)) (rest : List CmdItem)
  /-- A cancellation sequence that is not over (R301). -/
  | cancel
  /-- Nothing: the instruction completes. -/
  | finished
deriving DecidableEq, Repr

/-- Groups of the wait bits of a clause header (R37, R39). -/
inductive PendClass where
  | mem | mat | asy | col | other
deriving DecidableEq, Repr

/-- A long-latency instruction of a slot: pending until done, with what is left of its lookahead window (R48, R49). -/
structure Pending where
  slotB  : Bool
  seq    : Nat
  instr  : Instr
  pc     : Word
  mask   : Mask
  cls    : PendClass
  window : Nat
  gdest  : List Nat
  pdest  : List Nat
  done   : Bool
  act    : PendAct
  /-- OWN and ITER of the lanes as the instruction issued (R163). -/
  own    : Cells 32
  iter   : Cells 32
deriving DecidableEq, Repr

/-- A read-set entry of a region (R229). -/
structure ReadEnt where
  va   : Nat
  pa   : Nat
  obs  : Word
  hard : Bool
deriving DecidableEq, Repr

/-- What a register or a write-set entry of a region holds: a concrete value, or entry k plus a constant (R243). -/
inductive Tag where
  | concrete
  | sym (k : Nat) (c : Word)
deriving DecidableEq, Repr

/-- A write-set entry of a region (R229). -/
structure WriteEnt where
  va  : Nat
  pa  : Nat
  val : Word
  tag : Tag
deriving DecidableEq, Repr

/-- A constraint of a region: (k, c) compared with v as a type under a condition gave an outcome. symLeft says that the
symbolic operand stood first (R244). -/
structure Constraint where
  k       : Nat
  c       : Word
  signed  : Bool
  cc      : CC
  v       : Word
  symLeft : Bool
  outcome : Bool
deriving DecidableEq, Repr

/-- The open atomic region of a lane (R229). -/
structure Region where
  handler  : Word
  reads    : List ReadEnt
  writes   : List WriteEnt
  cons     : List Constraint
  tags     : Tbl Tag
  priority : Bool
deriving DecidableEq, Repr

/-- Kinds of flight (R15, R16, R21, R33); firmware stands for the firmware core's own lanes (R313). -/
inductive FlightKind where
  | resident | spawned | handler | firmware
deriving DecidableEq, Repr

/-- Why a trap stands behind its slot's PC: the instruction faulted after the slot had gone on. -/
inductive Late where
  /-- An EXPAND whose expansion failed to form, in this clause (R157). -/
  | clause (c : Option Clause)
  /-- A pending instruction, by its number, that was issued again after a resumption (R340). -/
  | load (seq : Nat)
deriving DecidableEq, Repr

/-- A user trap as its handler reads it (R344, R345), with the slot that trapped. -/
structure TrapInfo where
  code   : Nat
  n      : BitVec 8
  pc     : Word
  mask   : Mask
  who    : Word
  va     : Nat
  flight : Nat
  slotB  : Bool
  decode : Bool
  hdrBad : Bool
  count  : Nat
  /-- Set for an instruction that faulted after its slot had gone on. -/
  late   : Option Late
deriving DecidableEq, Repr

/-- A block of a core's L1 that holds the private words with one index of the 32 lanes of a flight (R180, R188, R189). -/
structure PrivBlock where
  index : Nat
  valid : Mask
  dirty : Mask
  words : Cells 32
deriving DecidableEq, Repr

/-- The words with one index of a flight's private memory after the dirty words of their block are written back (R189). -/
def PrivBlock.flush (b : PrivBlock) (m : Cells 32) : Cells 32 :=
  (List.range 32).foldl (fun m l => if b.dirty.getLsbD l then Cells.set m (32 * b.index + l) (Cells.get b.words l) else m) m

/-- A flight: 32 lanes and two slots (R11), with the state of its flight record (R339). Register n of lane l is word
32 n + l of gpr; predicate n of every lane is the mask at n of preds; word 32 w + l of privs is private word w of lane l as the flight's
private memory has it, and pblocks the blocks of its core's L1 that hold private words; privErrs are soft errors in private words, as
word and whether it is uncorrectable (R206). -/
structure Flight where
  launch   : Word
  kind     : FlightKind
  role     : Nat
  allot    : Nat
  order    : Nat
  threads  : Mask
  a        : Slot
  b        : Slot
  stack    : List StackEnt
  gpr      : Cells 32
  preds    : Cells 32
  unif     : Cells 32
  fmask    : Word
  fpstat   : Word
  seed     : DWord
  own      : Cells 32
  iter     : Cells 32
  scope    : Cells 32
  astat    : Cells 32
  idle     : Cells 32
  regions  : Tbl Region
  privs    : Cells 32
  pblocks  : List PrivBlock
  privErrs : List (Nat × Bool)
  privBase : Nat
  pending  : List Pending
  nextSeq  : Nat
  marks    : BitVec 4
  trap     : Option TrapInfo
  deadlineEvent : Bool
deriving DecidableEq, Repr

/-- A child group in a task queue (R20). -/
structure ChildGroup where
  launch : Word
  role   : Nat
  arg    : Word
  scope  : Word
  count  : Nat
deriving DecidableEq, Repr

/-- States of an atrium row (R284). A row that a cancellation covers is stopping until the status has been written to its record, and
cancelled then (R302). -/
inductive RowState where
  | queued | popped | returned | stopping | cancelled
deriving DecidableEq, Repr

/-- A row of an atrium, in its row slot (R284, R285). -/
structure AtrRow where
  seq   : Nat
  state : RowState
  scope : Word
  /-- Where the nine words of the result record lie. -/
  recAt : List LaneAddr
  words : List Word
deriving DecidableEq, Repr

/-- A tile of an atrium: the sequences of its rows in push order, and whether it is full (R284). -/
structure AtrTile where
  rows : List Nat
  full : Bool
deriving DecidableEq, Repr

/-- An atrium of a core (R280, R284). Row slot i is listed under i. -/
structure Atrium where
  bound : Option Word
  push  : Nat
  rows  : Tbl AtrRow
  tiles : List AtrTile
deriving DecidableEq, Repr

/-- A named barrier and its gallery (R319 to R321). Members and arrived threads are masks by flight number. -/
structure Barrier where
  bound   : Option Word
  c0      : Nat
  fixed   : Bool
  c       : Nat
  a       : Nat
  phase   : Word
  members : Cells 32
  arrived : Cells 32
deriving DecidableEq, Repr

/-- A barrier at reset (R319). -/
def Barrier.reset : Barrier :=
  { bound := none, c0 := 0, fixed := false, c := 0, a := 0, phase := 0, members := [], arrived := [] }

/-- One word of a copy of the replay list: where it is read and where it lands (R203), and the generation of the landing word into
which its landing was counted, if it was: one that a pre-emption has made to land again is not counted twice (R205). -/
structure CopyWord where
  src     : LaneAddr
  dst     : Nat
  landed  : Bool
  counted : Option Word
  /-- The word as the request for its 128-byte block has read it, until it lands (R203). -/
  val     : Option Word
deriving DecidableEq, Repr

/-- A copy of a core's replay list (R204), with what a fault record says of its COPYL (R206, R303): flight, slot, PC, handle, and the
lanes' OWN and ITER. -/
structure Copy where
  id      : Nat
  launch  : Word
  dstCore : Nat
  land    : Nat
  words   : List CopyWord
  flight  : Nat
  slotB   : Bool
  pc      : Word
  handle  : Nat
  own     : Cells 32
  iter    : Cells 32
  /-- Ring position that must be acknowledged before the copy goes on (R343, log entry 60). -/
  parkSeq : Option Nat
deriving DecidableEq, Repr

/-- A participant of an expansion (R156, R157). -/
structure Participant where
  flight : Nat
  lane   : Nat
  start  : Word
  len    : Nat
  pfx    : Nat
deriving DecidableEq, Repr

/-- A participating flight of an open expansion: its deal cursor, whether it is released, whether it has retired, so that another
flight in its position is none of the expansion's, and its most recent deal as (lane, iteration) pairs (R153, R159 to R161). -/
structure XFlight where
  cursor   : Nat
  released : Bool
  gone     : Bool
  deal     : List (Nat × Nat)
deriving DecidableEq, Repr

/-- A SEGRED that a flight issued for a deal (R161). -/
structure RedRec where
  flight : Nat
  deal   : Nat
  op     : RedOp
  d      : Nat
  pd     : Nat
  mask   : Mask
  vals   : List (Nat × Nat × Word)
  seq    : Nat
  done   : Bool
deriving DecidableEq, Repr

/-- An arrival at a forming expansion (R156). -/
structure Arrival where
  flight : Nat
  seq    : Nat
  d      : Nat
  /-- The clause in which the arriving instruction stands. -/
  clause : Option Clause
  lanes  : List (Nat × Word × Word)
deriving DecidableEq, Repr

/-- An expansion slot that is open or forming (R156). -/
structure Expansion where
  gallery : Option Nat
  isOpen  : Bool
  arrivals : List Arrival
  parts   : List Participant
  total   : Nat
  flights : Tbl XFlight
  reds    : List RedRec
deriving DecidableEq, Repr

/-- A role of a launch (R15, R58). -/
structure Role where
  entry     : Nat
  allot     : Nat
  flights   : Nat
  priority  : Nat
  handler   : Bool
  spawnable : Bool
  traps     : Bool
  privWords : Nat
deriving DecidableEq, Repr

/-- A listed window (R59). -/
structure Window where
  num  : Nat
  ring : Bool
  size : Nat
deriving DecidableEq, Repr

/-- An event held for a workgroup (R34). -/
inductive HeldEvent where
  | deadline
  | trap (t : TrapInfo)
deriving DecidableEq, Repr

/-- The speculation record of a workgroup (R334). -/
structure SpecRec where
  counters : List (Nat × LaneAddr × Word)
  tails    : List (Nat × Nat)
  flight   : Nat
  seed     : DWord
deriving DecidableEq, Repr

/-- A workgroup of a launch (R12). wins gives the scratchpad offset at which each listed window was placed. -/
structure Workgroup where
  core      : Nat
  wgid      : Nat
  gang      : Nat
  retired   : Bool
  saved     : Bool
  wins      : Tbl Nat
  fmask     : Word
  held      : List HeldEvent
  running   : Bool
  /-- Whether a deadline cancellation runs whose handler this workgroup will serve (R33). -/
  dlPending : Bool
  handlerPos : Option Nat
  spec      : Option SpecRec
deriving DecidableEq, Repr

/-- A scope record in use (R329). -/
structure Scope where
  parent    : Nat
  anytime   : Bool
  cancelled : Bool
  /-- The head of the allocation chain, as pool and node (R275). -/
  head      : Option (Nat × Nat)
  /-- The nodes allocated under the scope, each a reference to it (R329). -/
  nodes     : List (Nat × Nat)
  /-- Those of them that a cancellation has left allocated and counted (R276, R316). -/
  lost      : List (Nat × Nat)
deriving DecidableEq, Repr

/-- A cancellation sequence that waits for the engine commands of its scopes to complete (R302, R330): the scopes, the lanes
it stopped as (flight, start order, lanes), the commands as (context, number), and the CANCEL it carries out as (flight, start
order, number of its pending entry); none for a deadline event. -/
structure CancelSeq where
  covered : List Nat
  stopped : List (Nat × Nat × Mask)
  cmds    : List (Nat × Nat)
  issuer  : Option (Nat × Nat × Nat)
deriving DecidableEq, Repr

/-- An offer in the best cell (R332). -/
structure Offer where
  score : Word
  plan  : Word
  gen   : Word
deriving DecidableEq, Repr

/-- The best cell of a launch (R332). -/
structure BestCell where
  offers  : List Offer
  latched : Option Offer
  stale   : Bool
  gen     : Word
deriving DecidableEq, Repr

/-- The tile dispenser of a launch (R23, R277): the index space or the group lengths, and the cursor. -/
structure Dispenser where
  grouped : Bool
  x       : Nat
  y       : Nat
  z       : Nat
  chunk   : Nat
  groups  : List Nat
  group   : Nat
  cursor  : Nat
deriving DecidableEq, Repr

/-- A launch (R13, R315). code holds the code region as it is fetched, with patched words (R61). -/
structure Launch where
  word     : Word
  queue    : Nat
  cls      : Nat
  gang     : Nat
  irq      : Option Nat
  ctxs     : List (Option Nat)
  record   : Nat
  codeBase : Nat
  code     : List Word
  roles    : List Role
  windows  : List Window
  seed     : DWord
  deadline : Nat
  disp     : Dispenser
  best     : BestCell
  scopes   : Tbl Scope
  cancels  : List CancelSeq
  /-- Writes of the deadline register that wait for the clear, with their .MIN flag (R328). -/
  dlWrites : List (Nat × Bool)
  wgs      : List Workgroup
  ended    : List Nat
  fault    : Nat
  lost     : Nat
  overrun  : Bool
  start    : Nat
deriving DecidableEq, Repr

/-- A frame of the depth-first walk of a collision query: node index, level, minimum corner, edge, next octant (R295). -/
structure WalkFrame where
  node   : Nat
  level  : Nat
  lo     : List Word
  edge   : Word
  occ    : Word
  base   : Word
  octant : Nat
deriving DecidableEq, Repr

/-- An accepted command of an engine context (R290): its number there, and its place in the order of acceptance over all contexts. -/
structure Command where
  num       : Nat
  order     : Nat
  kind      : CmdKind
  launch    : Option Word
  issuer    : Nat
  scope     : Word
  started   : Bool
  cancelled : Bool
  finished  : Bool
  /-- Bytes, bodies or pages handled so far. -/
  pos       : Nat
  /-- Ring position that must be acknowledged before the command goes on (R293). -/
  parkSeq   : Option Nat
  walk      : List WalkFrame
  visited   : Nat
  version   : Word
deriving DecidableEq, Repr

/-- An engine context: its table entry, timeline and command queue (R256, R280). -/
structure EngineCtx where
  valid    : Bool
  root     : Nat
  hbase    : Nat
  tbase    : Nat
  pbase    : Nat
  timeline : Nat
  tail     : Nat
  cmds     : List Command
deriving DecidableEq, Repr

/-- An engine context that nothing has made valid (R255). -/
def EngineCtx.reset : EngineCtx :=
  { valid := false, root := 0, hbase := 0, tbase := 0, pbase := 0, timeline := 0, tail := 0, cmds := [] }

/-- An L1 block (R180): valid bit per word, dirty bit per byte, owned words (R219). Byte i of the block is bits 8i+7 to 8i
of data; page is the physical address of the block. -/
structure L1Block where
  core  : Nat
  asid  : Nat
  block : Nat
  page  : Nat
  valid : BitVec 32
  dirty : BitVec 128
  owned : BitVec 32
  data  : BitVec 1024
deriving DecidableEq, Repr

/-- A word held in a core's gather cache (R200). -/
structure GatherWord where
  core : Nat
  host : Bool
  addr : Nat
  val  : Word
deriving DecidableEq, Repr

/-- A cached table entry of a core (R257). kind 0 handle, 1 tensor identifier, 2 pool descriptor. -/
structure DescEntry where
  core  : Nat
  ctx   : Nat
  kind  : Nat
  idx   : Nat
  words : List Word
deriving DecidableEq, Repr

/-- An entry of a slice translation cache (R269). -/
structure TlbEntry where
  slice : Nat
  ctx   : Nat
  base  : Nat
  size  : Nat
  pa    : Nat
  leaf  : Nat
  r     : Bool
  w     : Bool
  x     : Bool
  a     : Bool
  place : Word
  hot   : Nat
deriving DecidableEq, Repr

/-- A directory entry of a region (R221, R223). -/
structure DirEntry where
  holder     : Option Nat
  fine       : Bool
  lastReg    : Nat
  lastRecall : Nat
deriving DecidableEq, Repr

/-- A word reserved for a priority region attempt (R252). -/
structure Reservation where
  pa     : Nat
  flight : Nat
  lane   : Nat
  cycle  : Nat
deriving DecidableEq, Repr

/-- A combining entry of a hall switch (R278): the destination block, its operation, the words combined so far, the
commands, as (context, number), that contributed to it, and the first word that one contributed. -/
structure CombEntry where
  hall  : Nat
  block : Nat
  at_   : LaneAddr
  op    : RedOp
  from_ : List (Nat × Nat)
  words : Cells 32
  got   : BitVec 32
deriving DecidableEq, Repr

/-- A LAUNCH packet that waits for room (R18) or for its boundary (R30): the launch as it will start, its patches as kind,
word and parameter offset (R60), where its parameters and group table lie, its fence bits (R312), and global time since when
it waits. -/
structure Waiting where
  launch  : Launch
  patches : List (Nat × Nat × Nat)
  param   : Nat
  pbytes  : Nat
  groups  : Nat
  fence   : BitVec 3
  since   : Nat
deriving DecidableEq, Repr

/-- An indirect buffer that a queue is reading: its context, address, slot count and next slot, the INDIRECT packet, and the
packet of its last slot once that is read (R314). -/
structure Indirect where
  ctx   : Nat
  va    : Nat
  count : Nat
  next  : Nat
  pkt   : Nat
  last  : Option Nat
deriving DecidableEq, Repr

/-- When a started packet completes (R311, R314). -/
inductive DoneWhen where
  | now
  | timeline (ctx value : Nat)
  | launch (w : Word)
  /-- An INDIRECT whose buffer is still being read. -/
  | indirect
  /-- An INDIRECT whose last slot's packet has this number. -/
  | packet (id : Nat)
deriving DecidableEq, Repr

/-- A packet of a queue that has started and not completed (R311). -/
structure Active where
  id   : Nat
  pkt  : Instr
  cond : DoneWhen
deriving DecidableEq, Repr

/-- A hardware queue: its registers (R306) and its fetch state (R308, R311, R313, R314). -/
structure Queue where
  base     : Nat
  space    : Bool
  en       : Bool
  n        : Nat
  doorbell : Nat
  consumed : Nat
  error    : Nat
  halt     : Bool
  opened   : Bool
  launches : Nat
  held     : Option Instr
  /-- Global time since when the packet held stands at the head of the queue (R30). -/
  heldAt   : Nat
  age      : Nat
  nextId   : Nat
  active   : List Active
  indirect : List Indirect
  waiting  : Option Waiting
deriving DecidableEq, Repr

/-- Queue registers at reset (R306). -/
def Queue.reset : Queue :=
  { base := 0, space := false, en := false, n := 4, doorbell := 0, consumed := 0, error := 0, halt := false,
    opened := false, launches := 0, held := none, heldAt := 0, age := 0, nextId := 0, active := [], indirect := [], waiting := none }

/-- What a context image holds of one member of a gang (R338). -/
structure SavedMember where
  core     : Nat
  index    : Nat
  wgid     : Nat
  /-- The registers that each partition of the core had free at the halt. -/
  free     : List Nat
  flights  : Tbl Flight
  barriers : Tbl Barrier
  expans   : Tbl Expansion
  copies   : List Copy
  tasks    : List ChildGroup
  atria    : Tbl Atrium
  held     : List HeldEvent
  /-- The bytes of each window, and how many there are. -/
  windows  : Tbl (Nat × Cells 8)
deriving DecidableEq, Repr

/-- The context image of a pre-empted gang (R338). -/
structure SavedGang where
  launch  : Word
  gang    : Nat
  time    : Nat
  members : List SavedMember
deriving DecidableEq, Repr

/-- A soft error present in stored data (R206). -/
structure StoredError where
  place : ErrPlace
  unit  : Nat
  addr  : Nat
  fatal : Bool
deriving DecidableEq, Repr

/-- A host line that the CXL.cache agent holds (R178). -/
structure HostLine where
  line      : Nat
  exclusive : Bool
deriving DecidableEq, Repr

/-- The reflex registers and what they steer (R28, R29, R307). -/
structure Reflex where
  halls    : BitVec 32
  channels : BitVec 32
  period   : Nat
  phase    : Nat
  contexts : BitVec 256
  windowOpen : Bool
  /-- Global time at which the open window began, and whether a reflex launch started at its boundary. -/
  openedAt : Nat
  running  : Option Word
  lastBoundary : Nat
  overruns : Nat
deriving DecidableEq, Repr

/-- Start-up, attestation and alarm state (R348, R350). -/
structure Security where
  /-- Steps of R348 done so far, 0 to 6. -/
  booted    : Nat
  digest    : BitVec 256
  version   : Word
  signature : Option (BitVec 512)
  keysZero  : Bool
  halted    : Bool
deriving DecidableEq, Repr

/-- Telemetry counts that the manual names (R31, R206, R273, R278). -/
structure Telemetry where
  corrected   : Nat
  requests    : Tbl Nat
  logged      : Nat
  recalls     : Tbl Nat
  splits      : Tbl Nat
  refused     : Tbl Nat
  merges      : Tbl Nat
  uncombined  : Tbl Nat
deriving DecidableEq, Repr

/-- An access of the host to device memory that waits for a reserved word, or for such an access before it (R252, R318). -/
inductive HostOp where
  | read (pa : Nat)
  | write (pa : Nat) (v : Word) (be : BitVec 4)
deriving DecidableEq, Repr

/-- A fault record that waits for room in the fault ring: the slot that waits for it, as flight start order and slot, none for an engine or a
copy, and its words (R303). -/
structure RingWait where
  order : Option Nat
  slotB : Bool
  words : List Word
deriving DecidableEq, Repr

/-- The slot whose instruction is carried out: the flight's number in State.flights, and its slot. -/
structure Cur where
  flight : Nat
  slotB  : Bool
deriving DecidableEq, Repr

/-- The state of the device. A flight is listed under 64 × core + FLIGHT; a barrier under 64 × core + k; an atrium under
4 × core + number; an expansion slot under 16 × core + 4 × partition + e; a launch under its LAUNCH word. -/
structure State where
  mem        : Cells 8
  hostMem    : Cells 8
  placed     : Cells 32
  /-- For each 4 KiB span of device memory, which span of its page it is (R266). -/
  spanInPage : Cells 32
  errors     : List StoredError
  hostLines  : List HostLine
  l1         : List L1Block
  gather     : List GatherWord
  descs      : List DescEntry
  tlb        : List TlbEntry
  dir        : Tbl DirEntry
  reserved   : List Reservation
  combining  : List CombEntry
  ctxs       : Tbl EngineCtx
  flights    : Tbl Flight
  flightSeq  : Nat
  launches   : Tbl Launch
  scratch    : Tbl (Cells 8)
  tasks      : Tbl (List ChildGroup)
  atria      : Tbl Atrium
  barriers   : Tbl Barrier
  expans     : Tbl Expansion
  copies     : Tbl (List Copy)
  copySeq    : Nat
  cmdSeq     : Nat
  growers    : Tbl (List Cur)
  lastIssue  : Tbl Cur
  matBusy    : Tbl Nat
  saved      : List SavedGang
  queues     : Tbl Queue
  round      : Nat
  frBase     : BitVec 48
  frLog      : Nat
  frHead     : Nat
  frTail     : Nat
  /-- Records that the ring had no room for, the oldest first (R303). -/
  ringQueue  : List RingWait
  alarm      : BitVec 3
  alarmStat  : BitVec 3
  pmode      : BitVec 2
  accepted   : BitVec 64
  acceptedW  : Bool
  reflex     : Reflex
  security   : Security
  telemetry  : Telemetry
  irqs       : List Nat
  hostReads  : List (Nat × Word)
  hostOps    : List HostOp
  time       : Nat
  /-- What global time has gone past its last nanosecond, in 17,000,000ths of one. -/
  subNs      : Nat
  /-- The rate of global time, in millionths of its nominal rate, and whether the host's time has been taken over (R326). -/
  rate       : Nat
  synced     : Bool
  cycle      : Nat
  inputs     : List Instr
  choices    : List Bool
  freeCtr    : Nat
  cur        : Cur
  /-- Set by an access to an address that no memory has; the step then ends in Fault.physicalHole (log entry 2). -/
  hole       : Bool
deriving DecidableEq, Repr

/-- The device right after reset: tables empty, registers at the values of R279, R306, R307, R345 and R349, memory with
nothing listed, global time counting from 0 (R326). -/
def State.reset : State :=
  { mem := [], hostMem := [], placed := [], spanInPage := [], errors := [], hostLines := [], l1 := [], gather := [], descs := [], tlb := [],
    dir := [], reserved := [], combining := [], ctxs := [], flights := [], flightSeq := 0, launches := [], scratch := [],
    tasks := [], atria := [], barriers := [], expans := [], copies := [], copySeq := 0, cmdSeq := 0, growers := [], lastIssue := [],
    matBusy := [], saved := [], queues := [], round := 0, frBase := 0, frLog := 6, frHead := 0, frTail := 0, ringQueue := [], alarm := 0,
    alarmStat := 0, pmode := 1, accepted := 0, acceptedW := false,
    reflex := { halls := 3, channels := 0, period := 5, phase := 0, contexts := 0, windowOpen := false, openedAt := 0,
                running := none, lastBoundary := 0, overruns := 0 },
    security := { booted := 0, digest := 0, version := 0, signature := none, keysZero := false, halted := false },
    telemetry := { corrected := 0, requests := [], logged := 0, recalls := [], splits := [], refused := [], merges := [], uncombined := [] },
    irqs := [], hostReads := [], hostOps := [], time := 0, subNs := 0, rate := 1000000, synced := false, cycle := 0, inputs := [], choices := [], freeCtr := 0,
    cur := { flight := 0, slotB := false }, hole := false }

end Sys2Proof.Machine
end

