-- ==== Sys2Proof/Machine/Operands.lean ====
section
/-! DEFINITION. Operands: reading and writing the registers of a lane (R45, R68 to R70), the registers each instruction reads
and writes (R48, R56), its lookahead (R47), its wait class (R37) and its level of privilege (R53, R347). -/

namespace Sys2Proof.Machine

/-- General register r of a lane; gz reads zero (R45, R68). -/
def Flight.g (f : Flight) (lane : Nat) (r : Reg) : Word :=
  if r.toNat = 127 then 0 else Cells.get f.gpr (32 * r.toNat + lane)

/-- General register r + n of a lane, for the registers of a range; the pair of gz reads zero (R79). -/
def Flight.gAt (f : Flight) (lane : Nat) (r : Reg) (n : Nat) : Word :=
  if r.toNat = 127 then 0 else Cells.get f.gpr (32 * (r.toNat + n) + lane)

/-- A register pair as one value (R79). -/
def Flight.g64 (f : Flight) (lane : Nat) (r : Reg) : DWord :=
  BitVec.ofNat 64 ((f.gAt lane r 0).toNat + (f.gAt lane r 1).toNat * 2 ^ 32)

/-- Writes general register number n of a lane; gz discards the write (R45). -/
def Flight.setG (f : Flight) (lane n : Nat) (v : Word) : Flight :=
  if n = 127 then f else { f with gpr := Cells.set f.gpr (32 * n + lane) v }

/-- The lanes in which predicate n is true; pt is true in every lane (R69). -/
def Flight.pMask (f : Flight) (n : Nat) : Mask := if n = 15 then BitVec.allOnes 32 else Cells.get f.preds n

/-- Predicate p of a lane (R69). -/
def Flight.p (f : Flight) (lane : Nat) (p : PReg) : Bool := (f.pMask p.toNat).getLsbD lane

/-- A lane mask with one bit changed. -/
def setLane (m : Mask) (lane : Nat) (v : Bool) : Mask :=
  if v then m ||| BitVec.twoPow 32 lane else m &&& ~~~(BitVec.twoPow 32 lane)

/-- Writes predicate number n of a lane; pt discards the write (R45, R69). -/
def Flight.setP (f : Flight) (lane n : Nat) (v : Bool) : Flight :=
  if n = 15 then f else { f with preds := Cells.set f.preds n (setLane (Cells.get f.preds n) lane v) }

/-- Uniform register u; sz reads zero (R70). -/
def Flight.u (f : Flight) (n : Nat) : Word := if n = 63 then 0 else Cells.get f.unif n

/-- Writes a uniform register; sz discards the write (R45, R70). -/
def Flight.setU (f : Flight) (n : Nat) (v : Word) : Flight :=
  if n = 63 then f else { f with unif := Cells.set f.unif n v }

/-- The lanes of a mask, ascending. -/
def lanesOf (m : Mask) : List Nat := (List.range 32).filter (fun l => m.getLsbD l)

/-- The lowest lane of a mask. -/
def lowLane (m : Mask) : Nat := (lanesOf m).headD 0

/-- The mask of a list of lanes. -/
def maskOf (ls : List Nat) : Mask := ls.foldl (fun m l => m ||| BitVec.twoPow 32 l) 0

/-- The number of lanes of a mask. -/
def countLanes (m : Mask) : Nat := (lanesOf m).length

/-- Writes (register, lane, value) results. -/
def Flight.setGs (f : Flight) (ws : List (Nat × Nat × Word)) : Flight :=
  ws.foldl (fun f w => f.setG w.2.1 w.1 w.2.2) f

/-- Writes (predicate, lane, value) results. -/
def Flight.setPs (f : Flight) (ws : List (Nat × Nat × Bool)) : Flight :=
  ws.foldl (fun f w => f.setP w.2.1 w.1 w.2.2) f

/-- The registers an instruction names: general, predicate and uniform, read and written. gz, pt and sz are no registers. -/
structure Use where
  gr : List Nat
  gw : List Nat
  pr : List Nat
  pw : List Nat
  ur : List Nat
  uw : List Nat
deriving DecidableEq, Repr

/-- The general registers r to r + n - 1. -/
def gRun (r : Reg) (n : Nat) : List Nat := if r.toNat = 127 then [] else (List.range n).map (r.toNat + ·)

/-- A predicate number. -/
def pOne (p : PReg) : List Nat := if p.toNat = 15 then [] else [p.toNat]

/-- A uniform register number. -/
def uNum (n : Nat) : List Nat := if 63 ≤ n then [] else [n]

end Sys2Proof.Machine

namespace Sys2Proof

open Sys2Proof.Machine

/-- The registers each instruction reads and writes, as its rule says. -/
def Instr.use : Instr → Use
  | .iadd d a b _ => ⟨gRun a 1 ++ gRun b 1, gRun d 1, [], [], [], []⟩
  | .isub d a b _ => ⟨gRun a 1 ++ gRun b 1, gRun d 1, [], [], [], []⟩
  | .imul d a b _ => ⟨gRun a 1 ++ gRun b 1, gRun d 1, [], [], [], []⟩
  | .imulhI d a b _ => ⟨gRun a 1 ++ gRun b 1, gRun d 1, [], [], [], []⟩
  | .imulhN d a b _ => ⟨gRun a 1 ++ gRun b 1, gRun d 1, [], [], [], []⟩
  | .iminI d a b _ => ⟨gRun a 1 ++ gRun b 1, gRun d 1, [], [], [], []⟩
  | .iminN d a b _ => ⟨gRun a 1 ++ gRun b 1, gRun d 1, [], [], [], []⟩
  | .imaxI d a b _ => ⟨gRun a 1 ++ gRun b 1, gRun d 1, [], [], [], []⟩
  | .imaxN d a b _ => ⟨gRun a 1 ++ gRun b 1, gRun d 1, [], [], [], []⟩
  | .iabs d a _ => ⟨gRun a 1, gRun d 1, [], [], [], []⟩
  | .and d a b _ => ⟨gRun a 1 ++ gRun b 1, gRun d 1, [], [], [], []⟩
  | .or d a b _ => ⟨gRun a 1 ++ gRun b 1, gRun d 1, [], [], [], []⟩
  | .xor d a b _ => ⟨gRun a 1 ++ gRun b 1, gRun d 1, [], [], [], []⟩
  | .andn d a b _ => ⟨gRun a 1 ++ gRun b 1, gRun d 1, [], [], [], []⟩
  | .shl d a b _ => ⟨gRun a 1 ++ gRun b 1, gRun d 1, [], [], [], []⟩
  | .shr d a b _ => ⟨gRun a 1 ++ gRun b 1, gRun d 1, [], [], [], []⟩
  | .sar d a b _ => ⟨gRun a 1 ++ gRun b 1, gRun d 1, [], [], [], []⟩
  | .rotl d a b _ => ⟨gRun a 1 ++ gRun b 1, gRun d 1, [], [], [], []⟩
  | .popc d a _ => ⟨gRun a 1, gRun d 1, [], [], [], []⟩
  | .clz d a _ => ⟨gRun a 1, gRun d 1, [], [], [], []⟩
  | .brev d a _ => ⟨gRun a 1, gRun d 1, [], [], [], []⟩
  | .iaddi d a _ => ⟨gRun a 1, gRun d 1, [], [], [], []⟩
  | .shli d a _ => ⟨gRun a 1, gRun d 1, [], [], [], []⟩
  | .shri d a _ => ⟨gRun a 1, gRun d 1, [], [], [], []⟩
  | .sari d a _ => ⟨gRun a 1, gRun d 1, [], [], [], []⟩
  | .andi d a _ => ⟨gRun a 1, gRun d 1, [], [], [], []⟩
  | .ori d a _ => ⟨gRun a 1, gRun d 1, [], [], [], []⟩
  | .xori d a _ => ⟨gRun a 1, gRun d 1, [], [], [], []⟩
  | .imad d a b _ c => ⟨gRun a 1 ++ gRun b 1 ++ gRun c 1, gRun d 1, [], [], [], []⟩
  | .iadd32i d a _ _ => ⟨gRun a 1, gRun d 1, [], [], [], []⟩
  | .lea d a b _ _ => ⟨gRun a 1 ++ gRun b 1, gRun d 1, [], [], [], []⟩
  | .bfe d a _ _ _ _ => ⟨gRun a 1, gRun d 1, [], [], [], []⟩
  | .bfi d a b _ _ _ => ⟨gRun a 1 ++ gRun b 1, gRun d 1, [], [], [], []⟩
  | .iadd64 d a b _ => ⟨gRun a 2 ++ gRun b 2, gRun d 2, [], [], [], []⟩
  | .imulwI d a b _ => ⟨gRun a 1 ++ gRun b 1, gRun d 2, [], [], [], []⟩
  | .imulwN d a b _ => ⟨gRun a 1 ++ gRun b 1, gRun d 2, [], [], [], []⟩
  | .divi d a _ c => ⟨gRun a 1 ++ gRun c 1, gRun d 1, [], [], [], []⟩
  | .divn d a _ c => ⟨gRun a 1 ++ gRun c 1, gRun d 1, [], [], [], []⟩
  | .remi d a _ c => ⟨gRun a 1 ++ gRun c 1, gRun d 1, [], [], [], []⟩
  | .remn d a _ c => ⟨gRun a 1 ++ gRun c 1, gRun d 1, [], [], [], []⟩
  | .fadd d a b _ => ⟨gRun a 1 ++ gRun b 1, gRun d 1, [], [], [], []⟩
  | .fsub d a b _ => ⟨gRun a 1 ++ gRun b 1, gRun d 1, [], [], [], []⟩
  | .fmul d a b _ => ⟨gRun a 1 ++ gRun b 1, gRun d 1, [], [], [], []⟩
  | .fmin d a b _ => ⟨gRun a 1 ++ gRun b 1, gRun d 1, [], [], [], []⟩
  | .fmax d a b _ => ⟨gRun a 1 ++ gRun b 1, gRun d 1, [], [], [], []⟩
  | .hadd2Bf d a b _ => ⟨gRun a 1 ++ gRun b 1, gRun d 1, [], [], [], []⟩
  | .hmul2Bf d a b _ => ⟨gRun a 1 ++ gRun b 1, gRun d 1, [], [], [], []⟩
  | .hadd2Hf d a b _ => ⟨gRun a 1 ++ gRun b 1, gRun d 1, [], [], [], []⟩
  | .hmul2Hf d a b _ => ⟨gRun a 1 ++ gRun b 1, gRun d 1, [], [], [], []⟩
  | .hmin2Bf d a b _ => ⟨gRun a 1 ++ gRun b 1, gRun d 1, [], [], [], []⟩
  | .hmax2Bf d a b _ => ⟨gRun a 1 ++ gRun b 1, gRun d 1, [], [], [], []⟩
  | .ffma d a b _ c _ => ⟨gRun a 1 ++ gRun b 1 ++ gRun c 1, gRun d 1, [], [], [], []⟩
  | .faddm d a b _ _ => ⟨gRun a 1 ++ gRun b 1, gRun d 1, [], [], [], []⟩
  | .fmulm d a b _ _ => ⟨gRun a 1 ++ gRun b 1, gRun d 1, [], [], [], []⟩
  | .hfma2Bf d a b _ c _ => ⟨gRun a 1 ++ gRun b 1 ++ gRun c 1, gRun d 1, [], [], [], []⟩
  | .hfma2Hf d a b _ c _ => ⟨gRun a 1 ++ gRun b 1 ++ gRun c 1, gRun d 1, [], [], [], []⟩
  | .faddi d a _ _ => ⟨gRun a 1, gRun d 1, [], [], [], []⟩
  | .fmuli d a _ _ => ⟨gRun a 1, gRun d 1, [], [], [], []⟩
  | .icmpI pd _ a b => ⟨gRun a 1 ++ gRun b 1, [], [], pOne pd, [], []⟩
  | .icmpN pd _ a b => ⟨gRun a 1 ++ gRun b 1, [], [], pOne pd, [], []⟩
  | .fcmp pd _ a b => ⟨gRun a 1 ++ gRun b 1, [], [], pOne pd, [], []⟩
  | .icmpiI pd _ a _ => ⟨gRun a 1, [], [], pOne pd, [], []⟩
  | .pbool pd _ _ pa _ pb => ⟨[], [], pOne pa ++ pOne pb, pOne pd, [], []⟩
  | .p2g d _ => ⟨[], gRun d 1, List.range 15, [], [], []⟩
  | .g2p a => ⟨gRun a 1, [], [], List.range 15, [], []⟩
  | .sel d a b _ q _ => ⟨gRun a 1 ++ gRun b 1, gRun d 1, pOne q, [], [], []⟩
  | .frcp d a _ => ⟨gRun a 1, gRun d 1, [], [], [], []⟩
  | .frsq d a _ => ⟨gRun a 1, gRun d 1, [], [], [], []⟩
  | .fsqrt d a _ => ⟨gRun a 1, gRun d 1, [], [], [], []⟩
  | .fexp2 d a _ => ⟨gRun a 1, gRun d 1, [], [], [], []⟩
  | .flog2 d a _ => ⟨gRun a 1, gRun d 1, [], [], [], []⟩
  | .fsinr d a _ => ⟨gRun a 1, gRun d 1, [], [], [], []⟩
  | .fcosr d a _ => ⟨gRun a 1, gRun d 1, [], [], [], []⟩
  | .frnd d a _ _ => ⟨gRun a 1, gRun d 1, [], [], [], []⟩
  | .fclass d a _ => ⟨gRun a 1, gRun d 1, [], [], [], []⟩
  | .f2iI d a _ => ⟨gRun a 1, gRun d 1, [], [], [], []⟩
  | .f2iN d a _ => ⟨gRun a 1, gRun d 1, [], [], [], []⟩
  | .i2fI d a _ => ⟨gRun a 1, gRun d 1, [], [], [], []⟩
  | .i2fN d a _ => ⟨gRun a 1, gRun d 1, [], [], [], []⟩
  | .f2bf d a _ => ⟨gRun a 1, gRun d 1, [], [], [], []⟩
  | .bf2f d a _ => ⟨gRun a 1, gRun d 1, [], [], [], []⟩
  | .f2hf d a _ => ⟨gRun a 1, gRun d 1, [], [], [], []⟩
  | .hf2f d a _ => ⟨gRun a 1, gRun d 1, [], [], [], []⟩
  | .cvtn d a _ c pack _ => ⟨gRun a (if pack then 8 else 4) ++ gRun c 1, gRun d 1, [], [], [], []⟩
  | .unpn d a _ c pack _ => ⟨gRun a 1 ++ gRun c 1, gRun d (if pack then 8 else 4), [], [], [], []⟩
  | .f2iM d a _ _ _ => ⟨gRun a 1, gRun d 1, [], [], [], []⟩
  | .jmp _ => ⟨[], [], [], [], [], []⟩
  | .call _ => ⟨[], [], [], [], [], []⟩
  | .ret => ⟨[], [], [], [], [], []⟩
  | .exit => ⟨[], [], [], [], [], []⟩
  | .nop => ⟨[], [], [], [], [], []⟩
  | .yield => ⟨[], [], [], [], [], []⟩
  | .sleep _ => ⟨[], [], [], [], [], []⟩
  | .brk _ => ⟨[], [], [], [], [], []⟩
  | .trap _ => ⟨[], [], [], [], [], []⟩
  | .bra p _ _ _ => ⟨[], [], pOne p, [], [], []⟩
  | .brx a _ => ⟨gRun a 1, [], [], [], [], []⟩
  | .mov d a _ => ⟨gRun a 1, gRun d 1, [], [], [], []⟩
  | .movi d _ => ⟨[], gRun d 1, [], [], [], []⟩
  | .srd d _ => ⟨[], gRun d 1, [], [], [], []⟩
  | .swr a _ => ⟨gRun a 1, [], [], [], [], []⟩
  | .u2g d sa _ => ⟨[], gRun d 1, [], [], uNum sa.toNat, []⟩
  | .g2u sd a => ⟨gRun a 1, [], [], [], [], uNum sd.toNat⟩
  | .uadd sd sa sb => ⟨[], [], [], [], uNum sa.toNat ++ uNum sb.toNat, uNum sd.toNat⟩
  | .umov sd sa => ⟨[], [], [], [], uNum sa.toNat, uNum sd.toNat⟩
  | .uand sd sa sb => ⟨[], [], [], [], uNum sa.toNat ++ uNum sb.toNat, uNum sd.toNat⟩
  | .ushl sd sa sb => ⟨[], [], [], [], uNum sa.toNat ++ uNum sb.toNat, uNum sd.toNat⟩
  | .umovi sd _ => ⟨[], [], [], [], [], uNum sd.toNat⟩
  | .mov32i d _ _ => ⟨[], gRun d 1, [], [], [], []⟩
  | .umov32i sd _ => ⟨[], [], [], [], [], uNum sd.toNat⟩
  | .fenceAcq => ⟨[], [], [], [], [], []⟩
  | .fenceRel => ⟨[], [], [], [], [], []⟩
  | .fenceAr => ⟨[], [], [], [], [], []⟩
  | .ld d a _ _ _ _ wd _ => ⟨gRun a 1, gRun d (Width.regs wd), [], [], [], []⟩
  | .st d a _ _ _ _ wd _ => ⟨gRun a 1 ++ gRun d (Width.regs wd), [], [], [], [], []⟩
  | .lds d a _ _ _ _ wd _ => ⟨gRun a 1, gRun d (Width.regs wd), [], [], [], []⟩
  | .sts d a _ _ _ _ wd _ => ⟨gRun a 1 ++ gRun d (Width.regs wd), [], [], [], [], []⟩
  | .ldp d a _ wd _ => ⟨gRun a 1, gRun d (Width.regs wd), [], [], [], []⟩
  | .stp d a _ wd _ => ⟨gRun a 1 ++ gRun d (Width.regs wd), [], [], [], [], []⟩
  | .pref a _ _ _ _ _ => ⟨gRun a 1, [], [], [], [], []⟩
  | .gfetch d _ _ _ sa sb => ⟨[], gRun d 1, [], [], uNum sa.toNat ++ uNum sb.toNat, []⟩
  | .copyl d a _ _ _ _ _ _ _ _ => ⟨gRun a 1 ++ gRun d 1, [], [], [], [], []⟩
  | .cctl a _ _ _ _ => ⟨gRun a 1, [], [], [], [], []⟩
  | .aabort => ⟨[], [], [], [], [], []⟩
  | .astat d _ => ⟨[], gRun d 1, [], [], [], []⟩
  | .atom d a _ _ _ _ wide _ => ⟨gRun a 1 ++ gRun d (if wide then 2 else 1), gRun d (if wide then 2 else 1), [], [], [], []⟩
  | .acas pd d a _ _ _ wide c _ => ⟨gRun a 1 ++ gRun d (if wide then 2 else 1) ++ gRun c (if wide then 2 else 1), gRun d (if wide then 2 else 1), [], pOne pd, [], []⟩
  | .dcas pd d a _ _ _ c _ => ⟨gRun a 1 ++ gRun c 1 ++ gRun d 4, gRun d 2, [], pOne pd, [], []⟩
  | .amove d a wide _ _ _ c _ => ⟨gRun a 1 ++ gRun c 1 ++ gRun d (if wide then 2 else 1), gRun d (if wide then 2 else 1), [], [], [], []⟩
  | .abegin _ => ⟨[], [], [], [], [], []⟩
  | .aend _ _ pd => ⟨[], [], [], pOne pd, [], []⟩
  | .mzero d _ => ⟨[], gRun d 32, [], [], [], []⟩
  | .midle d _ _ => ⟨[], gRun d 1, [], [], [], []⟩
  | .mma d _ z _ _ _ sa sb => ⟨gRun d (if z then 0 else 32), gRun d 32, [], [], uNum sa.toNat ++ uNum sb.toNat ++ uNum (sb.toNat + 1), []⟩
  | .mmas d _ _ z _ _ _ sa sb => ⟨gRun d (if z then 0 else 32), gRun d 32, [], [], uNum sa.toNat ++ uNum (sa.toNat + 1) ++ uNum sb.toNat ++ uNum (sb.toNat + 1), []⟩
  | .mmag d _ z _ _ _ sa sb => ⟨gRun d (if z then 0 else 32), gRun d 32, [], [], uNum sa.toNat ++ uNum sb.toNat, []⟩
  | .mstore d _ _ _ sa => ⟨gRun d 32, [], [], [], uNum sa.toNat, []⟩
  | .mload d _ _ _ sa => ⟨[], gRun d 32, [], [], uNum sa.toNat, []⟩
  | .swz d a _ => ⟨gRun a 1, gRun d 1, [], [], [], []⟩
  | .shfl d a b _ => ⟨gRun a 1 ++ gRun b 1, gRun d 1, [], [], [], []⟩
  | .vote pd _ _ pa => ⟨[], [], pOne pa, pOne pd, [], []⟩
  | .ballot d _ pa => ⟨[], gRun d 1, pOne pa, [], [], []⟩
  | .scan d a _ _ => ⟨gRun a 1, gRun d 1, [], [], [], []⟩
  | .reduce d a _ => ⟨gRun a 1, gRun d 1, [], [], [], []⟩
  | .matchLanes d a => ⟨gRun a 1, gRun d 1, [], [], [], []⟩
  | .expand d a _ _ _ c _ => ⟨gRun a 1 ++ gRun c 1, gRun d 1, [], [], [], []⟩
  | .enext d _ _ _ pd => ⟨[], gRun d 1, [], pOne pd, [], []⟩
  | .segred d a _ _ pd _ => ⟨gRun a 1, gRun d 1, [], pOne pd, [], []⟩
  | .xsect d a _ _ c pd qa qb => ⟨gRun a 1 ++ gRun c 1, gRun d 2, pOne qa ++ pOne qb, pOne pd, [], []⟩
  | .xmerge d a _ _ c pd qa qb => ⟨gRun a 1 ++ gRun c 1, gRun d 3, pOne qa ++ pOne qb, pOne pd, [], []⟩
  | .scaleq d a q _ _ => ⟨gRun a 1, gRun d (if q then 2 else 1), [], [], [], []⟩
  | .spawn pd a _ _ _ => ⟨gRun a 1, [], [], pOne pd, [], []⟩
  | .tfetch d _ pd => ⟨[], gRun d 4, [], pOne pd, [], []⟩
  | .atrPush d a _ _ n pd _ c => ⟨gRun a (n.toNat + 1) ++ gRun c 1, gRun d 1, [], pOne pd, [], []⟩
  | .atrPop d _ _ _ pd _ _ => ⟨[], gRun d 1, [], pOne pd, [], []⟩
  | .atrRet a _ _ rn c => ⟨gRun a 1 ++ gRun c (rn.toNat + 1), [], [], [], [], []⟩
  | .cqry d a _ _ _ _ => ⟨gRun a 1, gRun d 1, [], [], [], []⟩
  | .dstep d a _ _ _ _ => ⟨gRun a 1, gRun d 1, [], [], [], []⟩
  | .fwait pd a _ _ _ => ⟨gRun a 1, [], [], pOne pd, [], []⟩
  | .ftest pd a _ _ => ⟨gRun a 1, [], [], pOne pd, [], []⟩
  | .chain d a _ _ _ _ _ => ⟨gRun a 1, gRun d 1, [], [], [], []⟩
  | .poolAlloc d _ pd _ => ⟨[], gRun d 1, [], pOne pd, [], []⟩
  | .poolFree a _ _ => ⟨gRun a 1, [], [], [], [], []⟩
  | .scopeOpen d _ _ _ pd => ⟨[], gRun d 1, [], pOne pd, [], []⟩
  | .scopeClose _ => ⟨[], [], [], [], [], []⟩
  | .cancel a _ => ⟨gRun a 1, [], [], [], [], []⟩
  | .barSync _ => ⟨[], [], [], [], [], []⟩
  | .barArv d _ => ⟨[], gRun d 1, [], [], [], []⟩
  | .barWait a _ => ⟨gRun a 1, [], [], [], [], []⟩
  | .joinGal _ => ⟨[], [], [], [], [], []⟩
  | .leaveGal _ => ⟨[], [], [], [], [], []⟩
  | .landWait d a => ⟨gRun a 1 ++ gRun d 1, [], [], [], [], []⟩
  | .bestTake d _ => ⟨[], gRun d 4, [], [], [], []⟩
  | .bestInval d a _ => ⟨gRun a 1, gRun d 1, [], [], [], []⟩
  | .specMark a => ⟨gRun a 1, [], [], [], [], []⟩
  | .specCommit a => ⟨gRun a 1, [], [], [], [], []⟩
  | .specBack => ⟨[], [], [], [], [], []⟩
  | .rng d a b _ => ⟨gRun a 1 ++ gRun b 1, gRun d 1, [], [], [], []⟩
  | .gtime d _ => ⟨[], gRun d 2, [], [], [], []⟩
  | .barInit _ _ => ⟨[], [], [], [], [], []⟩
  | .barSyncn _ _ => ⟨[], [], [], [], [], []⟩
  | .landInit d a b _ pd => ⟨gRun a 1 ++ gRun b 1, gRun d 1, [], pOne pd, [], []⟩
  | .tlwait pd _ a _ => ⟨gRun a 2, [], [], pOne pd, [], []⟩
  | .dlSet a _ => ⟨gRun a 2, [], [], [], [], []⟩
  | .bestOffer pd d a b _ => ⟨gRun a 1 ++ gRun b 1, gRun d 1, [], pOne pd, [], []⟩
  | .grow pd _ => ⟨[], [], [], pOne pd, [], []⟩
  | .shrink _ => ⟨[], [], [], [], [], []⟩
  | .csrr d _ => ⟨[], gRun d 1, [], [], [], []⟩
  | .csrw a _ => ⟨gRun a 1, [], [], [], [], []⟩
  | .halt a => ⟨gRun a 1, [], [], [], [], []⟩
  | .eret a => ⟨gRun a 1, [], [], [], [], []⟩
  | .tlbi d a b => ⟨gRun d 1 ++ gRun a 2 ++ gRun b 2, [], [], [], [], []⟩
  | .faultack a => ⟨gRun a 1, [], [], [], [], []⟩
  | _ => ⟨[], [], [], [], [], []⟩

/-- The lookahead of a long-latency instruction (R47); none for the others. -/
def Instr.lookahead : Instr → Option Nat
  | .divi _ _ la _ => some la.toNat
  | .divn _ _ la _ => some la.toNat
  | .remi _ _ la _ => some la.toNat
  | .remn _ _ la _ => some la.toNat
  | .frcp _ _ la => some la.toNat
  | .frsq _ _ la => some la.toNat
  | .fsqrt _ _ la => some la.toNat
  | .fexp2 _ _ la => some la.toNat
  | .flog2 _ _ la => some la.toNat
  | .fsinr _ _ la => some la.toNat
  | .fcosr _ _ la => some la.toNat
  | .frnd _ _ _ la => some la.toNat
  | .fclass _ _ la => some la.toNat
  | .f2iI _ _ la => some la.toNat
  | .f2iN _ _ la => some la.toNat
  | .i2fI _ _ la => some la.toNat
  | .i2fN _ _ la => some la.toNat
  | .f2bf _ _ la => some la.toNat
  | .bf2f _ _ la => some la.toNat
  | .f2hf _ _ la => some la.toNat
  | .hf2f _ _ la => some la.toNat
  | .cvtn _ _ la _ _ _ => some la.toNat
  | .unpn _ _ la _ _ _ => some la.toNat
  | .f2iM _ _ la _ _ => some la.toNat
  | .ld _ _ _ la _ _ _ _ => some la.toNat
  | .st _ _ _ la _ _ _ _ => some la.toNat
  | .lds _ _ la _ _ _ _ _ => some la.toNat
  | .sts _ _ la _ _ _ _ _ => some la.toNat
  | .ldp _ _ la _ _ => some la.toNat
  | .stp _ _ la _ _ => some la.toNat
  | .pref _ _ la _ _ _ => some la.toNat
  | .gfetch _ _ la _ _ _ => some la.toNat
  | .copyl _ _ _ la _ _ _ _ _ _ => some la.toNat
  | .cctl _ _ la _ _ => some la.toNat
  | .aabort => some 0
  | .astat _ la => some la.toNat
  | .atom _ _ _ la _ _ _ _ => some la.toNat
  | .acas _ _ _ la _ _ _ _ _ => some la.toNat
  | .dcas _ _ _ la _ _ _ _ => some la.toNat
  | .amove _ _ _ la _ _ _ _ => some la.toNat
  | .abegin .. => some 0
  | .aend .. => some 0
  | .mzero _ la => some la.toNat
  | .midle _ _ la => some la.toNat
  | .mma _ _ _ la _ _ _ _ => some la.toNat
  | .mmas _ _ _ _ la _ _ _ _ => some la.toNat
  | .mmag _ _ _ la _ _ _ _ => some la.toNat
  | .mstore _ _ la _ _ => some la.toNat
  | .mload _ _ la _ _ => some la.toNat
  | .expand _ _ _ _ la _ _ => some la.toNat
  | .enext _ _ _ la _ => some la.toNat
  | .segred _ _ _ la _ _ => some la.toNat
  | .xsect _ _ _ la _ _ _ _ => some la.toNat
  | .xmerge _ _ _ la _ _ _ _ => some la.toNat
  | .scaleq _ _ _ la _ => some la.toNat
  | .spawn _ _ la _ _ => some la.toNat
  | .tfetch _ la _ => some la.toNat
  | .atrPush _ _ la _ _ _ _ _ => some la.toNat
  | .atrPop _ la _ _ _ _ _ => some la.toNat
  | .atrRet _ la _ _ _ => some la.toNat
  | .cqry _ _ la _ _ _ => some la.toNat
  | .dstep _ _ la _ _ _ => some la.toNat
  | .fwait _ _ _ la _ => some la.toNat
  | .ftest _ _ _ la => some la.toNat
  | .chain _ _ _ la _ _ _ => some la.toNat
  | .poolAlloc _ la _ _ => some la.toNat
  | .poolFree _ la _ => some la.toNat
  | .scopeOpen _ _ _ la _ => some la.toNat
  | .scopeClose la => some la.toNat
  | .cancel _ la => some la.toNat
  | _ => none

/-- The group of wait bits that a pending instruction belongs to (R37). -/
def Instr.pendClass (i : Instr) : PendClass :=
  match i.op with
  | some op =>
    match op / 64 with
    | 6 => .mem
    | 7 => .mem
    | 8 => .mat
    | 9 => .col
    | 10 => .asy
    | _ => .other
  | none => .other

/-- Whether a kind of flight may issue an instruction: privileged instructions and CSRs by level (R53, R345, R347). -/
def Instr.allowed (k : FlightKind) : Instr → Bool
  | .csrr _ c => decide (c.toNat < 0x10) || decide (k = .firmware) || (decide (k = .handler) && decide (c.toNat < 0x20))
  | .csrw _ _ => decide (k = .firmware)
  | .halt _ => decide (k = .firmware)
  | .eret _ => decide (k = .firmware) || decide (k = .handler)
  | .tlbi _ _ _ => decide (k = .firmware) || decide (k = .handler)
  | .faultack _ => decide (k = .firmware)
  | _ => true

end Sys2Proof
end

