-- ==== Sys2Proof/Machine/Diverge.lean ====
section
/-! DEFINITION. The two slots of a flight and its divergence stack: splits, arrivals at a join, pops, calls and returns, and
the exit of lanes (R91 to R99), and the placing of aborted lanes (R250). -/

namespace Sys2Proof.Machine

/-- Slot A or slot B. -/
def Flight.slot (f : Flight) (b : Bool) : Slot := if b then f.b else f.a

/-- Changes slot A or slot B. -/
def Flight.setSlot (f : Flight) (b : Bool) (x : Slot) : Flight := if b then { f with b := x } else { f with a := x }

/-- A slot is live while it has a lane (R94). -/
def Slot.live (x : Slot) : Bool := decide (x.mask ≠ 0)

/-- The pending instructions of a slot that have not completed (R49). -/
def Flight.undone (f : Flight) (b : Bool) : List Pending := f.pending.filter (fun p => decide (p.slotB = b) && !p.done)

/-- Drops the open windows of a slot: its completed instructions are forgotten (R50). -/
def Flight.closeWindows (f : Flight) (b : Bool) : Flight :=
  { f with pending := f.pending.filter (fun p => decide (p.slotB ≠ b) || !p.done) }

/-- Ends the windows of a slot that is freed while it has pending instructions: its completed ones are forgotten, and lanes that come to
stand in the slot wait for the others, as lanes beyond a window do (R48, R50). -/
def Flight.endWindows (f : Flight) (b : Bool) : Flight :=
  { f with pending := (f.closeWindows b).pending.map (fun p => if p.slotB = b then { p with window := 0 } else p) }

/-- The top of the stack. -/
def Flight.top (f : Flight) : Option StackEnt := f.stack.getLast?

/-- The stack without its top. -/
def Flight.pop (f : Flight) : Flight := { f with stack := f.stack.dropLast }

/-- Pushes an entry. -/
def Flight.push (f : Flight) (e : StackEnt) : Flight := { f with stack := f.stack ++ [e] }

/-- A slot whose pc is the pc of the JOIN that its reference names has arrived (R96). -/
def Flight.testArrival (f : Flight) (b : Bool) : Flight :=
  let x := f.slot b
  match x.ref.bind (fun e => f.stack[e]?) with
  | some t => if x.live && decide (t.kind = .join) && decide (t.pc = x.pc) then
      f.setSlot b { x with join := .arriving, clause := none } else f
  | none => f

/-- What a slot goes on waiting for when it takes other lanes or another PC: a YIELD holds the slot back (R89). -/
def Wait.carried : Wait → Wait
  | .yielded c => .yielded c
  | _ => .none

/-- A slot takes a record (pc, mask, reference) (R94). -/
def Flight.take (f : Flight) (b : Bool) (pc : Word) (mask : Mask) (ref : Option Nat) : Flight :=
  let x := f.slot b
  (f.setSlot b { Slot.free with pc := pc, mask := mask, ref := ref, wait := x.wait.carried, hint := x.hint, aged := x.aged,
                                old := x.old }).testArrival b

/-- The slot that is free; slot A when both are. -/
def Flight.freeSlot (f : Flight) : Option Bool := if !f.a.live then some false else if !f.b.live then some true else none

/-- One action of R97 on the top of the stack for a free slot, whose old windows close (R50). -/
def Flight.freeStep (f : Flight) : Option Flight :=
  match f.freeSlot, f.top with
  | some b, some t =>
    if t.mask = 0 then some f.pop
    else
      match t.kind with
      | .path => some ((f.pop.closeWindows b).take b t.pc t.mask t.ref)
      | .wait => some ((f.pop.closeWindows b).setSlot b { Slot.free with mask := t.mask, ref := t.ref, join := .arriving })
      | _ => none
  | _, _ => none

/-- One pass of the steps of R96 for an arrived slot. -/
def Flight.arriveStep (f : Flight) (b : Bool) : Flight :=
  let x := f.slot b
  let y := f.slot (!b)
  if y.live && decide (y.join = .waiting) && decide (y.ref = x.ref) then
    ((f.setSlot b { x with mask := x.mask ||| y.mask, join := .arriving }).setSlot (!b) Slot.free).closeWindows (!b)
  else
    match f.top, x.ref with
    | some t, some e =>
      if t.kind = .wait ∧ t.ref = some e then
        (f.pop.setSlot b { x with mask := x.mask ||| t.mask, join := .arriving }).closeWindows b
      else if f.stack.length = e + 1 ∧ t.mask = x.mask then (f.pop.closeWindows b).take b t.pc x.mask t.ref
      else if t.kind = .path ∧ t.ref = some e then
        ((f.pop.push { kind := .wait, pc := 0, mask := x.mask, ref := some e }).closeWindows b).take b t.pc t.mask (some e)
      else f.setSlot b { x with join := .waiting }
    | _, _ => f.setSlot b { x with join := .waiting }

/-- Whether the steps of R96 would change anything for a waiting slot. -/
def Flight.mayJoin (f : Flight) (b : Bool) : Bool :=
  let x := f.slot b
  x.live && decide (x.join = .waiting) &&
    (match f.top, x.ref with
     | some t, some e =>
       (decide (t.kind = .wait) && decide (t.ref = some e)) || (decide (f.stack.length = e + 1) && decide (t.mask = x.mask)) ||
         (decide (t.kind = .path) && decide (t.ref = some e))
     | _, _ => false)

/-- One step of R97 or R96, if one applies. Where both slots have arrived at once, slot A takes its steps first (log entry 58). -/
def Flight.settleStep (f : Flight) : Option Flight :=
  match f.freeStep with
  | some f' => some f'
  | none =>
    if f.a.live && decide (f.a.join = .arriving) then some (f.arriveStep false)
    else if f.b.live && decide (f.b.join = .arriving) then some (f.arriveStep true)
    else if f.mayJoin false then some (f.arriveStep false)
    else if f.mayJoin true then some (f.arriveStep true)
    else none

/-- The steps of R96 and R97 until none applies. -/
def Flight.settleLoop : Nat → Flight → Flight
  | 0, f => f
  | n + 1, f =>
    match f.settleStep with
    | some f' => Flight.settleLoop n f'
    | none => f

/-- R96 and R97, once neither slot has a pending instruction (R50). -/
def Flight.settle (f : Flight) : Flight :=
  if f.pending.any (fun p => !p.done) then f else Flight.settleLoop 400 f

/-- Splits a slot into sides with join J (R95); none when the stack cannot take it. -/
def Flight.split (f : Flight) (b : Bool) (sides : List (Word × Mask)) (join : Word) : Option Flight :=
  match sides with
  | s0 :: s1 :: rest =>
    let x := f.slot b
    let free := !(f.slot (!b)).live
    let pushed := if free then rest else s1 :: rest
    if 64 < f.stack.length + 1 + pushed.length then none
    else
      let j := f.stack.length
      let f1 := (f.push { kind := .join, pc := join, mask := x.mask, ref := x.ref }).take b s0.1 s0.2 (some j)
      let f2 := if free then f1.take (!b) s1.1 s1.2 (some j) else f1
      some (pushed.foldl (fun f sd => f.push { kind := .path, pc := sd.1, mask := sd.2, ref := some j }) f2)
  | _ => some f

/-- Clears lanes from the JOIN and FRAME entries of a stack. -/
def clearStack (st : List StackEnt) (lanes : Mask) : List StackEnt :=
  st.map (fun t => if t.kind = .join ∨ t.kind = .frame then { t with mask := t.mask &&& ~~~lanes } else t)

/-- Lanes of a slot end their threads (R91). -/
def Flight.exitLanes (f : Flight) (b : Bool) (lanes : Mask) : Flight :=
  let x := f.slot b
  let m := x.mask &&& ~~~lanes
  let f' := { f with stack := clearStack f.stack lanes,
                     regions := f.regions.filter (fun r => !lanes.getLsbD r.1) }
  f'.setSlot b (if m = 0 then { Slot.free with aged := x.aged, old := x.old, hint := x.hint } else { x with mask := m })

/-- Both slots are free and no lane is on the stack (R91). -/
def Flight.finished (f : Flight) : Bool :=
  !f.a.live && !f.b.live && f.stack.all (fun t => decide (t.kind ≠ .path) && decide (t.kind ≠ .wait))

/-- CALL: pushes a frame and moves to the target; none when the stack is full (R98). -/
def Flight.call (f : Flight) (b : Bool) (ret target : Word) : Option Flight :=
  if 64 ≤ f.stack.length then none
  else
    let x := f.slot b
    let j := f.stack.length
    some ((f.push { kind := .frame, pc := ret, mask := x.mask, ref := x.ref }).take b target x.mask (some j))

/-- The first FRAME reached by following references, and the JOINs passed on the way (R99). -/
def findFrame (st : List StackEnt) : Nat → Option Nat → List Nat → Option (Nat × List Nat)
  | 0, _, _ => none
  | _ + 1, none, _ => none
  | n + 1, some e, passed =>
    match st[e]? with
    | none => none
    | some t => if t.kind = .frame then some (e, passed) else findFrame st n t.ref (e :: passed)

/-- RET (R99): none when no frame is reached, and RET then acts as EXIT. -/
def Flight.ret (f : Flight) (b : Bool) : Option Flight :=
  let x := f.slot b
  match findFrame f.stack 65 x.ref [] with
  | none => none
  | some (e, passed) =>
    let st := (List.range f.stack.length).zip f.stack |>.map (fun p =>
      if p.1 ∈ passed then { p.2 with mask := p.2.mask &&& ~~~x.mask } else p.2)
    some ({ f with stack := st }.setSlot b { x with ref := some e, join := .arriving, clause := none })

/-- A PC after the instruction at pc, moved by a signed offset in words (R44). -/
def target (pc : Word) (words : Nat) (off : BitVec 32) : Word := pc + BitVec.ofNat 32 (4 * words) + (off <<< 2)

/-- Whether a wait ends by an event of its own, so that the instruction before the PC is not over until then. -/
def Wait.blocks : Wait → Bool
  | .barrier _ _ => true
  | .grow _ _ _ => true
  | .ending _ _ => true
  | .sleep _ => true
  | _ => false

/-- Moves a slot past an instruction: the clause closes after its last word, and the slot may arrive at its join unless it
waits in the instruction (R36, R96). -/
def Flight.advance (f : Flight) (b : Bool) (words : Nat) : Flight :=
  let x := f.slot b
  if x.live = false then f
  else
    let pc := x.pc + BitVec.ofNat 32 (4 * words)
    let cl := x.clause.bind (fun c => if pc = c.base + BitVec.ofNat 32 (4 * (hdrCount c.hdr + 1)) then none else some c)
    let f' := f.setSlot b { x with pc := pc, clause := cl, replay := none }
    if x.wait.blocks then f' else f'.testArrival b

/-- Ends what a slot waits for: it goes on, or arrives at its join (R96). -/
def Flight.wake (f : Flight) (b : Bool) : Flight :=
  ((f.setSlot b { f.slot b with wait := .none }).testArrival b).settle

/-- Moves a slot as a whole to a clause header (R42). -/
def Flight.goto (f : Flight) (b : Bool) (pc : Word) : Flight :=
  let x := f.slot b
  (f.setSlot b { x with pc := pc, clause := none, replay := none }).testArrival b

/-- The PC after the clause in which a slot stands: the next clause (R36). -/
def Slot.nextClause (x : Slot) : Word :=
  match x.clause with
  | some c => c.base + BitVec.ofNat 32 (4 * (hdrCount c.hdr + 1))
  | none => x.pc

/-- Inserts a number into a rising list, once. -/
def insNat (n : Nat) : List Nat → List Nat
  | [] => [n]
  | m :: ms => if n < m then n :: m :: ms else if n = m then m :: ms else m :: insNat n ms

/-- The numbers of a list, rising, each once. -/
def sortNat (ns : List Nat) : List Nat := ns.foldl (fun acc n => insNat n acc) []

/-- Groups lanes by a word that each carries, the words ascending. -/
def groupLanes (ls : List (Nat × Word)) : List (Word × Mask) :=
  let keys := sortNat (ls.map (fun p => p.2.toNat))
  keys.map (fun k => (BitVec.ofNat 32 k, maskOf ((ls.filter (fun p => decide (p.2.toNat = k))).map (·.1))))

/-- Places aborted lanes at their handler PCs (R250): each group keeps the slot's reference. None when the stack cannot take
them. The lanes that stay keep the slot as it is. -/
def Flight.placeAborted (f : Flight) (b : Bool) (groups : List (Word × Mask)) : Option Flight :=
  let x := f.slot b
  let all := groups.foldl (fun m g => m ||| g.2) 0
  let stay := x.mask &&& ~~~all
  let first := if stay = 0 then groups.head? else none
  let rest := if stay = 0 then groups.tail else groups
  let free := !(f.slot (!b)).live
  let other := if free then rest.head? else none
  let pushed := if free then rest.tail else rest
  if 64 < f.stack.length + pushed.length then none
  else
    let f1 := pushed.foldl (fun f g => f.push { kind := .path, pc := g.1, mask := g.2, ref := x.ref }) f
    let f2 := match first with
      | some g => f1.take b g.1 g.2 x.ref
      | none => f1.setSlot b { x with mask := stay }
    some (match other with
      | some g => f2.take (!b) g.1 g.2 x.ref
      | none => f2)

end Sys2Proof.Machine
end

