-- ==== Sys2Proof/Machine/Mem.lean ====
section
/-! DEFINITION. Memory: physical bytes and words, page walks and translation caches (R262 to R272), placement and homes (R10,
R265 to R268), handles (R258, R259) and the checks of R177, the L1 with its valid and dirty bits (R180, R181), ownership and
the directory (R219 to R223), soft errors (R206), and scratchpad windows (R192 to R195). -/

namespace Sys2Proof.Machine

/-- Runs a function over a list, threading the state. -/
def thread {α β : Type} (f : α → State → β × State) : List α → State → List β × State
  | [], s => ([], s)
  | x :: xs, s =>
    let r := f x s
    let rs := thread f xs r.2
    (r.1 :: rs.1, rs.2)

/-- Little-endian value of n bytes of a cell array (R2). -/
def leValue (c : Cells 8) (a : Nat) : Nat → Nat
  | 0 => 0
  | n + 1 => (Cells.get c a).toNat + 256 * leValue c (a + 1) n

/-- A 32-bit word of a cell array. -/
def wordAt (c : Cells 8) (a : Nat) : Word := BitVec.ofNat 32 (leValue c a 4)

/-- Words in a row of a cell array. -/
def wordsAt (c : Cells 8) (a : Nat) : Nat → List Word
  | 0 => []
  | n + 1 => wordAt c a :: wordsAt c (a + 4) n

/-- Writes the n low bytes of a value, lowest first. -/
def putValue (c : Cells 8) (a n v : Nat) : Cells 8 := Cells.setList c a (bytesOf n v)

/-- Writes words in a row. -/
def putWords (c : Cells 8) (a : Nat) : List Word → Cells 8
  | [] => c
  | w :: ws => putWords (putValue c a 4 w.toNat) (a + 4) ws

/-- Adds one to a count of a table. -/
def countUp (t : Tbl Nat) (k : Nat) : Tbl Nat := Tbl.put t k ((Tbl.find t k).getD 0 + 1)

/-! Placement (R265 to R267). -/

/-- The slices that a placement word selects, ascending (R266). -/
def placeMembers (p : Word) : List Nat := (List.range 32).filter (fun m => p.getLsbD (18 + m / 4) && p.getLsbD (14 + m % 4))

/-- Whether a placement word is valid (R267). -/
def placeValid (p : Word) : Bool :=
  let pkg := (fld p 18 8).toNat
  let chan := (fld p 14 4).toNat
  zf p 8 2 &&
    (if bit p 31 then decide (pkg = 0) && decide (chan = 0) && zf p 12 2 && zf p 0 8
     else decide (pkg ≠ 0) && decide (chan ≠ 0) && zf p 26 5)

/-- Whether a placement word selects a reserve vault or a reserved channel while the reserve stands (R28, R264). -/
def placeReserved (r : Reflex) (p : Word) : Bool :=
  decide (r.halls ≠ 0) &&
    (if bit p 31 then r.halls.getLsbD (fld p 26 5).toNat else (placeMembers p).any (fun m => r.channels.getLsbD m))

/-- The home of a byte at an offset of a page: slice 0 to 31, or 32 plus the vault (R10, R266, R267). -/
def homeOf (p : Word) (off : Nat) : Nat :=
  if bit p 31 then 32 + (fld p 26 5).toNat
  else
    let ms := placeMembers p
    let gr := (fld p 12 2).toNat
    let step := if gr = 0 then off / 256 else if gr = 1 then off / 1024 else if gr = 2 then off / 4096 else 0
    ms.getD ((step + (fld p 0 8).toNat) % ms.length) 0

/-! Page walks (R262 to R264). -/

/-- What a walk gives: a leaf, or PAGE with the malformed flag. -/
inductive WalkRes where
  | page (mal : Bool)
  | leaf (e : TlbEntry)
deriving DecidableEq, Repr

/-- The address a page table entry carries. -/
def ptePa (w0 w1 : Word) : Nat := w0.toNat / 4096 * 4096 + w1.toNat % 65536 * 2 ^ 32

/-- Whether the sixteen entries of a 64 KiB group carry the words 0 to 2 of the first given (R262). -/
def groupSame (m : Cells 8) (a : Nat) : Bool :=
  let base := a / 256 * 256
  (List.range 16).all (fun i => decide (wordsAt m (base + 16 * i) 3 = wordsAt m base 3))

/-- A leaf entry at address a found at a level (R263, R264). The hotness of a page of sixteen entries is that of the entry at a (R270, log
entry 77). -/
def leafOf (s : State) (ctx va level a : Nat) : WalkRes :=
  let w0 := wordAt s.mem a
  let w1 := wordAt s.mem (a + 4)
  let pl := wordAt s.mem (a + 8)
  let w3 := wordAt s.mem (a + 12)
  let s64 := bit w0 6
  let size := if level = 2 then 2097152 else if s64 then 65536 else 4096
  let pa := ptePa w0 w1
  if zf w0 7 5 && zf w1 16 16 && zf w3 8 24 && decide (2 ≤ level) && (!s64 || decide (level = 3)) &&
      decide (pa % size = 0) && placeValid pl && (!s64 || groupSame s.mem a) &&
      (s.reflex.contexts.getLsbD ctx || !placeReserved s.reflex pl) then
    .leaf { slice := 0, ctx := ctx, base := va / size * size, size := size, pa := pa, leaf := a, r := bit w0 2,
            w := bit w0 3, x := bit w0 5, a := bit w0 4, place := pl, hot := (fld w3 0 8).toNat }
  else .page true

/-- Walks from a table page at a level; fuel counts the levels left. -/
def walkFrom (s : State) (ctx va : Nat) : Nat → Nat → Nat → WalkRes
  | 0, _, _ => .page true
  | fuel + 1, level, table =>
    let a := table + 16 * (va / 2 ^ (39 - 9 * level) % 512)
    let w0 := wordAt s.mem a
    let w1 := wordAt s.mem (a + 4)
    if bit w0 0 = false then .page false
    else if bit w0 1 then leafOf s ctx va level a
    else if zf w0 2 11 && zf w1 16 16 && decide (wordAt s.mem (a + 8) = 0) && decide (wordAt s.mem (a + 12) = 0) then
      walkFrom s ctx va fuel (level + 1) (ptePa w0 w1)
    else .page true

/-- The leaves that a walk of a context can reach from a table page at a level, whose entries translate the addresses from one on; fuel
counts the levels left (R262 to R264). -/
def leavesFrom (s : State) (ctx : Nat) : Nat → Nat → Nat → Nat → List TlbEntry
  | 0, _, _, _ => []
  | fuel + 1, level, table, va =>
    let written := (s.mem.filter (fun c => decide (table ≤ c.1) && decide (c.1 < table + 8192))).map (fun c => (c.1 - table) / 16)
    written.eraseDups.flatMap (fun i =>
      let a := table + 16 * i
      let x := va + i * 2 ^ (39 - 9 * level)
      let w0 := wordAt s.mem a
      let w1 := wordAt s.mem (a + 4)
      if bit w0 0 = false then []
      else if bit w0 1 then
        match leafOf s ctx x level a with
        | .leaf e => [e]
        | .page _ => []
      else leavesFrom s ctx fuel (level + 1) (ptePa w0 w1) x)

/-- The leaves that the tables of valid contexts lead to (R262). -/
def State.leaves (s : State) : List TlbEntry :=
  (s.ctxs.filter (fun e => e.2.valid)).flatMap (fun e => leavesFrom s e.1 4 0 e.2.root 0)

/-- Whether the page of a leaf holds a physical address. -/
def TlbEntry.holds (e : TlbEntry) (pa : Nat) : Bool := decide (e.pa ≤ pa) && decide (pa < e.pa + e.size)

/-- The engine context with a number; one that nothing made valid when it is not listed (R255). -/
def State.ctx (s : State) (n : Nat) : EngineCtx := (Tbl.find s.ctxs n).getD EngineCtx.reset

/-- The slice that caches a translation (R269). -/
def sliceOf (ctx va : Nat) : Nat := ((va / 2 ^ 21 % 32) ^^^ (va / 2 ^ 26 % 32)) ^^^ (ctx % 32)

/-- Writes the hotness of dropped entries to their shadow bytes (R270). -/
def shadowBack (m : Cells 8) (es : List TlbEntry) : Cells 8 :=
  es.foldl (fun m e => Cells.set m (e.leaf + 12) (BitVec.ofNat 8 e.hot)) m

/-- Drops the cached translations that pass a test. -/
def State.dropTlb (s : State) (p : TlbEntry → Bool) : State :=
  { s with mem := shadowBack s.mem (s.tlb.filter p), tlb := s.tlb.filter (fun e => !p e) }

/-- Whether a cached translation covers an address of a context. -/
def TlbEntry.covers (e : TlbEntry) (ctx va : Nat) : Bool :=
  decide (e.ctx = ctx) && decide (e.base ≤ va) && decide (va < e.base + e.size)

/-- Counts a request at the slice that serves it (R269). -/
def State.requested (s : State) (sl : Nat) : State :=
  { s with telemetry := { s.telemetry with requests := countUp s.telemetry.requests sl } }

/-- Translates an address for a request that goes to a slice: from the slice's cache, or by a walk that fills it; a full slice
drops its oldest entry (R269, R270). -/
def State.translate (s0 : State) (ctx va : Nat) : Except Bool TlbEntry × State :=
  let s := s0.requested (sliceOf ctx va)
  match s.tlb.find? (fun e => e.covers ctx va) with
  | some e =>
    let e' := { e with hot := min 255 (e.hot + 1) }
    (.ok e', { s with tlb := s.tlb.map (fun x => if x.covers ctx va then e' else x) })
  | none =>
    match walkFrom s ctx va 4 0 (s.ctx ctx).root with
    | .page mal => (.error mal, s)
    | .leaf e =>
      let sl := sliceOf ctx va
      let e' := { e with slice := sl, hot := min 255 (e.hot + 1) }
      let s' := if 4096 ≤ (s.tlb.filter (fun x => decide (x.slice = sl))).length then
          match s.tlb.find? (fun x => decide (x.slice = sl)) with
          | some o => s.dropTlb (fun x => decide (x = o))
          | none => s
        else s
      (.ok e', { s' with tlb := s'.tlb ++ [e'] })

/-- The leaf that an address has now, cached or by a walk, with no trace of the look: none when it has none. -/
def State.peek (s : State) (ctx va : Nat) : Option TlbEntry :=
  match s.tlb.find? (fun e => e.covers ctx va) with
  | some e => some e
  | none =>
    match walkFrom s ctx va 4 0 (s.ctx ctx).root with
    | .page _ => none
    | .leaf e => some e

/-- The next count of the counter that free values are drawn at. -/
def State.draw (s : State) : Nat × State := (s.freeCtr, { s with freeCtr := s.freeCtr + 1 })

/-- The next entry of the choices tape; false when it is empty (log entry 6). -/
def State.choose (s : State) : Bool × State :=
  match s.choices with
  | [] => (false, s)
  | c :: cs => (c, { s with choices := cs })

/-- Notes the placement under which a 4 KiB span holds data, and which span of its page, of some bytes, it is. When the placement
was changed without a restripe, the bytes are free values from then on (R268). -/
def State.place (s0 : State) (pa : Nat) (pl : Word) (size : Nat) : State :=
  let span := pa / 4096
  let s := { s0 with spanInPage := Cells.set s0.spanInPage span (BitVec.ofNat 32 (pa % size / 4096)) }
  let old := Cells.get s.placed span
  if old = pl then s
  else if old = 0 then { s with placed := Cells.set s.placed span pl }
  else
    let d := s.draw
    { d.2 with
      placed := Cells.set s.placed span pl
      mem := (List.range 4096).foldl (fun m i => Cells.set m (4096 * span + i) (Config.staleByte d.1 (4096 * span + i))) s.mem }

/-- Marks the state when an access goes to an address that no memory has (log entry 2). -/
def State.inside (s : State) (pa n : Nat) : State :=
  if pa + n ≤ Config.deviceBytes then s else { s with hole := true }

/-! The L1 (R180, R219 to R223). -/

/-- Byte i of a block. -/
def L1Block.byte (b : L1Block) (i : Nat) : Byte := b.data.extractLsb' (8 * i) 8

/-- Changes byte i of a block's data. -/
def L1Block.setByte (b : L1Block) (i : Nat) (v : Byte) : L1Block :=
  { b with data := (b.data &&& ~~~((0xFF : BitVec 1024) <<< (8 * i))) ||| ((v.setWidth 1024) <<< (8 * i)) }

/-- The dirty bits of the words of a word mask. -/
def byteMask (ws : BitVec 32) : BitVec 128 :=
  (List.range 128).foldl (fun m i => if ws.getLsbD (i / 4) then m ||| BitVec.twoPow 128 i else m) 0

/-- The words of a block with a dirty byte. -/
def L1Block.dirtyWords (b : L1Block) : BitVec 32 :=
  (List.range 32).foldl (fun m w => if (b.dirty.extractLsb' (4 * w) 4) ≠ 0 then m ||| BitVec.twoPow 32 w else m) 0

/-- The dirty bytes of the words ws of a block, written to memory. -/
def L1Block.wbMem (b : L1Block) (ws : BitVec 32) (m : Cells 8) : Cells 8 :=
  (List.range 128).foldl
    (fun m i => if ws.getLsbD (i / 4) && b.dirty.getLsbD i then Cells.set m (b.page + i) (b.byte i) else m) m

/-- The block after the words ws were written back: clean and unowned. -/
def L1Block.clean (b : L1Block) (ws : BitVec 32) : L1Block :=
  { b with dirty := b.dirty &&& ~~~(byteMask ws), owned := b.owned &&& ~~~ws }

/-- Whether an error stands in stored data as a home holds it: in a channel, a vault or an L2 slice (R206). -/
def StoredError.isHome (e : StoredError) : Bool :=
  match e.place with
  | .channel | .vault | .l2 => true
  | _ => false

/-- Whether an error stands in a core's L1. -/
def StoredError.inL1 (e : StoredError) (core : Nat) : Bool := decide (e.place = .l1) && decide (e.unit = core)

/-- Whether an error stands in one of n bytes at an address. -/
def StoredError.within (e : StoredError) (pa n : Nat) : Bool := decide (pa ≤ e.addr) && decide (e.addr < pa + n)

/-- The errors after the dirty bytes of the words ws of a block went home: the home's bytes are overwritten, single-bit errors of the block
are corrected as it is read, and an uncorrectable one goes home with its byte (R206, log entry 83). -/
def L1Block.wbErrors (b : L1Block) (ws : BitVec 32) (es : List StoredError) : List StoredError :=
  let sent (e : StoredError) : Bool := e.within b.page 128 && ws.getLsbD (e.addr % 128 / 4) && b.dirty.getLsbD (e.addr % 128)
  es.filter (fun e => !(sent e && (e.isHome || (e.inL1 b.core && !e.fatal)))) ++
    (es.filter (fun e => sent e && e.inL1 b.core && e.fatal)).map (fun e => { e with place := .l2, unit := 0 })

/-- How many single-bit errors the write-back of the words ws of a block corrects. -/
def L1Block.wbCorrected (b : L1Block) (ws : BitVec 32) (es : List StoredError) : Nat :=
  (es.filter (fun e => e.within b.page 128 && ws.getLsbD (e.addr % 128 / 4) && b.dirty.getLsbD (e.addr % 128) && e.inL1 b.core &&
    !e.fatal)).length

/-- The soft errors follow the words that a write-back sends, block by block (R206). -/
def State.sendErrors (s : State) (ws : L1Block → BitVec 32) : State :=
  if s.errors.isEmpty then s
  else s.l1.foldl (fun t b => { t with
    errors := b.wbErrors (ws b) t.errors
    telemetry := { t.telemetry with corrected := t.telemetry.corrected + b.wbCorrected (ws b) t.errors } }) s

/-- Writes back the words that a choice names, block by block. -/
def State.writeBack (s : State) (ws : L1Block → BitVec 32) : State :=
  { s.sendErrors ws with
    mem := s.l1.foldl (fun m b => b.wbMem (ws b) m) s.mem
    l1 := s.l1.map (fun b => b.clean (ws b)) }

/-- The mask of the words of a block from lo to hi. -/
def wordSpan (lo hi : Nat) : BitVec 32 :=
  (List.range 32).foldl (fun m w => if lo ≤ w ∧ w ≤ hi then m ||| BitVec.twoPow 32 w else m) 0

/-- Recalls words of the block at a physical address from every core that owns them (R222). -/
def State.recallWords (s : State) (page : Nat) (ws : BitVec 32) : State :=
  s.writeBack (fun b => if b.page = page then b.owned &&& ws else 0)

/-- The words of a block that hold n bytes at an address. -/
def bytesSpan (a n : Nat) : BitVec 32 := wordSpan (a % 128 / 4) ((a % 128 + n - 1) / 4)

/-- Recalls the words that hold n bytes at a physical address from every core that owns them (R222). -/
def State.recall (s : State) (pa n : Nat) : State :=
  s.recallWords (pa / 128 * 128) (wordSpan (pa % 128 / 4) ((pa % 128 + n - 1) / 4))

/-- Reads n bytes at their home as a value, owned words recalled first (R222). -/
def State.homeRead (s : State) (pa n : Nat) : Nat × State :=
  let s' := (s.recall pa n).inside pa n
  (leValue s'.mem pa n, s')

/-- Takes a core's own copies of the words to their home: dirty bytes are written back (R219). -/
def State.surrender (s : State) (core pa n : Nat) : State :=
  s.writeBack (fun b =>
    if b.core = core ∧ b.page = pa / 128 * 128 then wordSpan (pa % 128 / 4) ((pa % 128 + n - 1) / 4) else 0)

/-- Reads n bytes at their home for an instruction of a core: its own dirty bytes of the words go home before, so that the read
follows the core's earlier stores to them (R185, R212). -/
def State.coreRead (s : State) (core pa n : Nat) : Nat × State := (s.surrender core pa n).homeRead pa n

/-- Puts the bytes of a value into the valid copies that a core's L1 holds of them (R248). -/
def State.refresh (s : State) (core pa n v : Nat) : State :=
  { s with l1 := s.l1.map (fun b =>
      if b.core = core ∧ b.page = pa / 128 * 128 then
        (List.range n).foldl
          (fun b i => if b.valid.getLsbD ((pa % 128 + i) / 4) then b.setByte (pa % 128 + i) (BitVec.ofNat 8 (v / 256 ^ i)) else b) b
      else b) }

/-- Overwriting bytes takes away the errors stored in them: in a core's own L1, and at the home where they are written there (R206). -/
def State.scrubbed (s : State) (core pa n : Nat) (home : Bool) : State :=
  if s.errors.isEmpty then s
  else { s with errors := s.errors.filter (fun e => !(e.within pa n && (e.inL1 core || (home && e.isHome)))) }

/-- Writes n bytes at their home. Owned words are recalled first; the writing core's valid copies take the new value, and the errors
stored in the bytes go (R206, R219, R222, R248). A core of 128 or more stands for an engine or the host, which has no L1. -/
def State.homeWrite (s : State) (core pa n v : Nat) : State :=
  let s1 := (((s.recall pa n).surrender core pa n).inside pa n).scrubbed core pa n true
  ({ s1 with mem := putValue s1.mem pa n v }).refresh core pa n v

/-- The block of a core that holds an address of a context. -/
def L1Block.isAt (b : L1Block) (core ctx va : Nat) : Bool :=
  decide (b.core = core) && decide (b.asid = ctx) && decide (b.block = va / 128)

/-- Lists a block in the L1 in place of any with its tag. -/
def State.putBlock (s : State) (b : L1Block) : State :=
  { s with l1 := s.l1.filter (fun x => !x.isAt b.core b.asid (128 * b.block)) ++ [b] }

/-- Removes one block: its dirty words are written back first (R180). -/
def State.evict (s : State) (b : L1Block) : State :=
  let s' := s.writeBack (fun x => if x = b then BitVec.allOnes 32 else 0)
  { s' with l1 := s'.l1.filter (fun x => !x.isAt b.core b.asid (128 * b.block)) }

/-- Blocks of a core's L1 that hold private words of its flights (R180, R189). -/
def State.privBlocks (s : State) (core : Nat) : Nat :=
  s.flights.foldl (fun n e => if e.1 / 64 = core then n + e.2.pblocks.length else n) 0

/-- Evicts the oldest private block of a flight: its dirty words go to the flight's private memory (R189). -/
def Flight.evictPriv (f : Flight) : Flight :=
  match f.pblocks with
  | [] => f
  | b :: bs =>
    { f with privs := b.flush f.privs, pblocks := bs,
             privErrs := f.privErrs.filter (fun e => !(decide (e.1 / 32 = b.index) && b.dirty.getLsbD (e.1 % 32))) }

/-- Writes every private block of a flight to its private memory, as a context save does (R189). -/
def Flight.savePriv (f : Flight) : Flight := (List.range f.pblocks.length).foldl (fun f _ => f.evictPriv) f

/-- Makes room for one block in a core's L1: a full one evicts its oldest global block, or a private one when it holds no other
(R181, log entry 19). -/
def State.roomL1 (s : State) (core : Nat) : State :=
  if (s.l1.filter (fun b => decide (b.core = core))).length + s.privBlocks core < 1024 then s
  else match s.l1.find? (fun b => decide (b.core = core)) with
    | some o => s.evict o
    | none =>
      match s.flights.find? (fun e => decide (e.1 / 64 = core) && !e.2.pblocks.isEmpty) with
      | some e => { s with flights := Tbl.modify s.flights e.1 Flight.evictPriv }
      | none => s

/-- The block of a core for an address that translates to a physical one: the one listed, or a new empty one, for which room is made. A
block that was filled under another translation is written back and leaves before (R272). -/
def State.block (s : State) (core ctx va pa : Nat) : L1Block × State :=
  let new : L1Block :=
    { core := core, asid := ctx, block := va / 128, page := pa / 128 * 128, valid := 0, dirty := 0, owned := 0, data := 0 }
  match s.l1.find? (fun b => b.isAt core ctx va) with
  | some b => if b.page = pa / 128 * 128 then (b, s) else (new, s.evict b)
  | none => (new, s.roomL1 core)

/-- The words of a span of a block at a physical address that a core's L1 does not hold valid. -/
def State.missing (s : State) (core ctx va page lo hi : Nat) : BitVec 32 :=
  match s.l1.find? (fun b => b.isAt core ctx va) with
  | some b => if b.page = page then wordSpan lo hi &&& ~~~b.valid else wordSpan lo hi
  | none => wordSpan lo hi

/-- Whether a core owns the word of a byte that is dirty in its L1, so that a read at the home takes the byte from there (R222). -/
def State.owned (s : State) (unit pa : Nat) : Bool :=
  s.l1.any (fun b => decide (b.core = unit) && decide (b.page = pa / 128 * 128) && b.owned.getLsbD (pa % 128 / 4) &&
    b.dirty.getLsbD (pa % 128))

/-- Whether a core's own L1 serves the byte at an address to an access of the core: a dirty byte always, a valid word to a weak cached load
(R180, R181). -/
def State.l1Serving (s : State) (core : Nat) (weak : Bool) (pa : Nat) : Bool :=
  s.l1.any (fun b => decide (b.core = core) && decide (b.page = pa / 128 * 128) &&
    (b.dirty.getLsbD (pa % 128) || (weak && b.valid.getLsbD (pa % 128 / 4))))

/-- Whether an error stands in its byte as an access of a core reads it: from the core's own L1, from the core that owns the word, or from
the home (R180, R206, R222). -/
def State.meetsError (s : State) (core : Nat) (weak : Bool) (e : StoredError) : Bool :=
  if s.l1Serving core weak e.addr then e.inL1 core
  else match e.place with
    | .channel | .vault | .l2 => !s.l1.any (fun b => decide (b.page = e.addr / 128 * 128) && b.owned.getLsbD (e.addr % 128 / 4) &&
        b.dirty.getLsbD (e.addr % 128))
    | .l1 => decide (e.unit ≠ core) && s.owned e.unit e.addr
    | _ => false

/-- Whether an error stands in words of a block at a physical address, as their home holds them. -/
def StoredError.atHome (e : StoredError) (page : Nat) (ws : BitVec 32) : Bool :=
  e.within page 128 && ws.getLsbD (e.addr % 128 / 4) && e.isHome

/-- Errors in the words of a block that a fill fetches: single-bit ones are corrected and counted; an uncorrectable one, in bytes
that no instruction consumes, is only logged (R206). -/
def State.fillErrors (s : State) (page : Nat) (ws : BitVec 32) : State :=
  if s.errors.isEmpty then s
  else
    let hit (e : StoredError) : Bool := e.atHome page ws
    { s with
      errors := s.errors.filter (fun e => !(hit e && !e.fatal))
      telemetry := { s.telemetry with
        corrected := s.telemetry.corrected + (s.errors.filter (fun e => hit e && !e.fatal)).length
        logged := s.telemetry.logged + (s.errors.filter (fun e => hit e && e.fatal)).length } }

/-- The uncorrectable errors of the bytes that a cache of a core takes as a read at their home finds them stand in the cache from then on,
in place of those that it held in these bytes (R206). -/
def State.copyErrors (s : State) (place : ErrPlace) (core page : Nat) (bytes : BitVec 128) : State :=
  if s.errors.isEmpty then s
  else
    let here (e : StoredError) : Bool := e.within page 128 && bytes.getLsbD (e.addr % 128)
    let new := (s.errors.filter (fun e => here e && e.fatal && s.meetsError core false e)).map
      (fun (e : StoredError) => { e with place := place, unit := core })
    { s with errors := s.errors.filter (fun e => !(here e && decide (e.place = place) && decide (e.unit = core))) ++ new }

/-- Whether a block of a core holds bytes of a physical block under another tag: a second virtual address, or another context. -/
def L1Block.isAlias (b : L1Block) (core ctx va page : Nat) : Bool :=
  decide (b.core = core) && decide (b.page = page) && !b.isAt core ctx va

/-- The other blocks of a core that hold words of a block under another tag write them back, and hold them valid no longer: a word stands
in one block of a core at a time, so that a thread's load of a byte finds its latest store to it under whichever virtual address that was
made (R185, log entry 73). -/
def State.unalias (s : State) (core ctx va page : Nat) (ws : BitVec 32) : State :=
  if s.l1.any (fun b => b.isAlias core ctx va page) then
    let s1 := s.writeBack (fun b => if b.isAlias core ctx va page then ws else 0)
    { s1 with l1 := s1.l1.map (fun b => if b.isAlias core ctx va page then { b with valid := b.valid &&& ~~~ws } else b) }
  else s

/-- The dirty bytes of the block that a core holds for an address of a physical block. -/
def State.dirtyAt (s : State) (core ctx va page : Nat) : BitVec 128 :=
  match s.l1.find? (fun b => b.isAt core ctx va) with
  | some b => if b.page = page then b.dirty else 0
  | none => 0

/-- Fills the words lo to hi of the block of an address: on a miss, the words that are not valid are fetched from their home, where
they are recalled from their owners first, the core's own blocks under other tags among them (R185); dirty bytes keep their values (R180,
R222). -/
def State.fill (s : State) (core ctx va pa lo hi : Nat) : State :=
  let page := pa / 128 * 128
  let miss := s.missing core ctx va page lo hi
  if miss = 0 then s
  else
    let s0 := ((((s.unalias core ctx va page miss).recallWords page miss).inside page 128).fillErrors page miss)
    let s1 := s0.copyErrors .l1 core page (byteMask miss &&& ~~~(s0.dirtyAt core ctx va page))
    let r := s1.block core ctx va pa
    let b := (List.range 128).foldl
      (fun b i => if miss.getLsbD (i / 4) && !b.dirty.getLsbD i then b.setByte i (Cells.get r.2.mem (page + i)) else b) r.1
    r.2.putBlock { b with valid := b.valid ||| miss }

/-- The value of n bytes of a core's block, where the block holds them; the home's bytes elsewhere. -/
def State.l1Value (s : State) (core ctx va pa n : Nat) : Nat :=
  match s.l1.find? (fun b => b.isAt core ctx va) with
  | none => leValue s.mem pa n
  | some b =>
    (List.range n).foldr (fun i v =>
      256 * v + (if b.dirty.getLsbD (va % 128 + i) || b.valid.getLsbD ((va % 128 + i) / 4) then b.byte (va % 128 + i)
        else Cells.get s.mem (pa + i)).toNat) 0

/-- A read at the home in which bytes dirty in the issuing core's L1 are taken from there; its own block of the address stays as it is, and
words that the core's other blocks hold dirty are written back and those that other cores own are recalled (R181, R185, R222). -/
def State.bypassRead (s : State) (core ctx va pa n : Nat) : Nat × State :=
  let mine (b : L1Block) : Bool := b.isAt core ctx va && decide (b.page = pa / 128 * 128)
  let s1 := (s.writeBack (fun b => if b.page = pa / 128 * 128 ∧ mine b = false then
      (if b.core = core then bytesSpan pa n else b.owned &&& bytesSpan pa n) else 0)).inside pa n
  (match s1.l1.find? mine with
    | none => leValue s1.mem pa n
    | some b =>
      (List.range n).foldr (fun i v =>
        256 * v + (if b.dirty.getLsbD (va % 128 + i) then b.byte (va % 128 + i) else Cells.get s1.mem (pa + i)).toNat) 0, s1)

/-- Writes n bytes into a core's L1 as dirty; the core's blocks under other tags give up the words (R180, R185, R219). -/
def State.storeL1 (s : State) (core ctx va pa n v : Nat) : State :=
  let r := ((s.inside pa n).unalias core ctx va (pa / 128 * 128) (bytesSpan pa n)).block core ctx va pa
  let o := va % 128
  let b := (List.range n).foldl (fun b i => b.setByte (o + i) (BitVec.ofNat 8 (v / 256 ^ i))) r.1
  let dirty := (List.range n).foldl (fun d i => d ||| BitVec.twoPow 128 (o + i)) b.dirty
  let full := (List.range 32).foldl (fun m w => if o ≤ 4 * w ∧ 4 * w + 4 ≤ o + n then m ||| BitVec.twoPow 32 w else m) 0
  r.2.putBlock { b with dirty := dirty, valid := b.valid ||| full }

/-- The home of a byte at a physical address, by the placement and the place in its page of its 4 KiB span (R266). -/
def State.homeAt (s : State) (pa : Nat) : Nat :=
  homeOf (Cells.get s.placed (pa / 4096)) (4096 * (Cells.get s.spanInPage (pa / 4096)).toNat + pa % 4096)

/-- The directory's number of the region of a physical address: the part of its 4 KiB span with one home (R221). -/
def regionKey (s : State) (pa : Nat) : Nat := 64 * (pa / 4096) + s.homeAt pa

/-- The 128-byte lines of a region: those of its span with its home (R221, R273). -/
def State.regionLines (s : State) (key : Nat) : Nat :=
  ((List.range 32).filter (fun i => decide (regionKey s (4096 * (key / 64) + 128 * i) = key))).length

/-- Registers a core as owner of a word at its home: locally when the core holds the region token, else after the token is
recalled; a fine region recalls the word alone (R219, R221, R223). -/
def State.registerWord (s : State) (core pa : Nat) : State :=
  let key := regionKey s pa
  let home := key % 64
  let d := (Tbl.find s.dir key).getD { holder := none, fine := false, lastReg := 0, lastRecall := 0 }
  let own (s : State) : State :=
    { s with l1 := s.l1.map (fun b =>
        if b.core = core ∧ b.page = pa / 128 * 128 then { b with owned := b.owned ||| BitVec.twoPow 32 (pa % 128 / 4) } else b) }
  if d.fine then
    let taken := s.l1.any (fun b => decide (b.core ≠ core) && decide (b.page = pa / 128 * 128) && b.owned.getLsbD (pa % 128 / 4))
    let s' := if taken then s.recall (pa / 4 * 4) 4 else s
    own { s' with dir := Tbl.put s'.dir key { d with lastReg := s.cycle, lastRecall := if taken then s.cycle else d.lastRecall } }
  else
    match d.holder with
    | some h =>
      if h = core then own { s with dir := Tbl.put s.dir key { d with lastReg := s.cycle } }
      else
        let s1 := s.writeBack (fun b => if b.core = h ∧ regionKey s b.page = key then b.dirtyWords ||| b.owned else 0)
        let young := decide (s.cycle < d.lastReg + 4096)
        let used := (s.dir.filter (fun e => e.2.fine && decide (e.1 % 64 = home))).foldl (fun n e => n + s.regionLines e.1) 0
        let room := decide (used + s.regionLines key ≤ 2048)
        let tele := { s1.telemetry with
          recalls := countUp s1.telemetry.recalls home
          splits := if young && room then countUp s1.telemetry.splits home else s1.telemetry.splits
          refused := if young && !room then countUp s1.telemetry.refused home else s1.telemetry.refused }
        own { s1 with
          telemetry := tele
          dir := Tbl.put s1.dir key { holder := if young && room then none else some core, fine := young && room,
                                      lastReg := s.cycle, lastRecall := s.cycle } }
    | none => own { s with dir := Tbl.put s.dir key { d with holder := some core, lastReg := s.cycle } }

/-- A release by a core: every dirty word of its L1 is registered (R219). -/
def State.release (s : State) (core : Nat) : State :=
  let words : List Nat := (s.l1.filter (fun b => decide (b.core = core))).flatMap (fun b =>
    ((List.range 32).filter (fun w => b.dirtyWords.getLsbD w && !b.owned.getLsbD w)).map (fun w => b.page + 4 * w))
  words.foldl (fun s pa => s.registerWord core pa) s

/-- The words of a block of which every byte is dirty. -/
def L1Block.wholeWords (b : L1Block) : BitVec 32 :=
  (List.range 32).foldl (fun m w => if b.dirty.extractLsb' (4 * w) 4 = 15 then m ||| BitVec.twoPow 32 w else m) 0

/-- An acquire by a core: every valid word neither dirty nor owned is discarded, and the gather cache emptied (R220). A word that
is dirty in part keeps its dirty bytes and is valid no longer: its other bytes may be hidden by a write that happens before the
acquire (R209, R212, log entry 23). -/
def State.acquire (s : State) (core : Nat) : State :=
  { s with
    gather := s.gather.filter (fun g => decide (g.core ≠ core))
    l1 := (s.l1.map (fun b => if b.core = core then { b with valid := b.valid &&& b.wholeWords } else b)).filter
      (fun b => decide (b.core ≠ core) || decide (b.valid ≠ 0) || decide (b.dirty ≠ 0) || decide (b.owned ≠ 0)) }

/-! Handles and the checks of R177. -/

/-- A valid handle entry taken apart (R258). -/
structure Handle where
  base   : Nat
  size   : Nat
  host   : Bool
  policy : Nat
  r      : Bool
  w      : Bool
  a      : Bool
deriving DecidableEq, Repr

/-- Reads a handle table entry; none when it is invalid (R258, R259). -/
def handleOf (ws : List Word) : Option Handle :=
  let w0 := ws.getD 0 0
  let w1 := ws.getD 1 0
  let w3 := ws.getD 3 0
  let w4 := ws.getD 4 0
  let base := w0.toNat + w1.toNat % 65536 * 2 ^ 32
  let size := (ws.getD 2 0).toNat + w3.toNat % 65536 * 2 ^ 32
  if bit w4 31 && zf w0 0 8 && zf w1 16 16 && zf w3 16 16 && zf w4 6 25 && decide ((fld w4 4 2).toNat ≠ 3) &&
      decide (base + size ≤ 2 ^ 48) && (ws.drop 5).all (fun w => decide (w = 0)) then
    some { base := base, size := size, host := bit w4 0, policy := (fld w4 4 2).toNat, r := bit w4 1, w := bit w4 2, a := bit w4 3 }
  else none

/-- Reads a table entry, of the words listed, through a core's descriptor cache; an engine, whose number is 128 or more, has none.
An entry that changed since the core cached it reads whole old or whole new, by a free value (R257). -/
def State.descRead (s : State) (core ctx kind idx at_ : Nat) (ws : List Nat) : List Word × State :=
  let mem := ws.map (fun i => wordAt s.mem (at_ + 4 * i))
  let same (e : DescEntry) : Bool :=
    decide (e.core = core) && decide (e.ctx = ctx) && decide (e.kind = kind) && decide (e.idx = idx)
  let fresh : DescEntry := { core := core, ctx := ctx, kind := kind, idx := idx, words := mem }
  if 128 ≤ core then (mem, s)
  else match s.descs.find? same with
  | none => (mem, { s with descs := s.descs ++ [fresh] })
  | some e =>
    if e.words = mem then (mem, s)
    else
      let d := s.draw
      if Config.oldEntry d.1 then (e.words, d.2)
      else (mem, { d.2 with descs := s.descs.map (fun x => if same x then fresh else x) })

/-- The handle with an index of a context, as a core reads it. -/
def State.handle (s : State) (core ctx idx : Nat) : Option Handle × State :=
  let r := s.descRead core ctx 0 idx ((s.ctx ctx).hbase + 32 * idx) (List.range 8)
  (handleOf r.1, r.2)

/-- The permission an access needs (R258). look is a read that consumes nothing of memory: what it returns comes from elsewhere, or it
only prefetches (R186, R206, R242); put is the side of an atomic that it only writes (R237); both is a read of what is written later
(R297). -/
inductive Need where
  | read | look | write | atomic | put | both
deriving DecidableEq, Repr

/-- Whether a record calls the access a write (R303). -/
def Need.writes : Need → Bool
  | .read => false
  | .look => false
  | .write => true
  | .atomic => true
  | .put => true
  | .both => true

/-- Whether the access consumes the data that it names (R206). -/
def Need.consumes : Need → Bool
  | .read => true
  | .look => false
  | .write => false
  | .atomic => true
  | .put => false
  | .both => true

def Handle.allows (h : Handle) : Need → Bool
  | .read => h.r
  | .look => h.r
  | .write => h.w
  | .atomic => h.a
  | .put => h.a
  | .both => h.r && h.w

def TlbEntry.allows (e : TlbEntry) : Need → Bool
  | .read => e.r
  | .look => e.r
  | .write => e.w
  | .atomic => e.a
  | .put => e.a
  | .both => e.r && e.w

/-- Why a lane's access was denied: the fault, and what its record says of the access (R303). -/
structure Deny where
  code   : FCode
  va     : Nat
  w      : Bool
  mal    : Bool
  handle : Nat
deriving DecidableEq, Repr

/-- Reads bytes that hold the stored errors that pass a test: corrected ones go and are counted, and an uncorrectable one is
reported (R206). -/
def State.readErrors (s : State) (hit : StoredError → Bool) : Bool × State :=
  (s.errors.any (fun e => hit e && e.fatal),
   { s with errors := s.errors.filter (fun e => !(hit e && !e.fatal)),
            telemetry := { s.telemetry with
              corrected := s.telemetry.corrected + (s.errors.filter (fun e => hit e && !e.fatal)).length } })

/-- An instruction of a core consumes n bytes at a physical address, each where it finds it; weak says that a valid word of its own L1
serves it (R206). -/
def State.consume (s : State) (core pa n : Nat) (weak : Bool) : Bool × State :=
  s.readErrors (fun e => e.within pa n && s.meetsError core weak e)

/-- The gather cache of a core serves words at an address (R206). -/
def State.gatherErrors (s : State) (core pa n : Nat) : Bool × State :=
  s.readErrors (fun e => decide (e.place = .gather) && decide (e.unit = core) && decide (pa ≤ e.addr) && decide (e.addr < pa + n))

/-- An instruction reads scratchpad bytes of a core (R206). -/
def State.scrErrors (s : State) (core : Nat) (as : List Nat) : Bool × State :=
  s.readErrors (fun e => decide (e.place = .scratchpad) && decide (e.unit = core) && as.contains e.addr)

/-- Whether bytes at a virtual address lie in the code region of a launch of the context, which is mapped read-only (R42). -/
def State.codeHit (s : State) (ctx va n : Nat) : Bool :=
  s.launches.any (fun e => decide (e.2.ctxs.getD 0 none = some ctx) && decide (e.2.codeBase < va + n) &&
    decide (va < e.2.codeBase + 4 * e.2.code.length))

/-- The block of a core's L1 that serves n bytes at an address of a context: every word of them is valid (R180). -/
def State.l1Hit (s : State) (core ctx va n : Nat) : Option L1Block :=
  s.l1.find? (fun b => b.isAt core ctx va && decide (wordSpan (va % 128 / 4) ((va % 128 + n - 1) / 4) &&& ~~~b.valid = 0))

/-- The block that serves an access in L1, and the leaf that the access is held to: the page of the block is the one that the address has
as it stands (R180, R272). -/
def State.l1Serves (s : State) (core ctx va n : Nat) : Option (L1Block × TlbEntry) :=
  (s.l1Hit core ctx va n).bind (fun b => (s.peek ctx va).bind (fun e =>
    if (e.pa + (va - e.base)) / 128 * 128 = b.page then some (b, e) else none))

/-- The checks of R177 after those of offset and alignment: permissions, translation, and the data itself. na says that the access
goes to its home whatever the L1 holds. An access that hits in L1 asks no slice for a translation (R269); it is held to the leaf as
it stands, and where that is gone or leads to another page, it goes to its slice as one that misses (R272). -/
def State.grant (s : State) (core ctx idx lane : Nat) (h : Handle) (va n : Nat) (need : Need) (na : Bool) :
    Except Deny LaneAddr × State :=
  let deny (c : FCode) (mal : Bool) : Deny := { code := c, va := va, w := need.writes, mal := mal, handle := idx }
  if h.allows need = false then (.error (deny .prot false), s)
  else if h.host = false && need.writes && s.codeHit ctx va n then (.error (deny .prot false), s)
  else if h.host then (.ok { lane := lane, host := true, ctx := ctx, va := va, pa := va, uncached := true, handle := idx }, s)
  else match if na || decide (h.policy = 2) then none else s.l1Serves core ctx va n with
  | some (b, e) =>
    if e.allows need = false then (.error (deny .prot false), s)
    else
      let pa := b.page + va % 128
      let c := if need.consumes then s.consume core pa n true else (false, s)
      if c.1 then (.error (deny .ecc false), c.2)
      else (.ok { lane := lane, host := false, ctx := ctx, va := va, pa := pa, uncached := false, handle := idx }, c.2)
  | none =>
    match s.translate ctx va with
    | (.error mal, s1) => (.error (deny .page mal), s1)
    | (.ok e, s1) =>
      if e.allows need = false then (.error (deny .prot false), s1)
      else
        let pa := e.pa + (va - e.base)
        let s2 := s1.place pa e.place e.size
        let c := if need.consumes then s2.consume core pa n (!(na || decide (h.policy = 2))) else (false, s2)
        if c.1 then (.error (deny .ecc false), c.2)
        else (.ok { lane := lane, host := false, ctx := ctx, va := va, pa := pa, uncached := na || decide (h.policy = 2), handle := idx },
          c.2)

/-- The checks of R177 on n bytes at offset o of a handle before those of permission: why they are denied, or the address. -/
def reach (idx : Nat) (hd : Option Handle) (o : Int) (n align : Nat) (w : Bool) : Except Deny (Handle × Nat) :=
  match hd with
  | none => .error { code := .handle, va := 0, w := w, mal := false, handle := idx }
  | some h =>
    let va := (((h.base : Int) + o) % 2 ^ 48).toNat
    let deny (c : FCode) : Deny := { code := c, va := va, w := w, mal := false, handle := idx }
    if o < 0 ∨ (h.size : Int) < o + n then .error (deny .bounds)
    else if va % align ≠ 0 then .error (deny .align)
    else .ok (h, va)

/-- The checks of R177 on one lane's access of n bytes at offset o of a handle, in order. -/
def State.check (s : State) (core ctx idx lane : Nat) (hd : Option Handle) (o : Int) (n : Nat) (need : Need) (na : Bool) :
    Except Deny LaneAddr × State :=
  match reach idx hd o n n need.writes with
  | .error d => (.error d, s)
  | .ok (h, va) => s.grant core ctx idx lane h va n need na

/-- The parts of n bytes at an address that lie in one 4 KiB span each: address and bytes. -/
def spans (va n : Nat) : List (Nat × Nat) :=
  let first := min n (4096 - va % 4096)
  if first = n then [(va, n)] else (va, first) :: spansFrom (va + first) (n - first) (n / 4096 + 2)
where
  /-- The parts from a span boundary on; fuel counts them. -/
  spansFrom (va n : Nat) : Nat → List (Nat × Nat)
    | 0 => []
    | fuel + 1 => if n = 0 then [] else (va, min n 4096) :: spansFrom (va + min n 4096) (n - min n 4096) fuel

/-- The checks of R177 on a run of n bytes that may cross pages, aligned as given: where each of its 4-byte words lies. -/
def State.checkRun (s : State) (core ctx idx lane : Nat) (hd : Option Handle) (o : Int) (n align : Nat) (need : Need) :
    Except Deny (List LaneAddr) × State :=
  match reach idx hd o n align need.writes with
  | .error d => (.error d, s)
  | .ok (h, va) =>
    (spans va n).foldl (fun (acc : Except Deny (List LaneAddr) × State) x =>
      match acc.1 with
      | .error _ => acc
      | .ok as =>
        match acc.2.grant core ctx idx lane h x.1 x.2 need true with
        | (.error d, s') => (.error d, s')
        | (.ok a, s') =>
          (.ok (as ++ (List.range ((x.2 + 3) / 4)).map (fun i => { a with va := a.va + 4 * i, pa := a.pa + 4 * i })), s')) (.ok [], s)

/-- Notes the host line that the CXL.cache agent holds after an access (R178). -/
def State.hostTouch (s : State) (addr : Nat) (excl : Bool) : State :=
  let line := addr / 64
  let held := (s.hostLines.find? (fun h => decide (h.line = line))).elim false (fun h => h.exclusive)
  { s with hostLines := s.hostLines.filter (fun h => decide (h.line ≠ line)) ++ [{ line := line, exclusive := excl || held }] }

/-- Reads n bytes as a weak or non-weak load of a core does (R180, R181, R215). Spans of weak cached loads are filled
before. -/
def State.loadBytes (s : State) (core : Nat) (weak : Bool) (a : LaneAddr) (n : Nat) : Nat × State :=
  if a.host then (leValue s.hostMem a.pa n, s.hostTouch a.pa false)
  else if weak && !a.uncached then (s.l1Value core a.ctx a.va a.pa n, s)
  else s.bypassRead core a.ctx a.va a.pa n

/-- Fills the spans that the lanes of a weak load touch, block by block (R180). -/
def State.fillSpans (s : State) (core n : Nat) (as : List LaneAddr) : State :=
  let cs := as.filter (fun a => !a.host && !a.uncached)
  let blocks := (cs.map (fun a => a.va / 128)).eraseDups
  blocks.foldl (fun s b =>
    let mine := cs.filter (fun a => decide (a.va / 128 = b))
    match mine with
    | [] => s
    | a :: _ =>
      let lo := mine.foldl (fun m a => min m (a.va % 128 / 4)) 31
      let hi := mine.foldl (fun m a => max m ((a.va % 128 + n - 1) / 4)) 0
      s.fill core a.ctx a.va a.pa lo hi) s

/-- Writes n bytes as a store of a core does: into the L1 for a weak cached store, whose words are registered now when the
choices tape says so and otherwise at the next release; at the home for the others (R181, R219). -/
def State.storeBytes (s : State) (core : Nat) (weak : Bool) (a : LaneAddr) (n v : Nat) : State :=
  if a.host then { (s.hostTouch a.pa true) with hostMem := putValue s.hostMem a.pa n v }
  else
    if weak && !a.uncached then
      let c := ((s.scrubbed core a.pa n false).storeL1 core a.ctx a.va a.pa n v).choose
      if c.1 then (List.range ((a.pa % 4 + n + 3) / 4)).foldl (fun s i => s.registerWord core (a.pa / 4 * 4 + 4 * i)) c.2 else c.2
    else s.homeWrite core a.pa n v

/-- The bytes of a block that the lanes of a store of n bytes each write. -/
def L1Block.stored (b : L1Block) (core n : Nat) (as : List LaneAddr) : BitVec 128 :=
  as.foldl (fun m a =>
    if !a.host && !a.uncached && b.isAt core a.ctx a.va && decide (b.page = a.pa / 128 * 128) then
      (List.range n).foldl (fun m i => m ||| BitVec.twoPow 128 (a.va % 128 + i)) m
    else m) 0

/-- A word of which one cached store wrote every byte, by several lanes together, is valid then (R180). -/
def State.wholeStores (s : State) (core n : Nat) (as : List LaneAddr) : State :=
  if 4 ≤ n then s
  else { s with l1 := s.l1.map (fun b =>
    let got := b.stored core n as
    let full := (List.range 32).foldl (fun m w => if got.extractLsb' (4 * w) 4 = 15 then m ||| BitVec.twoPow 32 w else m) (0 : BitVec 32)
    { b with valid := b.valid ||| (full &&& b.wholeWords) }) }

/-- Stores the lanes of one store of n bytes each, with the value of each (R180, R181, R219). -/
def State.storeLanes (s : State) (core : Nat) (weak : Bool) (n : Nat) (vs : List (LaneAddr × Nat)) : State :=
  let t := vs.foldl (fun s x => s.storeBytes core weak x.1 n x.2) s
  if weak then t.wholeStores core n (vs.map (·.1)) else t

/-- An address that an earlier step has checked, checked anew before it is used: it translates as it does now, and the permission is that
of the leaf as it stands (R271, R272). -/
def State.again (s : State) (a : LaneAddr) (need : Need) : Except Deny LaneAddr × State :=
  let deny (c : FCode) (mal : Bool) : Deny := { code := c, va := a.va, w := need.writes, mal := mal, handle := a.handle }
  if a.host then (.ok a, s)
  else
    match s.translate a.ctx a.va with
    | (.error mal, s1) => (.error (deny .page mal), s1)
    | (.ok e, s1) =>
      if e.allows need = false then (.error (deny .prot false), s1)
      else
        let pa := e.pa + (a.va - e.base)
        (.ok { a with pa := pa }, s1.place pa e.place e.size)

/-- The addresses of a run, checked anew: the first denial stops it. -/
def State.againAll (s : State) (as : List LaneAddr) (need : Need) : Except Deny (List LaneAddr) × State :=
  as.foldl (fun (acc : Except Deny (List LaneAddr) × State) a =>
    match acc.1 with
    | .error _ => acc
    | .ok bs =>
      match acc.2.again a need with
      | (.error d, s') => (.error d, s')
      | (.ok b, s') => (.ok (bs ++ [b]), s')) (.ok [], s)

/-- Reads at the home through an address that was checked, as engines do. -/
def State.engRead (s : State) (a : LaneAddr) (n : Nat) : Nat × State :=
  if a.host then (leValue s.hostMem a.pa n, s.hostTouch a.pa false) else s.homeRead a.pa n

/-- Writes at the home through an address that was checked, as engines do. -/
def State.engWrite (s : State) (a : LaneAddr) (n v : Nat) : State :=
  if a.host then { (s.hostTouch a.pa true) with hostMem := putValue s.hostMem a.pa n v }
  else s.homeWrite 128 a.pa n v

/-- Reads the words of a run at their homes. -/
def State.runRead (s : State) (as : List LaneAddr) : List Word × State :=
  thread (fun (a : LaneAddr) s => let v := s.engRead a 4; (BitVec.ofNat 32 v.1, v.2)) as s

/-- Writes words of a run at their homes. -/
def State.runWrite (s : State) (as : List LaneAddr) (ws : List Word) : State :=
  (as.zip ws).foldl (fun s x => s.engWrite x.1 4 x.2.toNat) s

/-! Scratchpad windows (R59, R192 to R195). -/

/-- The rounded size of a ring window (R59). -/
def pow2Ceil (n : Nat) : Nat := if n ≤ 1 then 1 else 2 ^ (Nat.log2 (n - 1) + 1)

/-- A window as an access finds it: kind, size for the range check, and where it starts in the scratchpad. -/
structure WinAt where
  ring  : Bool
  size  : Nat
  start : Nat
deriving DecidableEq, Repr

/-- The workgroup of a launch on a core: the one that runs there, else one that has retired there. -/
def Launch.wgAt (la : Launch) (core : Nat) : Option Workgroup :=
  match la.wgs.find? (fun w => decide (w.core = core) && !w.saved && !w.retired) with
  | some w => some w
  | none => la.wgs.find? (fun w => decide (w.core = core) && !w.saved)

/-- A window of a launch on a core; one that is not listed is plain with size 0 (R59). -/
def Launch.winAt (la : Launch) (core num : Nat) : WinAt :=
  match la.windows.find? (fun w => decide (w.num = num)) with
  | none => { ring := false, size := 0, start := 0 }
  | some w =>
    { ring := w.ring, size := if w.ring then pow2Ceil w.size else w.size,
      start := ((la.wgAt core).bind (fun g => Tbl.find g.wins num)).getD 0 }

/-- The size of a window as the image lists it, a ring window's too; 0 for one that is not listed (R59). -/
def Launch.winSize (la : Launch) (num : Nat) : Nat := ((la.windows.find? (fun w => decide (w.num = num))).map (·.size)).getD 0

/-- A core's scratchpad. -/
def State.scr (s : State) (core : Nat) : Cells 8 := (Tbl.find s.scratch core).getD []

/-- Changes a core's scratchpad. -/
def State.setScr (s : State) (core : Nat) (c : Cells 8) : State := { s with scratch := Tbl.put s.scratch core c }

/-- Whether scratchpad bytes hold an uncorrectable error (R206). -/
def State.scrBad (s : State) (core a n : Nat) : Bool :=
  s.errors.any (fun e => decide (e.place = .scratchpad) && decide (e.unit = core) && decide (a ≤ e.addr) &&
    decide (e.addr < a + n) && e.fatal)

/-- Overwritten scratchpad bytes lose the errors stored in them. -/
def State.scrClean (s : State) (core : Nat) (as : List Nat) : State :=
  if s.errors.isEmpty then s
  else { s with errors := s.errors.filter (fun e =>
    !(decide (e.place = .scratchpad) && decide (e.unit = core) && as.contains e.addr)) }

end Sys2Proof.Machine
end

