-- ==== Sys2Proof/Machine/Ops.lean ====
section
/-! DEFINITION. The shared operations: fault records and their delivery (R5 to R7, R303, R343, R344), which is how the EH1
takes an exception, and the return from one (R347); region aborts (R249, R250); barriers at departure of threads (R320 to
R322); the end of flights, workgroups and gangs (R6, R22); and the issue of one instruction (R27, R39, R40, R48 to R50, R56,
R241). -/

namespace Sys2Proof.Machine

/-- The number of a fault code (R5). -/
def FCode.num : FCode → Nat
  | .undef => 1
  | .clause => 2
  | .hazard => 3
  | .priv => 4
  | .page => 5
  | .prot => 6
  | .bounds => 7
  | .handle => 8
  | .align => 9
  | .stackLimit => 10
  | .scratch => 11
  | .barrierCount => 12
  | .barrierBusy => 13
  | .gallery => 14
  | .divstack => 15
  | .tensor => 16
  | .expand => 17
  | .engine => 18
  | .pool => 19
  | .trap => 20
  | .brk => 21
  | .ecc => 22

/-- A fault of one lane: its code, the n of TRAP and BRK, and what the record says of the access (R303). -/
structure LaneFault where
  lane   : Nat
  code   : FCode
  n      : Nat
  va     : Nat
  w      : Bool
  mal    : Bool
  handle : Nat
deriving DecidableEq, Repr

/-- A fault that involves no memory access. -/
def plainFault (code : FCode) (lane : Nat) : LaneFault :=
  { lane := lane, code := code, n := 0, va := 0, w := false, mal := false, handle := 0 }

/-- A fault of a denied access. -/
def denyFault (d : Deny) (lane : Nat) : LaneFault :=
  { lane := lane, code := d.code, n := 0, va := d.va, w := d.w, mal := d.mal, handle := d.handle }

/-- One fault for each lane of a mask. -/
def faultAll (code : FCode) (m : Mask) : List LaneFault := (lanesOf m).map (plainFault code)

/-- An abort of a lane's region: its cause, and its entry field (R249). -/
structure LaneAbort where
  lane  : Nat
  cause : Nat
  entry : Nat
deriving DecidableEq, Repr

/-- The core, partition and FLIGHT of a flight's number in State.flights (R14). -/
def keyCore (key : Nat) : Nat := key / 64
def keyPart (key : Nat) : Nat := key % 64 / 16

/-- The launch's context in a slot (R281). -/
def Launch.ctxAt (la : Launch) (i : Nat) : Option Nat := (la.ctxs.getD i none)

/-- The launch's first context (R281). -/
def Launch.ctx0 (la : Launch) : Nat := (la.ctxAt 0).getD 0

/-- Lists a flight. -/
def State.putFlight (s : State) (key : Nat) (f : Flight) : State := { s with flights := Tbl.put s.flights key f }

/-- Changes a listed flight. -/
def State.modFlight (s : State) (key : Nat) (g : Flight → Flight) : State := { s with flights := Tbl.modify s.flights key g }

/-- Changes a listed launch. -/
def State.modLaunch (s : State) (w : Nat) (g : Launch → Launch) : State := { s with launches := Tbl.modify s.launches w g }

/-- Changes the workgroup of a launch that runs on a core. -/
def Launch.modWg (la : Launch) (core : Nat) (g : Workgroup → Workgroup) : Launch :=
  { la with wgs := la.wgs.map (fun w => if w.core = core ∧ w.saved = false ∧ w.retired = false then g w else w) }

def State.modWg (s : State) (launch : Word) (core : Nat) (g : Workgroup → Workgroup) : State :=
  s.modLaunch launch.toNat (fun la => la.modWg core g)

/-! The fault ring (R303). -/

/-- Records the ring has room for. -/
def State.ringRoom (s : State) : Nat := 2 ^ s.frLog - (s.frTail - s.frHead)

/-- Where the next record goes. -/
def State.ringAt (s : State) : Nat := s.frBase.toNat + 64 * (s.frTail % 2 ^ s.frLog)

/-- Word 2 of a record, which TWHO also reads (R303, R345). -/
def whoWord (key : Nat) (slotB : Bool) (lane : Nat) : Word :=
  BitVec.ofNat 32 (key / 64 + (key % 64) * 256 + lane * 65536 + slotB.toNat * 2097152)

/-- Writes one record of sixteen words and counts it. Its time is that of the write. -/
def State.ringPut (s : State) (ws : List Word) : State :=
  let s' := s.inside s.ringAt 64
  let timed := ws.take 10 ++ [BitVec.ofNat 32 s.time, BitVec.ofNat 32 (s.time / 2 ^ 32)] ++ ws.drop 12
  { s' with mem := putWords s'.mem s.ringAt timed, frTail := s.frTail + 1 }

/-- Writes a record for a slot of a flight with a start order, or for an engine or a copy, or keeps it until firmware has freed one when the ring is full (R303). -/
def State.ringWrite (s : State) (order : Option Nat) (slotB : Bool) (ws : List Word) : State :=
  if s.ringRoom = 0 then { s with ringQueue := s.ringQueue ++ [{ order := order, slotB := slotB, words := ws }] } else s.ringPut ws

/-- Writes the records that wait, the oldest first, as far as the ring has room (R303). -/
def State.ringFlush : List RingWait → State → State
  | [], s => s
  | r :: rs, s => if s.ringRoom = 0 then s else State.ringFlush rs ({ s with ringQueue := rs }.ringPut r.words)

/-- Where the last record stands that has been made, written or not: what is parked on it waits for its acknowledgement (R343). -/
def State.ringEnd (s : State) : Nat := s.frTail + s.ringQueue.length

/-- Whether a slot of a flight waits for room in the ring for its records (R303). -/
def State.ringHolds (s : State) (order : Nat) (slotB : Bool) : Bool :=
  s.ringQueue.any (fun r => decide (r.order = some order) && decide (r.slotB = slotB))

/-- The words of a lane's record (R303). -/
def laneRecord (s : State) (key : Nat) (f : Flight) (slotB : Bool) (ctx : Nat) (pc : Word) (x : LaneFault) : List Word :=
  [BitVec.ofNat 32 (x.code.num + x.mal.toNat * 512 + x.w.toNat * 1024 + ctx * 16777216), f.launch, whoWord key slotB x.lane, pc,
   BitVec.ofNat 32 x.va, BitVec.ofNat 32 (x.va / 2 ^ 32 % 65536), Cells.get f.own x.lane, Cells.get f.iter x.lane,
   BitVec.ofNat 32 x.handle, BitVec.ofNat 32 x.n, BitVec.ofNat 32 s.time, BitVec.ofNat 32 (s.time / 2 ^ 32), 0, 0, 0, 0]

/-- Writes the records of an instruction's faults, in ascending lane order. -/
def State.records (s : State) (key : Nat) (f : Flight) (slotB : Bool) (ctx : Nat) (pc : Word) (fs : List LaneFault) : State :=
  ((List.range 32).flatMap (fun l => fs.filter (fun x => decide (x.lane = l)))).foldl
    (fun s x => s.ringWrite (some f.order) slotB (laneRecord s key f slotB ctx pc x)) s

/-- Writes the record of an engine's fault: words 2, 6 and 7 are zero (R303). -/
def State.engRecord (s : State) (ctx : Nat) (launch : Word) (num : Nat) (d : Deny) : State :=
  s.ringWrite none false [BitVec.ofNat 32 (d.code.num + 256 + d.mal.toNat * 512 + d.w.toNat * 1024 + ctx * 16777216), launch, 0,
    BitVec.ofNat 32 num, BitVec.ofNat 32 d.va, BitVec.ofNat 32 (d.va / 2 ^ 32 % 65536), 0, 0, BitVec.ofNat 32 d.handle, 0,
    BitVec.ofNat 32 s.time, BitVec.ofNat 32 (s.time / 2 ^ 32), 0, 0, 0, 0]

/-! Barriers when threads depart (R320 to R322). -/

/-- The number of lanes in a table of masks. -/
def maskCount (c : Cells 32) : Nat := c.foldl (fun n e => n + countLanes e.2) 0

/-- The expected count of a barrier's phase (R321). -/
def Barrier.expected (b : Barrier) : Nat := if b.c ≠ 0 then b.c else maskCount b.members

/-- Completes the phase if its arrivals equal its count (R321). -/
def Barrier.check (b : Barrier) : Barrier :=
  if 0 < b.a ∧ b.a = b.expected then { b with a := 0, c := 0, fixed := false, phase := b.phase + 1, arrived := [] } else b

/-- Threads of a flight exit or are stopped: their arrivals are withdrawn and their membership ends (R320, R322). -/
def Barrier.drop (b : Barrier) (flight : Nat) (lanes : Mask) : Barrier :=
  let arr := Cells.get b.arrived flight &&& lanes
  ({ b with
      a := b.a - countLanes arr
      arrived := Cells.set b.arrived flight (Cells.get b.arrived flight &&& ~~~lanes)
      members := Cells.set b.members flight (Cells.get b.members flight &&& ~~~lanes) }).check

/-- Threads leave every gallery of their core. -/
def State.leaveAll (s : State) (key : Nat) (lanes : Mask) : State :=
  { s with barriers := s.barriers.map (fun (e : Nat × Barrier) =>
      if e.1 / 64 = key / 64 ∧ (Cells.get e.2.members (key % 64) &&& lanes ≠ 0 ∨ Cells.get e.2.arrived (key % 64) &&& lanes ≠ 0)
      then (e.1, e.2.drop (key % 64) lanes) else e) }

/-! Reductions and expansions (R156 to R161, R170). -/

/-- Whether a reduction operation is a floating one (R170). -/
def RedOp.isFloat (op : RedOp) : Bool := decide (op = .fadd) || decide (op = .fmin) || decide (op = .fmax)

/-- The first value of a reduction: a NaN becomes the canonical NaN in a floating one (R170). -/
def redFirst (op : RedOp) (x : Word) : Word :=
  if RedOp.isFloat op && (Fp.ofWord x).isNan then BitVec.ofNat 32 fp32.qnan else x

/-- One step of a reduction (R170). -/
def redStep (op : RedOp) (r x : Word) : Word :=
  match op with
  | .add => r + x
  | .minI => if x.slt r then x else r
  | .minN => if x < r then x else r
  | .maxI => if r.slt x then x else r
  | .maxN => if r < x then x else r
  | .fadd => (rneAdd r x).word
  | .fmin => (fp32.minmax false r.toNat x.toNat).word
  | .fmax => (fp32.minmax true r.toNat x.toNat).word

/-- The lanes of a flight that have not exited: those of its slots and those on its stack (R11). -/
def Flight.alive (f : Flight) : Mask :=
  f.stack.foldl (fun m t => if t.kind = .path ∨ t.kind = .wait then m ||| t.mask else m) (f.a.mask ||| f.b.mask)

/-- The number of an expansion slot of a flight's partition. -/
def xslot (key : Nat) (e : Nat) : Nat := 16 * (key / 64) + 4 * (key % 64 / 16) + e

/-- The participant lanes of a flight in an expansion that have not exited (R156). -/
def Expansion.maskOf (x : Expansion) (key : Nat) (f : Flight) : Mask :=
  Sys2Proof.Machine.maskOf ((x.parts.filter (fun p => decide (p.flight = key % 64))).map (·.lane)) &&& f.alive

/-- Whether every participating flight of an open expansion is released. -/
def Expansion.allReleased (e : Expansion) : Bool := e.flights.all (fun x => x.2.released)

/-- The participant whose loop holds flattened iteration t: the largest number with prefix at most t and a positive length
(R159). -/
def Expansion.owner (x : Expansion) (t : Nat) : Option (Nat × Participant) :=
  ((List.range x.parts.length).zip x.parts).foldl
    (fun best p => if p.2.pfx ≤ t ∧ 0 < p.2.len then some p else best) none

/-- The participants of a list of arrivals, with their prefixes, and the total (R156, R157). -/
def gatherParts (as : List (Nat × Nat × Word × Word)) : List Participant × Nat :=
  as.foldl (fun acc a =>
    (acc.1 ++ [{ flight := a.1, lane := a.2.1, start := a.2.2.1, len := a.2.2.2.toNat, pfx := acc.2 }], acc.2 + a.2.2.2.toNat))
    ([], 0)

/-- An expansion that has formed (R157). -/
def formed (gal : Option Nat) (parts : List Participant) (total : Nat) : Expansion :=
  { gallery := gal, isOpen := true, arrivals := [], parts := parts, total := total,
    flights := (sortNat (parts.map (·.flight))).map (fun k => (k, { cursor := 0, released := false, gone := false, deal := [] })), reds := [] }

/-- Gives a pending instruction of a flight the results that it writes when it completes. -/
def Flight.resolve (f : Flight) (seq : Nat) (a : PendAct) : Flight :=
  { f with pending := f.pending.map (fun p => if p.seq = seq then { p with act := a } else p) }

/-- A pending instruction has its results: it will write them in the lanes that it acts for still (R161, R330). -/
def Flight.give (f : Flight) (seq : Nat) (g : List (Nat × Nat × Word)) (pw : List (Nat × Nat × Bool)) : Flight :=
  { f with pending := f.pending.map (fun p => if p.seq = seq then
      { p with act := .write (g.filter (fun w => p.mask.getLsbD w.2.1)) (pw.filter (fun w => p.mask.getLsbD w.2.1)) 0 } else p) }

/-- Whether the reductions of a deal may combine: every participating flight has issued its own, has taken a later deal or is
released (R161). -/
def Expansion.dealReady (x : Expansion) (n : Nat) : Bool :=
  x.flights.all (fun e => x.reds.any (fun r => decide (r.flight = e.1) && decide (r.deal = n)) || decide (n + 1 < e.2.cursor) ||
    e.2.released)

/-- Inserts an (iteration, value) pair by iteration. -/
def insIter (x : Nat × Word) : List (Nat × Word) → List (Nat × Word)
  | [] => [x]
  | y :: ys => if x.1 < y.1 then x :: y :: ys else y :: insIter x ys

/-- The contributions that a deal gives an owner, as (operation, iteration, value) (R161). -/
def Expansion.contributions (x : Expansion) (n o : Nat) : List (RedOp × Nat × Word) :=
  (x.reds.filter (fun r => decide (r.deal = n))).flatMap (fun r => r.vals.filterMap (fun v =>
    if (x.owner v.2.1).map (·.1) = some o then some (r.op, v.2.1, v.2.2) else none))

/-- The result of an owner for a deal: its contributions combined in ascending iteration (R161). R161 names one operation;
where the contributions name different ones, a combination is a free value, drawn at a counter (log entry 7). -/
def Expansion.ownerSum (x : Expansion) (ctr n o : Nat) : Option Word :=
  let cs := x.contributions n o
  match (cs.map (fun c => c.2)).foldl (fun acc c => insIter c acc) [], cs.head? with
  | v :: vs, some c =>
    if cs.any (fun y => decide (y.1 ≠ c.1)) then some (Config.mixedReduction ctr o)
    else some (vs.foldl (fun r w => redStep c.1 r w.2) (redFirst c.1 v.2))
  | _, _ => none

/-- Combines the reductions of a deal and gives them to the flights that wait (R161). -/
def State.combine (s : State) (slot : Nat) (x : Expansion) (n : Nat) : State :=
  let rs := x.reds.filter (fun r => decide (r.deal = n) && !r.done)
  let numbered := (List.range x.parts.length).zip x.parts
  let base := 64 * (slot / 16)
  let ctr := s.draw
  let s1 := rs.foldl (fun s r =>
    let mine := (lanesOf r.mask).map (fun l =>
      (l, (numbered.find? (fun p => decide (p.2.flight = r.flight) && decide (p.2.lane = l))).bind (fun p => x.ownerSum ctr.1 n p.1)))
    let gw := mine.flatMap (fun e => match e.2 with
      | some v => if r.d = 127 then [] else [(r.d, e.1, v)]
      | none => [])
    if ((Tbl.find x.flights r.flight).map (·.gone)).getD true then s
    else s.modFlight (base + r.flight) (fun f => f.give r.seq gw (mine.map (fun e => (r.pd, e.1, e.2.isSome))))) ctr.2
  let reds := x.reds.map (fun (r : RedRec) => if r.deal = n then { r with done := true } else r)
  { s1 with expans := Tbl.put s1.expans slot { x with reds := reds } }

/-- Releases the participating flights that have retired or have no participant lane left (R160). -/
def State.releaseGone (s : State) (slot : Nat) (x : Expansion) : Expansion :=
  { x with flights := x.flights.map (fun e =>
      match Tbl.find s.flights (64 * (slot / 16) + e.1) with
      | none => (e.1, { e.2 with released := true, gone := true })
      | some f => if e.2.gone || decide (x.maskOf e.1 f = 0) then (e.1, { e.2 with released := true }) else e) }

/-- Brings an open expansion up to date: flights released, reductions combined, and the slot free once every flight is
released (R160, R161). -/
def State.expanUpdate (s : State) (slot : Nat) : State :=
  match Tbl.find s.expans slot with
  | none => s
  | some x =>
    if x.isOpen = false then s
    else
      let x1 := s.releaseGone slot x
      let deals := sortNat ((x1.reds.filter (fun r => !r.done)).map (·.deal))
      let s1 := deals.foldl (fun s n => match Tbl.find s.expans slot with
        | some y => if y.dealReady n then s.combine slot y n else s
        | none => s) { s with expans := Tbl.put s.expans slot x1 }
      if x1.allReleased then { s1 with expans := Tbl.del s1.expans slot } else s1

/-! The end of flights, workgroups and gangs (R6, R22). -/

/-- Frees a workgroup's place on its core: windows, barriers, atria and queued child groups (R12, R22, R284, R320). -/
def State.clearWg (s : State) (launch : Word) (core : Nat) : State :=
  { s with
    barriers := s.barriers.map (fun e =>
      if e.1 / 64 = core ∧ e.2.bound = some launch then (e.1, Barrier.reset) else e)
    atria := s.atria.filter (fun e => !(decide (e.1 / 4 = core) && decide (e.2.bound = some launch)))
    tasks := Tbl.modify s.tasks core (fun q => q.filter (fun c => decide (c.launch ≠ launch))) }

/-- Whether a workgroup's work has ended (R22). -/
def State.wgDone (s : State) (launch : Word) (w : Workgroup) : Bool :=
  s.flights.all (fun e => decide (e.1 / 64 ≠ w.core) || decide (e.2.launch ≠ launch)) &&
    ((Tbl.find s.tasks w.core).getD []).all (fun c => decide (c.launch ≠ launch)) && w.held.isEmpty && !w.running && !w.dlPending

/-- Retires the workgroup of a launch on a core if its work has ended (R22). -/
def State.tidyWg (s : State) (launch : Word) (core : Nat) : State :=
  match (Tbl.find s.launches launch.toNat).bind (fun la => la.wgAt core) with
  | none => s
  | some w =>
    if !w.retired && s.wgDone launch w then (s.modWg launch core (fun w => { w with retired := true })).clearWg launch core else s

/-- Takes a flight that retires out of the expansions of its partition: what it has arrived at, and what it takes part in (R160). -/
def Expansion.without (x : Expansion) (flight : Nat) : Expansion :=
  { x with
    arrivals := x.arrivals.filter (fun a => decide (a.flight ≠ flight))
    flights := Tbl.modify x.flights flight (fun y => { y with released := true, gone := true }) }

/-- Removes a flight from its place: its FMASK goes to the workgroup's record (R197), its GROW requests and expansions end. -/
def State.dropFlight (s : State) (key : Nat) (f : Flight) : State :=
  let s1 := s.modWg f.launch (keyCore key) (fun w =>
    { w with fmask := w.fmask ||| f.fmask, running := w.running && decide (f.kind ≠ .handler) })
  let cut (e : Nat × Expansion) : Nat × Expansion :=
    if e.1 / 4 = 4 * (key / 64) + key % 64 / 16 then (e.1, e.2.without (key % 64)) else e
  let s2 := { s1 with
    flights := Tbl.del s1.flights key
    lastIssue := s1.lastIssue.filter (fun e => decide (e.2.flight ≠ key))
    growers := s1.growers.map (fun (e : Nat × List Cur) => (e.1, e.2.filter (fun (c : Cur) => decide (c.flight ≠ key))))
    expans := (s1.expans.map cut).filter (fun e => e.2.isOpen || !e.2.arrivals.isEmpty) }
  (List.range 4).foldl (fun s e => s.expanUpdate (xslot key e)) s2

/-- Ends a gang on a fault (R6): its flights, queued child groups and held events go, and it counts as retired. A member that is saved
has nothing on any core. -/
def State.endGang (s : State) (launch : Word) (gang : Nat) (code : FCode) : State :=
  match Tbl.find s.launches launch.toNat with
  | none => s
  | some la =>
    let cores := (la.wgs.filter (fun w => decide (w.gang = gang) && !w.retired && !w.saved)).map (·.core)
    let s1 := (s.flights.filter (fun e => decide (e.2.launch = launch) && cores.contains (e.1 / 64))).foldl
      (fun s e => s.dropFlight e.1 e.2) s
    let s2 := s1.modLaunch launch.toNat (fun la =>
      { la with
        ended := la.ended ++ [gang]
        fault := if la.fault = 0 then code.num else la.fault
        wgs := la.wgs.map (fun w =>
          if w.gang = gang then { w with retired := true, held := [], running := false, dlPending := false, spec := none } else w) })
    cores.foldl (fun s c => s.clearWg launch c) { s2 with saved := s2.saved.filter (fun g =>
      decide (g.launch ≠ launch) || decide (g.gang ≠ gang)) }

/-- Ends lanes that a handler disposes of with value 0, as EXIT would (R344, R347). -/
def State.exitLanes (s : State) (key : Nat) (slotB : Bool) (lanes : Mask) : State :=
  (s.modFlight key (fun f => (f.exitLanes slotB lanes).settle)).leaveAll key lanes

/-- Whether a cancellation sequence that is not over has stopped lanes of a flight (R330). -/
def State.stopping (s : State) (key order : Nat) : Bool :=
  s.launches.any (fun e => e.2.cancels.any (fun c => c.stopped.any (fun x => decide (x.1 = key) && decide (x.2.1 = order))))

/-- Retires a flight whose lanes have all exited (R22). A handler flight that ends without ERET disposes of its trap as value
0 does (R347). -/
def State.tidyFlight (s : State) (key : Nat) : State :=
  match Tbl.find s.flights key with
  | none => s
  | some f =>
    if f.finished && f.pending.all (fun p => p.done) && !s.stopping key f.order then
      (s.dropFlight key f).tidyWg f.launch (keyCore key)
    else s

/-! Regions of aborting lanes (R249). -/

/-- Closes a lane's region with a cause: ASTAT takes OPEN 0, the cause and entry, RP 0; causes 1 and 2 count (R230, R249). -/
def Flight.abortRegion (f : Flight) (a : LaneAbort) : Flight :=
  let st := Cells.get f.astat a.lane
  let n := (fld st 16 8).toNat
  let aborts := if a.cause = 1 ∨ a.cause = 2 then min 255 (n + 1) else n
  let v := a.cause + (st.toNat / 512 % 2) * 512 + a.entry * 4096 + aborts * 65536
  { f with regions := Tbl.del f.regions a.lane, astat := Cells.set f.astat a.lane (BitVec.ofNat 32 v) }

/-- The lanes of a flight that have an open region. -/
def Flight.inRegion (f : Flight) (lane : Nat) : Bool := (Tbl.find f.regions lane).isSome

/-- Ends the reservations that a lane's region attempt holds (R252). -/
def State.unreserve (s : State) (key lane : Nat) : State :=
  { s with reserved := s.reserved.filter (fun r => decide (r.flight ≠ key) || decide (r.lane ≠ lane)) }

/-- Reserves a word for a priority attempt, unless another attempt holds it (R252). -/
def State.reserve (s : State) (key lane pa : Nat) : State :=
  if s.reserved.any (fun r => decide (r.pa = pa)) then s
  else { s with reserved := s.reserved ++ [{ pa := pa, flight := key, lane := lane, cycle := s.cycle }] }

/-- Whether a priority attempt of a lane other than the lanes act of a flight holds one of the bytes (R252). -/
def State.held (s : State) (key : Nat) (act : Mask) (pa n : Nat) : Bool :=
  s.reserved.any (fun r => !(decide (r.flight = key) && act.getLsbD r.lane) && decide (r.pa < pa + n) && decide (pa < r.pa + 4))

/-- Whether a step from s to t changes a word at its home for which a reservation still stands in t (R252). -/
def State.disturbs (s t : State) : Bool := t.reserved.any (fun r => decide (wordAt s.mem r.pa ≠ wordAt t.mem r.pa))

/-- A change of memory by an agent that has no region attempt, an engine, the host or an eviction: it waits while it would change a
reserved word (R252). -/
def State.unlessHeld (s t : State) : State := if s.disturbs t then s else t

/-! Delivery (R6, R7, R343, R344). -/

/-- The lowest-numbered code of a list of faults that is not PAGE. -/
def lowestCode (fs : List LaneFault) : Option FCode :=
  (fs.filter (fun x => decide (x.code ≠ .page))).foldl
    (fun m x => match m with
      | none => some x.code
      | some c => if x.code.num < c.num then some x.code else some c) none

/-- Whether a launch has a handler role that takes user traps (R6, R15). -/
def Launch.takesTraps (la : Launch) : Bool := la.roles.any (fun r => r.handler && r.traps)

/-- Takes the exception of an instruction: delivers the faults of lanes whose records are written. PAGE alone parks the
slot; a user trap is held for the handler role and stops the slot with its trapped lanes; without such a role, or from a
handler flight, and for a machine fault, the gang ends (R6, R7, R34, R343, R344). count is what ERET 2 skips, in words. The
lanes of extra met no fault, but the instruction left them unfinished. Lanes that a cancellation has stopped meanwhile neither park
nor trap, and lanes that wait for a handler already do not trap again. What a slot replays stays when a late fault traps. -/
def State.deliver (s : State) (key : Nat) (slotB : Bool) (la : Launch) (pc : Word) (decode hdrBad : Bool) (count : Nat)
    (extra : Mask) (fs : List LaneFault) (late : Option Late := none) : State :=
  match Tbl.find s.flights key with
  | none => s
  | some f =>
    let x := f.slot slotB
    let lanes := (maskOf (fs.map (·.lane)) ||| extra) &&& x.mask &&& ~~~x.trapped
    match lowestCode fs with
    | none =>
      if lanes = 0 then s else s.putFlight key (f.setSlot slotB { x with park := lanes, parkSeq := s.ringEnd, replay := none })
    | some c =>
      let gang := ((la.wgAt (keyCore key)).map (·.gang)).getD 0
      if c = .ecc ∨ f.kind = .handler ∨ la.takesTraps = false then s.endGang f.launch gang c
      else if lanes = 0 then s
      else
        let low := lowLane lanes
        let mine := (fs.filter (fun y => decide (y.code = c))).head?
        let t : TrapInfo :=
          { code := c.num, n := BitVec.ofNat 8 ((mine.map (·.n)).getD 0), pc := pc, mask := lanes, who := whoWord key slotB low,
            va := (((fs.filter (fun y => decide (y.lane = low))).head?).map (·.va)).getD 0, flight := key, slotB := slotB,
            decode := decode, hdrBad := hdrBad, count := count, late := late }
        (s.putFlight key (f.setSlot slotB { x with trapped := x.trapped ||| lanes, replay := if late.isSome then x.replay else none })).modWg
          f.launch (keyCore key)
          (fun w => { w with held := w.held ++ [.trap t] })

/-- The membership of the gallery of a core (R156). -/
def State.members (s : State) (core k : Nat) : Cells 32 := ((Tbl.find s.barriers (64 * core + k)).map (·.members)).getD []

/-- A flight with OWN and ITER as one of its pending instructions read them at issue (R163). -/
def Flight.asOf (f : Flight) (p : Pending) : Flight := { f with own := p.own, iter := p.iter }

/-- The arrivals of a gallery-mode expansion whose total is too large take the fault: the records of all of them are written, and then
it is delivered flight by flight (R7, R157). While the fault ring is full they stay listed under a total past the limit (R303). -/
def State.failForm (s : State) (slot : Nat) (x : Expansion) : State :=
  let base := 64 * (slot / 16)
  if s.ringRoom = 0 then { s with expans := Tbl.put s.expans slot { x with total := 2 ^ 32 } }
  else
    let late := x.arrivals.filterMap (fun a => (Tbl.find s.flights (base + a.flight)).bind (fun f =>
      (f.pending.find? (fun p => decide (p.seq = a.seq))).bind (fun p => (Tbl.find s.launches f.launch.toNat).map (fun la => (a, f, p, la)))))
    let faults (a : Arrival) : List LaneFault := a.lanes.map (fun l => plainFault .expand l.1)
    let s1 := late.foldl (fun s e => s.records (base + e.1.flight) (e.2.1.asOf e.2.2.1) e.2.2.1.slotB e.2.2.2.ctx0 e.2.2.1.pc (faults e.1))
      { s with expans := Tbl.del s.expans slot }
    late.foldl (fun s e =>
      (s.modFlight (base + e.1.flight) (fun f => f.resolve e.1.seq .finished)).deliver (base + e.1.flight) e.2.2.1.slotB e.2.2.2 e.2.2.1.pc
        false false 2 0 (faults e.1) (some (.clause e.1.clause))) s1

/-- Forms a gallery-mode expansion whose arrivals equal the membership of its gallery (R156, R157). When the total is too
large, each participating flight takes the fault for its own lanes. -/
def State.tryForm (s : State) (slot : Nat) : State :=
  match Tbl.find s.expans slot with
  | none => s
  | some x =>
    match x.gallery with
    | none => s
    | some g =>
      let n := x.arrivals.foldl (fun n a => n + a.lanes.length) 0
      if x.isOpen || x.arrivals.isEmpty then s
      else if 2 ^ 32 ≤ x.total then s.failForm slot x
      else if n ≠ maskCount (s.members (slot / 16) g) then s
      else
        let keys := sortNat (x.arrivals.map (·.flight))
        let as := keys.flatMap (fun k => (x.arrivals.filter (fun a => decide (a.flight = k))).flatMap (fun a =>
          a.lanes.map (fun l => (k, l))))
        let r := gatherParts as
        let base := 64 * (slot / 16)
        if r.2 ≤ 2 ^ 32 - 1 then
          let s1 := { s with expans := Tbl.put s.expans slot (formed (some g) r.1 r.2) }
          x.arrivals.foldl (fun s a => s.modFlight (base + a.flight) (fun f =>
            f.resolve a.seq (.write (if a.d = 127 then [] else a.lanes.map (fun l => (a.d, l.1, BitVec.ofNat 32 r.2))) [] 0))) s1
        else s.failForm slot x

/-- Whether the barrier wait of a slot is over: its phase has completed (R321, R323). -/
def State.phaseOver (s : State) (core : Nat) : Wait → Bool
  | .barrier k ph => decide (((Tbl.find s.barriers (64 * core + k)).map (·.phase)) ≠ some ph)
  | _ => false

/-- Lets one slot depart from a phase that has completed: the acquiring side of R211, and the slot goes on (R321, R323). -/
def State.depart (s : State) (key : Nat) (slotB : Bool) : State :=
  match Tbl.find s.flights key with
  | none => s
  | some f =>
    if (f.slot slotB).live && s.phaseOver (keyCore key) (f.slot slotB).wait then
      (s.acquire (keyCore key)).putFlight key (f.wake slotB)
    else s

/-- Every slot of a core that waits on a phase that has completed departs (R321). -/
def State.wakeBarriers (s : State) (core : Nat) : State :=
  (s.flights.filter (fun e => decide (e.1 / 64 = core))).foldl (fun s e => (s.depart e.1 false).depart e.1 true) s

/-- What follows when lanes of a core have ended: phases that their departure completed are left, and expansions close, combine or form
(R156, R160, R161, R321). -/
def State.lanesGone (s : State) (core : Nat) : State :=
  (List.range 16).foldl (fun s e => (s.expanUpdate (16 * core + e)).tryForm (16 * core + e)) (s.wakeBarriers core)

/-- Ends the lanes of a slot that wait for it as EXIT would, once the slot has no pending instruction: its windows close, and its other lanes
go on (R50, R344, R347). -/
def State.endTrapped (s : State) (key : Nat) (slotB : Bool) : State :=
  match Tbl.find s.flights key with
  | none => s
  | some f =>
    let x := f.slot slotB
    match x.wait with
    | .ending skip lanes =>
      if f.undone slotB ≠ [] then s
      else
        let f1 := (f.closeWindows slotB).setSlot slotB { x with trapped := x.trapped &&& ~~~lanes, wait := .none, replay := none }
        let s1 := (s.putFlight key f1).exitLanes key slotB (lanes &&& x.mask)
        let s2 := if skip = 0 then s1
          else s1.modFlight key (fun f => if (f.slot slotB).live then (f.advance slotB skip).settle else f)
        (s2.lanesGone (keyCore key)).tidyFlight key
    | _ => s

/-- A slot whose lanes end when nothing of it is pending, beside those that wait for that already; its others then go on past some words. -/
def Slot.endsWith (x : Slot) (skip : Nat) (lanes : Mask) : Slot :=
  { x with wait := match x.wait with
      | .ending n m => .ending (max n skip) (m ||| lanes)
      | _ => .ending skip lanes }

/-- Moves the trapped slot on when its handler has ended (R344, R347): 1 replays, 2 resumes after, other values end the lanes as EXIT
would. A slot whose trapped lanes were all stopped meanwhile goes on past the instruction. An instruction that trapped when a resumption
had issued it again is pending: it is issued once more for 1, and is over for other values (log entry 59). -/
def State.dispose (s : State) (t : TrapInfo) (v : Nat) : State :=
  match Tbl.find s.flights t.flight with
  | none => s
  | some f =>
    let x := f.slot t.slotB
    if x.trapped &&& t.mask = 0 then s
    else
      let m := x.trapped &&& t.mask &&& x.mask
      let y := { x with trapped := x.trapped &&& ~~~t.mask }
      let pre := decide (t.code = FCode.undef.num) || decide (t.code = FCode.hazard.num) || decide (t.code = FCode.priv.num)
      let again (seq : Nat) (go : Bool) (f : Flight) : Flight := { f with pending := f.pending.map (fun (p : Pending) => match p.act with
        | .trapped a => if p.seq = seq then { p with act := if go then .again a 0 else .finished } else p
        | _ => p) }
      match t.late with
      | some (.load seq) =>
        if v = 1 ∨ v = 2 ∨ m = 0 then s.putFlight t.flight (again seq (decide (v = 1)) (f.setSlot t.slotB y))
        else
          (s.putFlight t.flight (again seq false (f.setSlot t.slotB (x.endsWith 0 m)))).endTrapped t.flight t.slotB
      | _ =>
      if v = 1 ∧ m ≠ 0 then
        let z := match t.late with
          | some (.clause c) => { y with pc := t.pc, clause := c }
          | _ => y
        s.putFlight t.flight (f.setSlot t.slotB { z with replay := if t.decode || pre then none else some m })
      else if (v = 2 ∨ m = 0) ∧ t.late.isSome then s.putFlight t.flight (f.setSlot t.slotB y)
      else if (v = 2 ∨ m = 0) ∧ t.hdrBad = false then
        let f' := f.setSlot t.slotB { y with replay := none }
        s.putFlight t.flight ((if t.decode then f'.goto t.slotB (y.pc + BitVec.ofNat 32 (4 * t.count))
          else f'.advance t.slotB t.count).settle)
      else
        (s.putFlight t.flight (f.setSlot t.slotB { x.endsWith (if t.decode || t.late.isSome then 0 else t.count) m with
          replay := none })).endTrapped t.flight t.slotB

/-- What follows when lanes of a flight have ended: a handler whose lanes have all exited disposes of its trap, the trapped flight may
retire in turn, and workgroups retire (R22, R347). -/
def State.retireIf (s0 : State) (key : Nat) : State :=
  let s := s0.lanesGone (keyCore key)
  match Tbl.find s.flights key with
  | none => s
  | some f =>
    if f.finished then
      match f.trap with
      | some t => ((s.dispose t 0).tidyFlight t.flight).tidyFlight key
      | none => s.tidyFlight key
    else s

/-- The end of lanes of a slot and what follows from it. -/
def State.lanesEnd (s : State) (key : Nat) (slotB : Bool) (lanes : Mask) : State := (s.exitLanes key slotB lanes).retireIf key

/-! Readiness (R27). -/

/-- Special registers that a pending instruction will change (R48). -/
def changesSpecial (i : Instr) (n : Nat) : Bool :=
  match i with
  | .enext .. => decide (n = 11) || decide (n = 12)
  | .scopeOpen .. => decide (n = 17)
  | .scopeClose .. => decide (n = 17)
  | .aend .. => decide (n = 20)
  | .abegin .. => decide (n = 20)
  | _ =>
    decide (n = 14) && (match i.op with
      | some op => decide (op / 64 = 3)
      | none => false)

/-- Whether an instruction reads SCOPE (R48). -/
def readsScope : Instr → Bool
  | .spawn .. => true
  | .atrPush .. => true
  | .cqry .. => true
  | .dstep .. => true
  | .chain .. => true
  | .poolAlloc .. => true
  | .scopeOpen .. => true
  | .scopeClose .. => true
  | _ => false

/-- Whether a pending instruction is an acquiring event that holds its slot's later accesses (R218). -/
def acquires : Instr → Bool
  | .ld _ _ _ _ _ ord _ _ => decide (ord = .acq)
  | .atom _ _ _ _ _ ord _ _ => decide (ord = .acq)
  | .acas _ _ _ _ _ ord _ _ _ => decide (ord = .acq)
  | .dcas _ _ _ _ _ _ _ ord => decide (ord = .acq)
  | .amove _ _ _ _ _ _ _ ord => decide (ord = .acq)
  | .aend _ acq _ => acq
  | .fwait .. => true
  | .ftest .. => true
  | .poolAlloc .. => true
  | _ => false

/-- Memory-class, ATM, MMA and ENG instructions (R218). -/
def isAccess (i : Instr) : Bool :=
  match i.op with
  | some op => decide (op / 64 ∈ [6, 7, 8, 10])
  | none => false

/-- Whether a pending instruction is an access that a release waits for; a wait for a tile is none (R217). -/
def Pending.isAccess (p : Pending) : Bool :=
  Sys2Proof.Machine.isAccess p.instr && (match p.act with
    | .atrPop .. => false
    | _ => true)

/-- Whether a 32-bit counter has passed a token (R323, R325). -/
def passedToken (count tok : Word) : Bool := decide (1 ≤ (count - tok).toInt)

/-- Whether a barrier's phase number has passed a token (R323). -/
def Barrier.after (b : Barrier) (tok : Word) : Bool := passedToken b.phase tok

/-- The core that a landing reference or a scratchpad access names from a core of a launch; none when a remote core holds no
running member of the gang (R195, R325). -/
def Launch.peer (la : Launch) (core : Nat) (remote : Bool) (cih : Nat) : Option Nat :=
  let there := core / 4 * 4 + cih
  if remote = false ∨ there = core then some core
  else
    match la.wgAt core, la.wgAt there with
    | some me, some w => if w.gang = me.gang ∧ w.retired = false then some there else none
    | _, _ => none

/-- Where a landing reference leads: the fault it raises, or the core and the scratchpad offset of the landing word (R324,
R325). -/
def Launch.landAt (la : Launch) (core : Nat) (r : Word) : Except FCode (Nat × Nat) :=
  let o := 16 * (fld r 0 11).toNat
  if zf r 18 14 = false ∨ (bit r 17 = false ∧ zf r 15 2 = false) then .error .bounds
  else if la.winSize (fld r 11 4).toNat < o + 16 then .error .bounds
  else
    match la.peer core (bit r 17) (fld r 15 2).toNat with
    | none => .error .prot
    | some there => .ok (there, (la.winAt there (fld r 11 4).toNat).start + o)

/-- Whether the landing word that a reference names has passed a generation token (R325). -/
def State.landed (s : State) (key : Nat) (f : Flight) (r tok : Word) : Bool :=
  match (Tbl.find s.launches f.launch.toNat).map (fun (la : Launch) => la.landAt (keyCore key) r) with
  | some (.ok a) => passedToken (wordAt (s.scr a.1) (a.2 + 8)) tok
  | _ => false

/-- Whether an instruction reads or writes the scratchpad for its slot (R140, R196, R286). -/
def usesScratch : Instr → Bool
  | .lds .. => true
  | .sts .. => true
  | .mma .. => true
  | .mmas .. => true
  | .mmag .. => true
  | .mload .. => true
  | .mstore .. => true
  | .atrPop .. => true
  | .landInit .. => true
  | _ => false

/-- Whether an instruction waits for a pending instruction of its slot beside the window rules (R48, R218, R251), or for the tile that
a pending ATR.POP of its slot will write (R140, R196, R286). -/
def waitsFor (i : Instr) (p : Pending) : Bool :=
  (acquires p.instr && isAccess i) ||
  (usesScratch i && (match p.act with
    | .atrPop .. => true
    | _ => false)) ||
  match i with
  | .srd _ n => changesSpecial p.instr n.toNat
  | .astat .. => (match p.instr.op with
      | some op => decide (op / 64 = 7)
      | none => false)
  | _ => readsScope i && changesSpecial p.instr 17

/-- Whether what a slot waits for, beside events of their own, is over. -/
def State.waitOver (s : State) (key : Nat) (f : Flight) (slotB : Bool) : Bool :=
  match (f.slot slotB).wait with
  | .none => true
  | .barWait k toks => ((Tbl.find s.barriers (64 * keyCore key + k)).map (fun b => toks.all (fun t => b.after t.2))).getD false
  | .land refs => refs.all (fun r => s.landed key f r.2.1 r.2.2)
  | .timeline ctx _ vals _ => vals.all (fun v => decide (v.2.toNat ≤ (s.ctx ctx).timeline))
  | .yielded c => decide (c < s.cycle)
  | _ => false

/-- Whether a pending instruction waits to be issued again after a resumption (R340, R342). -/
def Pending.anew (p : Pending) : Bool :=
  match p.act with
  | .again _ _ => true
  | .trapped _ => true
  | _ => false

/-- Whether a slot stands free of parking, traps, joins and waits, of instructions that a resumption issues again, and of records that
wait for room in the fault ring (R27, R303, R342). -/
def State.slotClear (s : State) (key : Nat) (f : Flight) (slotB : Bool) : Bool :=
  let x := f.slot slotB
  x.live && decide (x.park = 0) && decide (x.trapped = 0) && decide (x.join = .no) && s.waitOver key f slotB &&
    !(f.undone slotB).any Pending.anew && !s.ringHolds f.order slotB

/-- Whether an instruction of a slot waits neither for pending ones nor for the matrix unit (R27, R48, R49, R139). -/
def State.admits (s : State) (key : Nat) (f : Flight) (slotB : Bool) (i : Instr) : Bool :=
  let un := f.undone slotB
  un.all (fun p => decide (0 < p.window)) && (i.lookahead.isNone || decide (un.length < 8)) && !un.any (waitsFor i) &&
    (decide (i.pendClass ≠ .mat) || decide ((Tbl.find s.matBusy (4 * keyCore key + keyPart key)).getD 0 ≤ s.cycle))

/-- Whether an instruction of a slot could issue now (R27, R48, R49, R139). -/
def State.ready (s : State) (key : Nat) (f : Flight) (slotB : Bool) (i : Instr) : Bool :=
  s.slotClear key f slotB && (f.slot slotB).clause.isSome && s.admits key f slotB i

/-! Issue (R40, R48 to R50, R56, R241). -/

/-- The instruction's place: what its meaning works with. act holds the lanes it acts for. -/
structure Place where
  key   : Nat
  slotB : Bool
  la    : Launch
  act   : Mask
  pc    : Word
deriving DecidableEq, Repr

def Place.core (p : Place) : Nat := keyCore p.key
def Place.part (p : Place) : Nat := keyPart p.key

/-- A barrier of a core (R319). -/
def State.bar (s : State) (core k : Nat) : Barrier := (Tbl.find s.barriers (64 * core + k)).getD Barrier.reset

/-- Whether a barrier is bound to another workgroup than that of a place (R320). -/
def Barrier.foreign (b : Barrier) (p : Place) : Bool := decide (b.bound ≠ none) && decide (b.bound ≠ some p.la.word)

/-- What a meaning answers: done, the slot then moving past the instruction, with lanes that fault or abort; whole, lanes having faulted
and no lane having acted; ended, the same as done with lanes gone from the slot, after which the flight may retire; moved, the meaning
having moved the slot itself; stall, the instruction not being ready to issue, so that nothing happens; or await, the slot waiting in the
instruction, which issues again when the wait is over (R27). -/
inductive Body where
  | done (s : State) (fs : List LaneFault) (as : List LaneAbort)
  | whole (s : State) (fs : List LaneFault)
  | ended (s : State)
  | moved (s : State)
  | stall
  | await (w : Wait)

/-- An instruction that writes memory for its lanes at once does not issue while that would change a word reserved for a priority
attempt (R252). -/
def Body.unlessHeld (s : State) : Body → Body
  | .done t fs as => if s.disturbs t then .stall else .done t fs as
  | b => b

/-- The flight of a place, in a state. -/
def State.flight (s : State) (key : Nat) : Option Flight := Tbl.find s.flights key

/-- The predicate that the guard of a clause reads with the clause's first instruction (R40): none for pt, and none once it is
read. -/
def Slot.guardRead (x : Slot) : List Nat :=
  match x.clause with
  | some c => if c.guard.isNone && decide (hdrGuard c.hdr ≠ 15) then [(hdrGuard c.hdr).toNat] else []
  | none => []

/-- Whether an instruction touches the destination of an instruction in whose window it stands (R48). Every general register
is a destination of AEND (R246). The guard of a clause is read when its first instruction issues, and counts as read by it (R40, R216,
log entry 55). An access that an acquiring instruction has held back issues after that has completed, so that it touches nothing of it that
is still to be written (R218). -/
def hazard (f : Flight) (slotB : Bool) (i : Instr) : Bool :=
  let u := i.use
  let read := (f.slot slotB).guardRead ++ u.pr
  let all := match i with
    | .aend .. => true
    | _ => false
  f.pending.any (fun p => decide (p.slotB = slotB) && decide (0 < p.window) && !(acquires p.instr && isAccess i) &&
    ((all && !p.gdest.isEmpty) || p.gdest.any (fun r => u.gr.contains r || u.gw.contains r) || p.pdest.any (fun r => read.contains r || u.pw.contains r)))

/-- Counts one issued instruction in every window of its slot (R48). -/
def Flight.tick (f : Flight) (slotB : Bool) : Flight :=
  let ps := f.pending.map (fun (p : Pending) => if p.slotB = slotB then { p with window := p.window - 1 } else p)
  { f with pending := ps.filter (fun p => !(p.done && decide (p.window = 0))) }

/-- What an instruction has read stays read: a resumption does not issue it again (R212, R342, log entry 59). -/
def PendAct.pinned : PendAct → PendAct
  | .reading g _ => .write g [] 0
  | .product g idle _ => .product g idle none
  | a => a

/-- Whether an instruction still reads memory, or has read it and may do so once more. -/
def PendAct.reads : PendAct → Bool
  | .load _ _ _ _ => true
  | .reading _ _ => true
  | _ => false

/-- What the instructions of a slot before a number have read stays read. -/
def Flight.pin (f : Flight) (slotB : Bool) (seq : Nat) : Flight :=
  { f with pending := f.pending.map (fun p => if p.slotB = slotB ∧ p.seq < seq then { p with act := p.act.pinned } else p) }

/-- Whether an instruction acts at once on what its slot's earlier loads and products read, and is never pending: a SYN instruction, which may
read or change counters and landing words. -/
def actsAtOnce (i : Instr) : Bool :=
  match i.op with
  | some op => decide (op / 64 = 11)
  | none => false

/-- Before an instruction that acts at once, what its slot's earlier instructions have read stays read, so that a resumption makes no read of
them follow it (R212 to R215, log entry 59). -/
def Flight.fixed (f : Flight) (slotB : Bool) (i : Instr) : Flight := if actsAtOnce i then f.pin slotB f.nextSeq else f

/-- Adds a pending instruction (R48, R49). When it acts for a lane and is no load, what its slot's earlier instructions have read stays
read. -/
def Flight.addPending (f0 : Flight) (slotB : Bool) (i : Instr) (pc : Word) (act : Mask) (done : Bool) (a : PendAct) : Flight :=
  let u := i.use
  let f := if act = 0 ∨ a.reads = true then f0 else f0.pin slotB f0.nextSeq
  let p : Pending := { slotB := slotB, seq := f.nextSeq, instr := i, pc := pc, mask := act, cls := i.pendClass,
                       window := i.lookahead.getD 0, gdest := u.gw, pdest := u.pw, done := done, act := a, own := f.own, iter := f.iter }
  { f with pending := f.pending ++ (if done && decide (p.window = 0) then [] else [p]), nextSeq := f.nextSeq + 1 }

/-- The lanes that the clause's guard leaves on (R40). -/
def Flight.guardMask (f : Flight) (c : Clause) : Mask :=
  match c.guard with
  | some g => g
  | none => if hdrGneg c.hdr then ~~~(f.pMask (hdrGuard c.hdr).toNat) else f.pMask (hdrGuard c.hdr).toNat

/-- What a region does with an instruction that its lane executes: none when it is admitted (R241). LD and ST are decided by
their meanings. -/
def regionCause (i : Instr) : Option Nat :=
  match i with
  | .abegin .. => some 10
  | .exit => some 6
  | .trap .. => some 7
  | .brk .. => some 7
  | .ld .. => none
  | .st .. => none
  | .lds .. => none
  | .ldp .. => none
  | .aend .. => none
  | .aabort => none
  | .astat .. => none
  | _ =>
    match i.op with
    | none => some 6
    | some op =>
      match op / 64 with
      | 0 | 1 | 2 | 3 | 4 | 5 => none
      | 9 => if op % 64 < 32 then none else some 6
      | _ => some 6

/-- The tag of a lane's register; gz is concrete. -/
def Region.tag (r : Region) (reg : Nat) : Tag := (Tbl.find r.tags reg).getD .concrete

/-- Sets the tag of a register. -/
def Region.setTag (r : Region) (reg : Nat) (t : Tag) : Region :=
  if reg = 127 then r
  else
    match t with
    | .concrete => { r with tags := Tbl.del r.tags reg }
    | .sym _ _ => { r with tags := Tbl.put r.tags reg t }

/-- Makes a read entry hard (R243). -/
def Region.harden (r : Region) (k : Nat) : Region :=
  { r with reads := (List.range r.reads.length).zip r.reads |>.map (fun e => if e.1 = k then { e.2 with hard := true } else e.2) }

/-- Hardens what the registers listed are made of. -/
def Region.hardenRegs (r : Region) (regs : List Nat) : Region :=
  regs.foldl (fun r reg => match r.tag reg with
    | .sym k _ => r.harden k
    | .concrete => r) r

/-- The constraint that a compare would record in a lane, if it has one symbolic operand (R243, R244). -/
def newConstraint (f : Flight) (r : Region) (lane : Nat) (signed : Bool) (cc : CC) (a : Reg) (bTag : Tag) (bVal : Word)
    (outcome : Bool) : Option Constraint :=
  match r.tag a.toNat, bTag with
  | .sym k c, .concrete => some { k := k, c := c, signed := signed, cc := cc, v := bVal, symLeft := true, outcome := outcome }
  | .concrete, .sym k c =>
    some { k := k, c := c, signed := signed, cc := cc, v := f.g lane a, symLeft := false, outcome := outcome }
  | _, _ => none

/-- Whether an integer comparison holds (R81). -/
def icmpHolds (signed : Bool) (cc : CC) (a b : Word) : Bool :=
  match cc with
  | .eq => decide (a = b)
  | .ne => decide (a ≠ b)
  | .lt => if signed then a.slt b else a.ult b
  | .le => if signed then a.sle b else a.ule b
  | .gt => if signed then b.slt a else b.ult a
  | .ge => if signed then b.sle a else b.ule a
  | _ => false

/-- The constraint of a compare instruction in a lane with an open region. -/
def constraintOf (f : Flight) (lane : Nat) (r : Region) : Instr → Option Constraint
  | .icmpI _ cc a b => newConstraint f r lane true cc a (r.tag b.toNat) (f.g lane b) (icmpHolds true cc (f.g lane a) (f.g lane b))
  | .icmpN _ cc a b =>
    newConstraint f r lane false cc a (r.tag b.toNat) (f.g lane b) (icmpHolds false cc (f.g lane a) (f.g lane b))
  | .icmpiI _ cc a imm =>
    newConstraint f r lane true cc a .concrete (imm.signExtend 32) (icmpHolds true cc (f.g lane a) (imm.signExtend 32))
  | _ => none

/-- Why an instruction aborts a lane's region before it issues: a disallowed instruction, or a ninth constraint
(R241, R245). -/
def admitCause (f : Flight) (i : Instr) (lane : Nat) : Option Nat :=
  match Tbl.find f.regions lane with
  | none => none
  | some r =>
    match regionCause i with
    | some c => some c
    | none =>
      match constraintOf f lane r i with
      | some c => if c ∈ r.cons then none else if 8 ≤ r.cons.length then some 5 else none
      | none => none

/-- The tags of a lane's region after an admitted instruction other than LD and ST (R243, R244). The flight holds the
registers as the instruction reads them. LDS writes nothing in a lane that is switched off: its meaning makes its registers concrete.
G2U and SWR harden their source in every active lane, though they read the lowest lane's alone: the model's choice (log entry 90). -/
def Region.after (r : Region) (f : Flight) (i : Instr) (lane : Nat) : Region :=
  let general (r : Region) : Region := (i.use.gw).foldl (fun r d => r.setTag d .concrete) (r.hardenRegs i.use.gr)
  let shifted (d a : Reg) (v : Word) : Region :=
    match r.tag a.toNat with
    | .sym k c => r.setTag d.toNat (.sym k (c + v))
    | .concrete => general r
  match i with
  | .mov d a _ => r.setTag d.toNat (r.tag a.toNat)
  | .iadd d a b _ =>
    match r.tag a.toNat, r.tag b.toNat with
    | .sym k c, .concrete => r.setTag d.toNat (.sym k (c + f.g lane b))
    | .concrete, .sym k c => r.setTag d.toNat (.sym k (c + f.g lane a))
    | _, _ => general r
  | .isub d a b _ =>
    match r.tag a.toNat, r.tag b.toNat with
    | .sym k c, .concrete => r.setTag d.toNat (.sym k (c - f.g lane b))
    | _, _ => general r
  | .iaddi d a imm => shifted d a (imm.signExtend 32)
  | .iadd32i d a _ imm => shifted d a imm
  | .ld .. => r
  | .st .. => r
  | .aend .. => r
  | .lds _ a .. => r.hardenRegs [a.toNat]
  | _ =>
    match constraintOf f lane r i with
    | some c => if c ∈ r.cons then r else { r with cons := r.cons ++ [c] }
    | none => general r

/-- Updates the regions of the active lanes for an admitted instruction. A one-word XPD instruction hardens in every lane it
reads, which are its active lanes (R243). -/
def Flight.retag (f : Flight) (i : Instr) (act : Mask) : Flight :=
  if f.regions = [] then f
  else { f with regions := f.regions.map (fun e => if act.getLsbD e.1 then (e.1, e.2.after f i e.1) else e) }

/-- A step that ends: it stops when an access went where no memory is (log entry 2). -/
def endStep (s : State) : Outcome State := if s.hole then .fault .physicalHole else .next s

/-- A slot that waits in the instruction at its PC. -/
def State.hold (s : State) (key : Nat) (slotB : Bool) (w : Wait) : State :=
  s.modFlight key (fun f => f.setSlot slotB { f.slot slotB with wait := w })

/-- Completes an instruction: writes the records of its faults, closes the regions of aborting lanes and places them, and
moves the slot on, unless its lanes stay, or delivers the faults. Faults other than ECC of lanes in regions are aborts with cause 7
(R249). s0 is the state before issue, which stays while the fault ring is full (R303, log entry 15) or aborting lanes must wait for
pending instructions (R250). Where a misaligned target aborts lanes of BRX, the slot's others go on at the instruction after it (log entry
69). -/
def finish (s0 s : State) (p : Place) (i : Instr) (extra : Mask) (fs : List LaneFault) (as : List LaneAbort) (go : Bool := true) :
    State :=
  match s.flight p.key with
  | none => s
  | some f =>
    let inside (x : LaneFault) : Bool := f.inRegion x.lane && decide (x.code ≠ .ecc)
    let fs' := fs.filter (fun x => !inside x)
    let as' := as ++ (fs.filter inside).map (fun x => { lane := x.lane, cause := 7, entry := 0 })
    if fs ≠ [] ∧ s.ringRoom = 0 then s0
    else if as' ≠ [] ∧ (((s0.flight p.key).getD f).undone p.slotB) ≠ [] then s0
    else
      let s1 := as'.foldl (fun s a => s.unreserve p.key a.lane) (s.records p.key f p.slotB p.la.ctx0 p.pc fs)
      let pcs := as'.map (fun a => (a.lane, ((Tbl.find f.regions a.lane).map (·.handler)).getD 0))
      let f1 := as'.foldl (fun f a => f.abortRegion a) f
      let f1 := if as' = [] then f1 else f1.closeWindows p.slotB
      match (if as' = [] then some f1 else f1.placeAborted p.slotB (groupLanes pcs)) with
      | none =>
        let ds := as'.map (fun a => plainFault .divstack a.lane)
        if s.ringRoom = 0 then s0
        else
          ((s1.putFlight p.key f1).records p.key f p.slotB p.la.ctx0 p.pc ds).deliver p.key p.slotB p.la p.pc false false i.words
            extra (fs' ++ ds)
      | some f2 =>
        let stay := decide (as' = []) || decide ((f.slot p.slotB).mask &&& ~~~(maskOf (as'.map (·.lane))) ≠ 0)
        if fs' ≠ [] then (s1.putFlight p.key f2).deliver p.key p.slotB p.la p.pc false false i.words extra fs'
        else s1.putFlight p.key (if stay && go then (f2.advance p.slotB i.words).settle else f2.settle)

/-- The lanes that an instruction of a slot acts for: those it is replayed for, else those that the clause's guard leaves on
(R40, R343). -/
def Flight.acting (f : Flight) (b : Bool) (c : Clause) : Mask :=
  match (f.slot b).replay with
  | some m => m &&& (f.slot b).mask
  | none => (f.slot b).mask &&& f.guardMask c

/-- A flight whose slot issues: the instruction counts in every open window (R48), the guard of the clause is fixed (R40), and
the slot neither waits nor ages any longer. -/
def Flight.begun (f : Flight) (b : Bool) (c : Clause) : Flight :=
  (if (f.slot b).replay.isSome then f else f.tick b).setSlot b
    { f.slot b with clause := some { c with guard := some (f.guardMask c) }, wait := .none, aged := 0, old := false }

/-- The aborts of the acting lanes whose regions do not admit an instruction (R241, R245). -/
def Flight.notAdmitted (f : Flight) (i : Instr) (act : Mask) : List LaneAbort :=
  (lanesOf act).filterMap (fun l => (admitCause f i l).map (fun c => (⟨l, c, 0⟩ : LaneAbort)))

/-- The records of TRAP and BRK in lanes whose regions they abort (R249). -/
def trapRecords (i : Instr) (out : List LaneAbort) : List LaneFault :=
  match i with
  | .trap n => (out.filter (fun a => decide (a.cause = 7))).map (fun a => { plainFault .trap a.lane with n := n.toNat })
  | .brk n => (out.filter (fun a => decide (a.cause = 7))).map (fun a => { plainFault .brk a.lane with n := n.toNat })
  | _ => []

/-- Issues a program instruction for the current slot and carries out its meaning: nothing happens while the slot is not
ready, which includes what the instruction itself must wait for before it issues (R27); the checks of R56 come before any effect, and before a region
disallows the instruction, which is the model's choice (R241, log entry 89); an instruction with no active lane only counts and moves on
(R40). -/
def issue (i : Instr) (s : State) (body : Place → State → Body) : Outcome State :=
  let key := s.cur.flight
  let b := s.cur.slotB
  match s.flight key with
  | none => .fault .noIssuingSlot
  | some f =>
    match Tbl.find s.launches f.launch.toNat with
    | none => .fault .noIssuingSlot
    | some la =>
      let x := f.slot b
      if x.live = false then .fault .noIssuingSlot
      else if s.ready key f b i = false then .next s
      else
        match x.clause with
        | none => .next s
        | some c =>
          let all : Place := { key := key, slotB := b, la := la, act := x.mask, pc := x.pc }
          let u := i.use
          if (u.gr ++ u.gw).any (fun r => decide (f.allot ≤ r)) then endStep (finish s s all i 0 (faultAll .undef x.mask) [])
          else if i.allowed f.kind = false then endStep (finish s s all i 0 (faultAll .priv x.mask) [])
          else if x.replay.isNone && hazard f b i then endStep (finish s s all i 0 (faultAll .hazard x.mask) [])
          else
            let f1 := f.begun b c
            let act := f.acting b c
            if act = 0 then
              let f2 := if i.lookahead.isSome then f1.addPending b i x.pc 0 true .finished else f1
              let f3 := if i = .exit then f2.closeWindows b else f2
              if i = .exit ∧ (f.undone b) ≠ [] then .next s
              else .next (s.putFlight key ((f3.advance b i.words).settle))
            else
              let out := f1.notAdmitted i act
              let act' := act &&& ~~~(maskOf (out.map (·.lane)))
              let p : Place := { all with act := act' }
              let rec7 := trapRecords i out
              let out' := if rec7 = [] then out else []
              let s1 := s.putFlight key ((f1.retag i act').fixed b i)
              if act' = 0 then endStep (finish s s1 p i 0 rec7 out')
              else
                match body p s1 with
                | .done s2 fs as => endStep (finish s s2 p i 0 (rec7 ++ fs) (out' ++ as))
                | .whole s2 fs => endStep (finish s s2 p i act' fs out')
                | .ended s2 => endStep ((finish s s2 p i 0 [] out').retireIf key)
                | .moved s2 => endStep s2
                | .stall => .next s
                | .await w => if out = [] then .next (s.hold key b w) else endStep (finish s s p i 0 [] out false)

end Sys2Proof.Machine
end

