-- ==== Sys2Proof/Machine/Flags.lean ====
section
/-! DEFINITION. The flags of FPSTAT (R107, R108), and the two shapes of instruction that compute lane by lane: those that
write their results at once (R74, R113) and those that write them when they complete (R47 to R49, R118). -/

namespace Sys2Proof.Machine

/-- ORs flags into FPSTAT (R107). -/
def Flight.raise (f : Flight) (flags : Word) : Flight := { f with fpstat := f.fpstat ||| (flags &&& 0x1F) }

/-- What an instruction computes in a lane: the values of d, d + 1, …, and the flags it raises. -/
abbrev LaneFn := Flight → Nat → List Word × Word

/-- A lane function of one value and no flag. -/
def plain (fn : Flight → Nat → Word) : LaneFn := fun f l => ([fn f l], 0)

/-- A lane function of one FP result. -/
def flagged (fn : Flight → Nat → FpRes) : LaneFn := fun f l => ([(fn f l).word], (fn f l).flags)

/-- The (register, lane, value) writes of a run of values from register d; a run that starts at gz is discarded. -/
def runWrites (d : Reg) (lane : Nat) (vs : List Word) : List (Nat × Nat × Word) :=
  if d.toNat = 127 then [] else ((List.range vs.length).zip vs).map (fun e => (d.toNat + e.1, lane, e.2))

/-- The writes of a lane function in the lanes of a mask, all sources read first. -/
def laneWrites (f : Flight) (act : Mask) (d : Reg) (fn : LaneFn) : List (Nat × Nat × Word) :=
  (lanesOf act).flatMap (fun l => runWrites d l (fn f l).1)

/-- The flags of a lane function over the lanes of a mask. -/
def laneFlags (f : Flight) (act : Mask) (fn : LaneFn) : Word := (lanesOf act).foldl (fun w l => w ||| (fn f l).2) 0

/-- The flight after a lane function has written its results and flags. -/
def Flight.alu (f : Flight) (act : Mask) (d : Reg) (fn : LaneFn) : Flight :=
  (f.setGs (laneWrites f act d fn)).raise (laneFlags f act fn)

/-- Predicate pd takes a value in each lane of a mask; the flags are ORed in. -/
def Flight.cmp (f : Flight) (act : Mask) (pd : PReg) (fn : Flight → Nat → Bool × Word) : Flight :=
  (f.setPs ((lanesOf act).map (fun l => (pd.toNat, l, (fn f l).1)))).raise
    ((lanesOf act).foldl (fun w l => w ||| (fn f l).2) 0)

/-- An instruction that changes only its flight. -/
def localOp (i : Instr) (s : State) (g : Place → Flight → Flight) : Outcome State :=
  issue i s (fun p s => .done (s.modFlight p.key (g p)) [] [])

/-- An ALU instruction (R74, R113). -/
def aluOp (i : Instr) (d : Reg) (fn : LaneFn) (s : State) : Outcome State := localOp i s (fun p f => f.alu p.act d fn)

/-- A compare (R81). -/
def cmpOp (i : Instr) (pd : PReg) (fn : Flight → Nat → Bool × Word) (s : State) : Outcome State :=
  localOp i s (fun p f => f.cmp p.act pd fn)

/-- Adds a pending instruction whose results are known (R49). -/
def Flight.later (f : Flight) (p : Place) (i : Instr) (act : PendAct) : Flight := f.addPending p.slotB i p.pc p.act false act

/-- A long-latency instruction that computes lane by lane: its sources are read now, its results and flags are written when
it completes (R48, R49, R108). -/
def longOp (i : Instr) (d : Reg) (fn : LaneFn) (s : State) : Outcome State :=
  localOp i s (fun p f => f.later p i (.write (laneWrites f p.act d fn) [] (laneFlags f p.act fn)))

/-- Whether the slot of a place has an access still pending (R217, R218). -/
def State.busy (s : State) (p : Place) : Bool :=
  ((s.flight p.key).map (fun f => (f.undone p.slotB).any Pending.isAccess)).getD false

end Sys2Proof.Machine
end

