-- ==== Sys2Proof/Machine/Region.lean ====
section
/-! DEFINITION. Atomic regions: the loads and stores of a lane inside one (R241 to R245), opening (R240), commit (R246 to
R248), explicit abort and status (R251). -/

namespace Sys2Proof.Machine

/-- What an instruction did for one lane: register writes, faults and aborts. -/
structure LaneRes where
  writes : List (Nat × Nat × Word)
  faults : List LaneFault
  aborts : List LaneAbort
deriving DecidableEq, Repr

def LaneRes.abort (lane cause : Nat) : LaneRes := { writes := [], faults := [], aborts := [⟨lane, cause, 0⟩] }
def LaneRes.fault (x : LaneFault) : LaneRes := { writes := [], faults := [x], aborts := [] }

/-- Changes the open region of a lane. -/
def State.modRegion (s : State) (key lane : Nat) (g : Region → Region) : State :=
  s.modFlight key (fun f => { f with regions := Tbl.modify f.regions lane g })

/-- Where a register names memory through a handle: the virtual address (R176). -/
def handleVa (h : Handle) (o : Int) : Nat := (((h.base : Int) + o) % 2 ^ 48).toNat

/-- Every core's dirty bytes of the word at a physical address go to its home (R219). -/
def State.settleWord (s : State) (pa : Nat) : State :=
  s.writeBack (fun b => if b.page = pa / 128 * 128 then bytesSpan pa 4 else 0)

/-- A region LD of one lane (R242): from the write set or the read set, memory then being checked but not read, or from memory as its
order says. The word that an attempt with priority reads is brought home first, so that no store made before the reservation changes it
there later (R252). What names a word of the sets is its virtual address (log entry 74), and a lane whose set would take a ninth entry aborts
before its access is checked further than for a valid handle (log entry 75). -/
def regionLd (p : Place) (idx : Nat) (hd : Option Handle) (na weak : Bool) (d a : Reg) (l : Nat) (o : Int) (r : Region)
    (s : State) : LaneRes × State :=
  match hd with
  | none => (LaneRes.fault (denyFault { code := .handle, va := 0, w := false, mal := false, handle := idx } l), s)
  | some h =>
    let va := handleVa h o
    let out (v : Word) : LaneRes := { writes := runWrites d l [v], faults := [], aborts := [] }
    let known := r.writes.find? (fun e => decide (e.va = va))
    let seen := ((List.range r.reads.length).zip r.reads).find? (fun e => decide (e.2.va = va))
    if known.isNone && seen.isNone && decide (8 ≤ r.reads.length) then (LaneRes.abort l 3, s)
    else
      let served := known.isSome || seen.isSome
      match s.check p.core p.la.ctx0 idx l hd o 4 (if served then .look else .read) (na || !weak) with
      | (.error x, s1) => (LaneRes.fault (denyFault x l), s1)
      | (.ok at_, s1) =>
        let s2 := s1.modRegion p.key l (fun r => r.hardenRegs [a.toNat])
        match known, seen with
        | some e, _ => (out e.val, s2.modRegion p.key l (fun r => r.setTag d.toNat e.tag))
        | none, some e => (out e.2.obs, s2.modRegion p.key l (fun r => r.setTag d.toNat (.sym e.1 0)))
        | none, none =>
          let s2 := if r.priority then s2.settleWord at_.pa else s2
          let s3 := if weak then s2.fillSpans p.core 4 [at_] else s2
          let v := s3.loadBytes p.core weak at_ 4
          let w := BitVec.ofNat 32 v.1
          let s4 := v.2.modRegion p.key l (fun r =>
            ({ r with reads := r.reads ++ [{ va := va, pa := at_.pa, obs := w, hard := false }] } : Region).setTag d.toNat
              (.sym r.reads.length 0))
          (out w, if r.priority then s4.reserve p.key l at_.pa else s4)

/-- A region ST of one lane (R242): the value goes to the write set with the tag of its register. The set's words are named, and a ninth entry
is refused, as for LD (log entries 74 and 75). -/
def regionSt (p : Place) (idx : Nat) (hd : Option Handle) (na : Bool) (d a : Reg) (v : Word) (l : Nat) (o : Int) (r : Region)
    (s : State) : LaneRes × State :=
  match hd with
  | none => (LaneRes.fault (denyFault { code := .handle, va := 0, w := true, mal := false, handle := idx } l), s)
  | some h =>
    let va := handleVa h o
    let known := r.writes.any (fun e => decide (e.va = va))
    if !known && decide (8 ≤ r.writes.length) then (LaneRes.abort l 4, s)
    else
      match s.check p.core p.la.ctx0 idx l hd o 4 .write na with
      | (.error x, s1) => (LaneRes.fault (denyFault x l), s1)
      | (.ok at_, s1) =>
        (⟨[], [], []⟩, s1.modRegion p.key l (fun r =>
          let e : WriteEnt := { va := va, pa := at_.pa, val := v, tag := r.tag d.toNat }
          let r1 := r.hardenRegs [a.toNat]
          { r1 with writes := if known then r1.writes.map (fun x => if x.va = va then e else x) else r1.writes ++ [e] }))

/-- A lane's ASTAT with the abort count kept: OPEN set, P when the count is 8 or more (R240). -/
def astatOpen (st : Word) : Word :=
  let n := (fld st 16 8).toNat
  BitVec.ofNat 32 (16 + (decide (8 ≤ n)).toNat * 512 + n * 65536)

/-- A lane's ASTAT after a commit: P kept, RP as given, no aborts (R247). -/
def astatDone (st : Word) (repaired : Bool) : Word :=
  BitVec.ofNat 32 (repaired.toNat * 256 + st.toNat / 512 % 2 * 512)

/-- ABEGIN (R240). Lanes that have an open region abort with cause 10 before it issues. -/
def execAbegin (off : Word) (s : State) : Outcome State :=
  issue (.abegin off) s (fun p s =>
    if ((s.flight p.key).map (fun f => !(f.undone p.slotB).isEmpty)).getD false then .stall
    else
      .done (s.modFlight p.key (fun f => (lanesOf p.act).foldl (fun f l =>
        let st := astatOpen (Cells.get f.astat l)
        { f with
          astat := Cells.set f.astat l st
          regions := Tbl.put f.regions l { handler := target p.pc 2 off, reads := [], writes := [], cons := [], tags := [],
                                           priority := st.getLsbD 9 } })
        (f.addPending p.slotB (.abegin off) p.pc p.act false .finished))) [] [])

/-- A word of a region's sets as an access of a context. -/
def setWord (l ctx va pa : Nat) : LaneAddr := { lane := l, host := false, ctx := ctx, va := va, pa := pa, uncached := true, handle := 0 }

/-- Translates the words of a set anew, each with its entry (R227, R253, R272). -/
def againSet {α : Type} (l ctx : Nat) (need : Need) (at_ : α → Nat × Nat) (put : Nat → α → α) (es : List α) (s : State) :
    Except Deny (List α) × State :=
  let r := thread (fun e s => let v := s.again (setWord l ctx (at_ e).1 (at_ e).2) need; ((e, v.1), v.2)) es s
  (r.1.foldr (fun x acc => match x.2, acc with
    | .error d, _ => .error d
    | .ok _, .error d => .error d
    | .ok a, .ok es => .ok (put a.pa x.1 :: es)) (.ok []), r.2)

/-- The sets of a region with the addresses that they have at commit, or the first denial of one of their words: a TLBI, a restripe or a
change of a leaf since takes effect (R227, R253, R271, R272). -/
def Region.retranslated (r : Region) (s : State) (l ctx : Nat) : Except Deny Region × State :=
  let rd := againSet l ctx .read (fun (e : ReadEnt) => (e.va, e.pa)) (fun pa e => { e with pa := pa }) r.reads s
  let wr := againSet l ctx .write (fun (e : WriteEnt) => (e.va, e.pa)) (fun pa e => { e with pa := pa }) r.writes rd.2
  match rd.1, wr.1 with
  | .error d, _ => (.error d, wr.2)
  | .ok _, .error d => (.error d, wr.2)
  | .ok rs, .ok ws => (.ok { r with reads := rs, writes := ws }, wr.2)

/-- The value at which each read entry is taken at commit, lock held (R247), and whether an uncorrectable error was met (R206, R254). -/
def currentValues (s : State) (core : Nat) (r : Region) : List (Word × Bool) × State :=
  thread (fun (e : ReadEnt) s =>
    let c := s.consume core e.pa 4 false
    let v := c.2.coreRead core e.pa 4
    ((BitVec.ofNat 32 v.1, c.1), v.2)) r.reads s

/-- The value of a tag under the values taken. -/
def tagValue (upd : List Word) (t : Tag) (concrete : Word) : Word :=
  match t with
  | .concrete => concrete
  | .sym k c => upd.getD k 0 + c

/-- Whether a constraint still gives its outcome (R244, R247). -/
def Constraint.again (c : Constraint) (upd : List Word) : Bool :=
  let x := upd.getD c.k 0 + c.c
  decide (icmpHolds c.signed c.cc (if c.symLeft then x else c.v) (if c.symLeft then c.v else x) = c.outcome)

/-- The first number at which a test holds. -/
def firstIndex {α : Type} (q : α → Bool) (xs : List α) : Option Nat := (xs.findIdx? q)

/-- What a lane's commit gives: an abort, a fault, which is an uncorrectable error in a word it reads (R206, R254) or the denial of a word that
its page or its permission has left since (R249, R272), or its register writes and whether it repaired a read (R247). -/
inductive Commit where
  | abort (a : LaneAbort)
  | fault (x : LaneFault)
  | ok (writes : List (Nat × Nat × Word)) (repaired : Bool)

/-- The commit of one lane's region (R247, R248). -/
def commitLane (p : Place) (l : Nat) (r0 : Region) (s : State) : Commit × State :=
  match r0.retranslated s l p.la.ctx0 with
  | (.error d, s0) => (.fault (denyFault d l), s0)
  | (.ok r, s0) =>
    let c := currentValues s0 p.core r
    let upd := c.1.map (·.1)
    match (r.reads.zip c.1).find? (fun e => e.2.2) with
    | some e => (.fault { plainFault .ecc l with va := e.1.va }, c.2)
    | none =>
      let changed := (r.reads.zip upd).map (fun e => (e.1, decide (e.1.obs ≠ e.2)))
      match firstIndex (fun (e : ReadEnt × Bool) => e.2 && e.1.hard) changed with
      | some k => (.abort ⟨l, 1, k⟩, c.2)
      | none =>
        match firstIndex (fun (x : Constraint) => !x.again upd) r.cons with
        | some i => (.abort ⟨l, 2, i⟩, c.2)
        | none =>
          let s1 := r.writes.foldl (fun s e => s.homeWrite p.core e.pa 4 (tagValue upd e.tag e.val).toNat) c.2
          let ws := r.tags.filterMap (fun e => match e.2 with
            | .sym k v => some (e.1, l, upd.getD k 0 + v)
            | .concrete => none)
          (.ok ws (changed.any (fun e => e.2)), (s1.modFlight p.key (fun f =>
            { f with regions := Tbl.del f.regions l,
                     astat := Cells.set f.astat l (astatDone (Cells.get f.astat l) (changed.any (fun e => e.2))) })).unreserve p.key l)

/-- Whether a commit of these lanes would change a word reserved for another attempt (R252). -/
def commitHeld (s : State) (ctx key : Nat) (f : Flight) (act : Mask) : Bool :=
  (lanesOf act).any (fun l => match Tbl.find f.regions l with
    | some r => r.writes.any (fun e => (s.peek ctx e.va).any (fun x => s.held key act (x.pa + (e.va - x.base)) 4))
    | none => false)

/-- AEND (R246 to R248). -/
def execAend (rel acq : Bool) (pd : PReg) (s : State) : Outcome State :=
  issue (.aend rel acq pd) s (fun p s =>
    match s.flight p.key with
    | none => .done s [] []
    | some f =>
      if rel && s.busy p then .stall
      else if commitHeld s p.la.ctx0 p.key f p.act then .stall
      else
        let s0 := if rel then s.release p.core else s
        let rs := thread (fun l s =>
          match (s.flight p.key).bind (fun f => Tbl.find f.regions l) with
          | none => ((l, Commit.ok [] false), s)
          | some r => let c := commitLane p l r s; ((l, c.1), c.2)) (lanesOf p.act) s0
        let gw := rs.1.flatMap (fun e => match e.2 with
          | .ok ws _ => ws
          | _ => [])
        let pw := rs.1.filterMap (fun e => match e.2 with
          | .ok _ b => some (pd.toNat, e.1, b)
          | _ => none)
        let out := rs.1.filterMap (fun e => match e.2 with
          | .abort a => some a
          | _ => none)
        let fs := rs.1.filterMap (fun e => match e.2 with
          | .fault x => some x
          | _ => none)
        .done (rs.2.modFlight p.key (fun f =>
          f.addPending p.slotB (.aend rel acq pd) p.pc (p.act &&& ~~~(maskOf (out.map (·.lane) ++ fs.map (·.lane)))) false (.write gw pw 0)))
          fs out)

/-- AABORT (R251): the region of each active lane aborts with cause 9. -/
def execAabort (s : State) : Outcome State :=
  issue .aabort s (fun p s =>
    let out := ((lanesOf p.act).filter (fun l => ((s.flight p.key).map (fun f => f.inRegion l)).getD false)).map
      (fun l => (⟨l, 9, 0⟩ : LaneAbort))
    .done (s.modFlight p.key (fun f =>
      f.addPending p.slotB .aabort p.pc (p.act &&& ~~~(maskOf (out.map (·.lane)))) (decide (out ≠ [])) .finished)) [] out)

/-- ASTAT (R251). -/
def execAstat (d : Reg) (la : BitVec 4) (s : State) : Outcome State :=
  longOp (.astat d la) d (plain (fun f l => Cells.get f.astat l)) s

end Sys2Proof.Machine
end

