-- ==== Sys2Proof/Machine/Access.lean ====
section
/-! DEFINITION. The access instructions: fences (R217), global loads and stores (R182 to R185), PREF and CCTL (R186, R187),
private memory (R188 to R190), scratchpad (R192 to R197), and per-lane copies (R202 to R204). -/

namespace Sys2Proof.Machine

/-- Bytes of a width (R183). -/
def Width.bytes : Width → Nat
  | .s8 => 1
  | .z8 => 1
  | .s16 => 2
  | .z16 => 2
  | .w32 => 4
  | .w64 => 8
  | .w128 => 16

/-- The registers that a loaded value gives (R183). -/
def loadWords (wd : Width) (v : Nat) : List Word :=
  match wd with
  | .s8 => [(BitVec.ofNat 8 v).signExtend 32]
  | .z8 => [BitVec.ofNat 32 (v % 256)]
  | .s16 => [(BitVec.ofNat 16 v).signExtend 32]
  | .z16 => [BitVec.ofNat 32 (v % 65536)]
  | .w32 => [BitVec.ofNat 32 v]
  | .w64 => [BitVec.ofNat 32 v, BitVec.ofNat 32 (v / 2 ^ 32)]
  | .w128 => [BitVec.ofNat 32 v, BitVec.ofNat 32 (v / 2 ^ 32), BitVec.ofNat 32 (v / 2 ^ 64), BitVec.ofNat 32 (v / 2 ^ 96)]

/-- The value of n words in a row of registers, the lowest register lowest (R184). -/
def regsValue (f : Flight) (l : Nat) (d : Reg) : Nat → Nat
  | 0 => 0
  | n + 1 => regsValue f l d n + (f.gAt l d n).toNat * 2 ^ (32 * n)

/-- The value that a store of a width takes from its registers (R184). -/
def storeValue (f : Flight) (l : Nat) (d : Reg) (wd : Width) : Nat :=
  regsValue f l d (Width.regs wd) % 256 ^ (Width.bytes wd)

/-- The offset of each lane of a mask: a register read as unsigned plus an immediate, exactly (R176, R193). -/
def offsets (f : Flight) (act : Mask) (a : Reg) (imm : Int) : List (Nat × Int) :=
  (lanesOf act).map (fun l => (l, ((f.g l a).toNat : Int) + imm))

/-- Checks the access of every lane in order. -/
def State.checks (s : State) (core ctx idx : Nat) (hd : Option Handle) (n : Nat) (need : Need) (na : Bool)
    (offs : List (Nat × Int)) : List (Nat × Except Deny LaneAddr) × State :=
  thread (fun (x : Nat × Int) s => let r := s.check core ctx idx x.1 hd x.2 n need na; ((x.1, r.1), r.2)) offs s

/-- The addresses of the lanes that passed, and the faults of the others. -/
def passed (rs : List (Nat × Except Deny LaneAddr)) : List LaneAddr :=
  rs.filterMap (fun r => match r.2 with
    | .ok a => some a
    | .error _ => none)
def denied (rs : List (Nat × Except Deny LaneAddr)) : List LaneFault :=
  rs.filterMap (fun r => match r.2 with
    | .ok _ => none
    | .error x => some (denyFault x r.1))

/-- Reads memory for the lanes of a load (R180, R183). -/
def State.loadNow (s : State) (core : Nat) (weak : Bool) (d : Nat) (wd : Width) (as : List LaneAddr) :
    List (Nat × Nat × Word) × State :=
  let s1 := if weak then s.fillSpans core (Width.bytes wd) as else s
  let r := thread (fun (a : LaneAddr) s =>
    let v := s.loadBytes core weak a (Width.bytes wd)
    (runWrites (BitVec.ofNat 7 d) a.lane (loadWords wd v.1), v.2)) as s1
  (r.1.flatten, r.2)

/-- A load reads the bytes of its lanes: the lanes that meet an uncorrectable error in them, where errors stand (R206). -/
def State.loadCheck (s : State) (core : Nat) (weak : Bool) (n : Nat) (as : List LaneAddr) : List LaneAddr × State :=
  if s.errors.isEmpty then ([], s)
  else
    let r := thread (fun (a : LaneAddr) (s : State) =>
      if a.host then ([], s)
      else
        let c := s.consume core a.pa n (weak && !a.uncached)
        (if c.1 then [a] else [], c.2)) as s
    (r.1.flatten, r.2)

/-- A pending load reads memory: the values that it will write, or the lanes that met an uncorrectable error. -/
def State.loadPending (s : State) (core d : Nat) (wd : Width) (ord : Order) (ls : List LaneAddr) : PendAct × State :=
  let c := s.loadCheck core (decide (ord = .weak)) (Width.bytes wd) ls
  if c.1 = [] then let v := c.2.loadNow core (decide (ord = .weak)) d wd ls; (.write v.1 [] 0, v.2)
  else (.bad d wd ord c.1 ls, c.2)

/-- Whether two lanes' accesses touch a common byte. -/
def LaneAddr.meets (x : LaneAddr) (n : Nat) (y : LaneAddr) (m : Nat) : Bool :=
  decide (x.host = y.host) && decide (x.pa < y.pa + m) && decide (y.pa < x.pa + n)

/-- Makes the pending loads of a slot that overlap bytes about to be written read memory first: a load never returns a later
write of its own thread (R212). -/
def State.loadsFirst (s : State) (key : Nat) (slotB : Bool) (as : List LaneAddr) (n : Nat) : State :=
  match s.flight key with
  | none => s
  | some f =>
    let r := thread (fun (p : Pending) s =>
      match p.act with
      | .load d wd ord ls =>
        if !p.done && decide (p.slotB = slotB) && ls.any (fun x => as.any (fun y => x.meets (Width.bytes wd) y n)) then
          let v := s.loadPending (keyCore key) d wd ord ls
          ({ p with act := v.1 }, v.2)
        else (p, s)
      | _ => (p, s)) f.pending s
    r.2.modFlight key (fun f => { f with pending := r.1 })

/-- Adds the pending instruction of a place, for the lanes that it acted for (R49). -/
def State.later (s : State) (p : Place) (i : Instr) (lanes : Mask) (act : PendAct) : State :=
  s.modFlight p.key (fun f => f.addPending p.slotB i p.pc lanes false act)

/-- The lanes of a mask that have an open region, and the others. -/
def regionLanes (f : Flight) (act : Mask) : List (Nat × Region) :=
  (lanesOf act).filterMap (fun l => (Tbl.find f.regions l).map (fun r => (l, r)))
def plainMask (f : Flight) (act : Mask) : Mask := maskOf ((lanesOf act).filter (fun l => !f.inRegion l))

/-- FENCE.REL, FENCE.ACQ and FENCE.AR (R217): the slot waits for what it issued, then releases and acquires. -/
def fenceOp (i : Instr) (rel acq : Bool) (s : State) : Outcome State :=
  issue i s (fun p s =>
    if s.busy p then .stall
    else
      let s1 := if rel then s.release p.core else s
      .done (if acq then s1.acquire p.core else s1) [] [])

/-- FENCE.ACQ (R217). -/
def execFenceAcq (s : State) : Outcome State := fenceOp .fenceAcq false true s

/-- FENCE.REL (R217). -/
def execFenceRel (s : State) : Outcome State := fenceOp .fenceRel true false s

/-- FENCE.AR (R217). -/
def execFenceAr (s : State) : Outcome State := fenceOp .fenceAr true true s

/-- Whether a region admits an LD or ST: 32 bits, weak or strong, not through a valid host-space entry (R241). -/
def regionAdmits (wd : Width) (ord : Order) (hd : Option Handle) : Bool :=
  decide (wd = .w32) && (decide (ord = .weak) || decide (ord = .strong)) && !((hd.map (·.host)).getD false)

/-- LD (R183). A weak load reads memory when it completes, other loads at issue (log entry 11). -/
def execLd (d a : Reg) (na : Bool) (la : BitVec 4) (h : BitVec 10) (ord : Order) (wd : Width) (imm : BitVec 17) (s : State) :
    Outcome State :=
  issue (.ld d a na la h ord wd imm) s (fun p s =>
    match s.flight p.key with
    | none => .done s [] []
    | some f =>
      let weak := decide (ord = .weak)
      let ctx := p.la.ctx0
      let hd := s.handle p.core ctx h.toNat
      let reg := thread (fun (x : Nat × Region) s =>
        if regionAdmits wd ord hd.1 then
          regionLd p h.toNat hd.1 na weak d a x.1 (((f.g x.1 a).toNat : Int) + imm.toInt) x.2 s
        else (LaneRes.abort x.1 6, s)) (regionLanes f p.act) hd.2
      let rs := reg.2.checks p.core ctx h.toNat hd.1 (Width.bytes wd) .read (na || !weak) (offsets f (plainMask f p.act) a imm.toInt)
      let ok := passed rs.1
      let fs := reg.1.flatMap (·.faults) ++ denied rs.1
      let as := reg.1.flatMap (·.aborts)
      let gw := reg.1.flatMap (·.writes)
      let good := p.act &&& ~~~(maskOf (fs.map (·.lane) ++ as.map (·.lane)))
      let i := Instr.ld d a na la h ord wd imm
      if weak && gw.isEmpty then .done (rs.2.later p i good (.load d.toNat wd ord ok)) fs as
      else
        let v := rs.2.loadNow p.core weak d.toNat wd ok
        .done (v.2.later p i good (.reading (gw ++ v.1) (.mem d.toNat wd ord ok))) fs as)

/-- ST (R184). -/
def execSt (d a : Reg) (na : Bool) (la : BitVec 4) (h : BitVec 10) (ord : Order) (wd : Width) (imm : BitVec 17) (s : State) :
    Outcome State :=
  issue (.st d a na la h ord wd imm) s (fun p s =>
    match s.flight p.key with
    | none => .done s [] []
    | some f =>
      if decide (ord = .rel) && s.busy p then .stall
      else
        let weak := decide (ord = .weak)
        let ctx := p.la.ctx0
        let hd := s.handle p.core ctx h.toNat
        let reg := thread (fun (x : Nat × Region) s =>
          if regionAdmits wd ord hd.1 then
            regionSt p h.toNat hd.1 na d a (f.g x.1 d) x.1 (((f.g x.1 a).toNat : Int) + imm.toInt) x.2 s
          else (LaneRes.abort x.1 6, s)) (regionLanes f p.act) hd.2
        let rs := reg.2.checks p.core ctx h.toNat hd.1 (Width.bytes wd) .write (na || !weak) (offsets f (plainMask f p.act) a imm.toInt)
        let ok := passed rs.1
        let fs := reg.1.flatMap (·.faults) ++ denied rs.1
        let as := reg.1.flatMap (·.aborts)
        let good := p.act &&& ~~~(maskOf (fs.map (·.lane) ++ as.map (·.lane)))
        if ok.any (fun x => !x.host && s.held p.key p.act x.pa (Width.bytes wd)) then .stall
        else
          let s1 := if ord = .rel ∧ ok ≠ [] then rs.2.release p.core else rs.2
          let s2 := s1.loadsFirst p.key p.slotB ok (Width.bytes wd)
          let s3 := s2.storeLanes p.core weak (Width.bytes wd) (ok.map (fun x => (x, storeValue f x.lane d wd)))
          .done (s3.later p (.st d a na la h ord wd imm) good .finished) fs as)

/-- Brings the words of n bytes at an address from their channel or vault into the home slice, whose contents equal memory: errors are
corrected and counted, or logged (R186, R206). -/
def State.fetchHome (s : State) (n : Nat) (a : LaneAddr) : State :=
  if a.host || a.uncached then s
  else s.fillErrors (a.pa / 128 * 128) (wordSpan (a.pa % 128 / 4) ((a.pa % 128 + n - 1) / 4))

/-- PREF (R186): fills the L1 with the lanes' spans, or with .L2 only the home slice. A lane that a check denies is skipped; an uncached
or host-space handle makes it do nothing. -/
def execPref (a : Reg) (l2 : Bool) (la : BitVec 4) (h : BitVec 10) (wd : Width) (imm : BitVec 17) (s : State) : Outcome State :=
  issue (.pref a l2 la h wd imm) s (fun p s =>
    match s.flight p.key with
    | none => .done s [] []
    | some f =>
      let hd := s.handle p.core p.la.ctx0 h.toNat
      let done (s : State) : Body := .done (s.later p (.pref a l2 la h wd imm) p.act .finished) [] []
      if (hd.1.map (fun x => x.host || decide (x.policy = 2))).getD false then done hd.2
      else
        let rs := hd.2.checks p.core p.la.ctx0 h.toNat hd.1 (Width.bytes wd) .look false (offsets f p.act a imm.toInt)
        done (if l2 then (passed rs.1).foldl (fun s x => s.fetchHome (Width.bytes wd) x) rs.2
          else rs.2.fillSpans p.core (Width.bytes wd) (passed rs.1)))

/-- What CCTL does to the block of a core that holds an address (R187). -/
def State.cctlBlock (s : State) (core ctx va : Nat) (op : CctlOp) : State :=
  let hit (b : L1Block) : Bool := b.isAt core ctx va
  let wb (s : State) : State := s.writeBack (fun b => if hit b then b.dirtyWords else 0)
  match op with
  | .wb => wb s
  | .inv =>
    let cut (b : L1Block) : L1Block := { b with valid := b.valid &&& b.dirtyWords, owned := b.owned &&& b.dirtyWords }
    let keep (b : L1Block) : Bool := !(hit b) || decide (b.valid ≠ 0) || decide (b.dirty ≠ 0)
    { s with l1 := (s.l1.map (fun b => if hit b then cut b else b)).filter keep }
  | .wbinv => let s1 := wb s; { s1 with l1 := s1.l1.filter (fun b => !hit b) }

/-- Why CCTL denies a lane: HANDLE or BOUNDS alone (R187). -/
def cctlDeny (idx : Nat) (hd : Option Handle) (o : Int) : Option Deny :=
  match hd with
  | none => some { code := .handle, va := 0, w := false, mal := false, handle := idx }
  | some h => if o < 0 ∨ (h.size : Int) < o + 1 then
      some { code := .bounds, va := handleVa h o, w := false, mal := false, handle := idx } else none

/-- CCTL (R187). -/
def execCctl (a : Reg) (op : CctlOp) (la : BitVec 4) (h : BitVec 10) (imm : BitVec 17) (s : State) : Outcome State :=
  issue (.cctl a op la h imm) s (fun p s =>
    match s.flight p.key with
    | none => .done s [] []
    | some f =>
      let hd := s.handle p.core p.la.ctx0 h.toNat
      let offs := offsets f p.act a imm.toInt
      let fs := offs.filterMap (fun x => (cctlDeny h.toNat hd.1 x.2).map (fun y => denyFault y x.1))
      let good := p.act &&& ~~~(maskOf (fs.map (·.lane)))
      let s1 := offs.foldl (fun s x => match hd.1 with
        | none => s
        | some e => if (cctlDeny h.toNat hd.1 x.2).isNone && !e.host && decide (e.policy ≠ 2) then
            s.cctlBlock p.core p.la.ctx0 (handleVa e x.2) op else s) hd.2
      .done (s1.later p (.cctl a op la h imm) good .finished) fs [])

/-! Private memory. -/

/-- The private words of the role of a flight (R190). -/
def privLimit (p : Place) (f : Flight) : Int := ((p.la.roles[f.role]?).map (fun r => (r.privWords : Int))).getD 0

/-- The first word index of each lane of a private access (R190). -/
def privIndex (f : Flight) (act : Mask) (a : Reg) (imm : BitVec 17) : List (Nat × Int) :=
  (lanesOf act).map (fun l => (l, (f.g l a).toInt + imm.toInt))

/-- The lanes whose index is out of range (R190). -/
def privBad (p : Place) (f : Flight) (wd : Width) (xs : List (Nat × Int)) : List Nat :=
  (xs.filter (fun x => decide (x.2 < 0) || decide (privLimit p f < x.2 + (Width.regs wd : Int)))).map (·.1)

/-- The fault of a private access: its record carries the address of the lowest word that the lane names (R356). -/
def privFault (f : Flight) (code : FCode) (w : Bool) (x : Nat × Int) : LaneFault :=
  { lane := x.1, code := code, n := 0, va := (((f.privBase : Int) + (32 * x.2 + x.1) * 4) % 2 ^ 48).toNat, w := w,
    mal := false, handle := 0 }

/-- The faults of the lanes whose index is out of range (R190). -/
def privFaults (f : Flight) (w : Bool) (xs : List (Nat × Int)) (bad : List Nat) : List LaneFault :=
  (xs.filter (fun x => bad.contains x.1)).map (privFault f .stackLimit w)

/-- The private word of a lane with an index: from the block in L1 where that holds it, else from the flight's private memory, which
reads zero until it is written (R189). -/
def Flight.privWord (f : Flight) (idx l : Nat) : Word :=
  match f.pblocks.find? (fun b => decide (b.index = idx) && b.valid.getLsbD l) with
  | some b => Cells.get b.words l
  | none => Cells.get f.privs (32 * idx + l)

/-- The word indices that a private access of n words a lane names, ascending, each with its lanes (R191). -/
def privUses (n : Nat) (xs : List (Nat × Int)) : List (Nat × Mask) :=
  (sortNat (xs.flatMap (fun x => (List.range n).map (x.2.toNat + ·)))).map (fun i =>
    (i, maskOf ((xs.filter (fun x => decide (x.2.toNat ≤ i) && decide (i < x.2.toNat + n))).map (·.1))))

/-- The block of a flight with an index: the one listed, or a new empty one, for which the core's L1 makes room without any memory read
(R189). -/
def State.privBlock (s : State) (key idx : Nat) : PrivBlock × State :=
  match (s.flight key).bind (fun f => f.pblocks.find? (fun b => decide (b.index = idx))) with
  | some b => (b, s)
  | none => ({ index := idx, valid := 0, dirty := 0, words := [] }, s.roomL1 (keyCore key))

/-- Lists a private block in place of any with its index. -/
def Flight.putPriv (f : Flight) (b : PrivBlock) : Flight :=
  { f with pblocks := f.pblocks.filter (fun x => decide (x.index ≠ b.index)) ++ [b] }

/-- One L1 request of an LDP: the words from the lowest to the highest lane of an index, of which those that are not valid come from the
flight's private memory. It answers the lanes that meet an uncorrectable error there; one in a word that no lane consumes is logged
(R191, R206). -/
def State.privFetch (s0 : State) (key : Nat) (u : Nat × Mask) : List Nat × State :=
  let r := s0.privBlock key u.1
  match r.2.flight key with
  | none => ([], r.2)
  | some f =>
    let ls := lanesOf u.2
    let span := wordSpan (ls.headD 0) (ls.getLastD 0)
    let miss := span &&& ~~~r.1.valid
    let hit (e : Nat × Bool) : Bool := decide (e.1 / 32 = u.1) && miss.getLsbD (e.1 % 32)
    let bad := f.privErrs.filter (fun e => hit e && e.2)
    let soft := f.privErrs.filter (fun e => hit e && !e.2)
    let words := (lanesOf miss).foldl (fun c l => Cells.set c l (Cells.get f.privs (32 * u.1 + l))) r.1.words
    let f1 := ({ f with privErrs := f.privErrs.filter (fun e => !(hit e && !e.2)) } : Flight).putPriv
      { r.1 with valid := r.1.valid ||| miss, words := words }
    ((bad.map (fun e => e.1 % 32)).filter (fun l => ls.contains l),
     { r.2.putFlight key f1 with telemetry := { r.2.telemetry with
        corrected := r.2.telemetry.corrected + soft.length
        logged := r.2.telemetry.logged + (bad.filter (fun e => !ls.contains (e.1 % 32))).length } })

/-- One L1 request of an STP: the words of an index that lanes write become valid and dirty (R180, R189, R191). -/
def State.privStore (s0 : State) (key idx : Nat) (ws : List (Nat × Word)) : State :=
  let r := s0.privBlock key idx
  let m := maskOf (ws.map (·.1))
  r.2.modFlight key (fun f => f.putPriv
    { r.1 with valid := r.1.valid ||| m, dirty := r.1.dirty ||| m, words := ws.foldl (fun c e => Cells.set c e.1 e.2) r.1.words })

/-- The words of an LDP that has fetched them: n words from the first index of each lane (R190). -/
def Flight.privReads (f : Flight) (d : Reg) (n : Nat) (xs : List (Nat × Int)) : List (Nat × Nat × Word) :=
  xs.flatMap (fun x => runWrites d x.1 ((List.range n).map (fun i => f.privWord (x.2.toNat + i) x.1)))

/-- LDP (R190). -/
def execLdp (d a : Reg) (la : BitVec 4) (wd : Width) (imm : BitVec 17) (s : State) : Outcome State :=
  issue (.ldp d a la wd imm) s (fun p s =>
    match s.flight p.key with
    | none => .done s [] []
    | some f =>
      let xs := privIndex f p.act a imm
      let bad := privBad p f wd xs
      let good := xs.filter (fun x => !bad.contains x.1)
      let r := thread (fun (u : Nat × Mask) s => s.privFetch p.key u) (privUses (Width.regs wd) good) s
      let ecc := r.1.flatten
      let g := (r.2.flight p.key).getD f
      let again := good.filter (fun x => !ecc.contains x.1)
      let ws := g.privReads d (Width.regs wd) again
      .done (r.2.later p (.ldp d a la wd imm) (p.act &&& ~~~(maskOf (bad ++ ecc))) (.reading ws (.priv d.toNat (Width.regs wd) again)))
        (privFaults f false xs bad ++ (good.filter (fun x => ecc.contains x.1)).map (privFault f .ecc false)) [])

/-- STP (R190). -/
def execStp (d a : Reg) (la : BitVec 4) (wd : Width) (imm : BitVec 17) (s : State) : Outcome State :=
  issue (.stp d a la wd imm) s (fun p s =>
    match s.flight p.key with
    | none => .done s [] []
    | some f =>
      let xs := privIndex f p.act a imm
      let bad := privBad p f wd xs
      let good := xs.filter (fun x => !bad.contains x.1)
      let word (i l : Nat) : Word := (good.find? (fun x => decide (x.1 = l))).elim 0 (fun x => f.gAt l d (i - x.2.toNat))
      let s1 := (privUses (Width.regs wd) good).foldl (fun s u => s.privStore p.key u.1 ((lanesOf u.2).map (fun l => (l, word u.1 l)))) s
      .done (s1.later p (.stp d a la wd imm) (p.act &&& ~~~(maskOf bad)) .finished) (privFaults f true xs bad) [])

/-! Scratchpad. -/

/-- The core that a scratchpad access goes to; none when a remote core holds no running member of the gang (R195). -/
def scrCore (p : Place) (remote : Bool) (cih : BitVec 2) : Option Nat := p.la.peer p.core remote cih.toNat

/-- What R193 says of one lane's access. -/
inductive ScrLane where
  | align
  | off
  | at (a : Nat)
deriving DecidableEq, Repr

/-- R193 for one lane: n bytes at offset o of a window. -/
def scrLane (w : WinAt) (o n : Nat) : ScrLane :=
  if o % n ≠ 0 then .align
  else if w.ring then .at (w.start + o % w.size)
  else if w.size < o + n then .off
  else .at (w.start + o)

/-- Sets the FMASK bits of switched-off lanes (R193, R197). -/
def Flight.scratchOff (f : Flight) (ls : List Nat) : Flight := { f with fmask := f.fmask ||| maskOf ls }

/-- Where each lane of a scratchpad access goes. -/
def scrPlaces (f : Flight) (act : Mask) (a : Reg) (off : Nat) (w : WinAt) (n : Nat) : List (Nat × ScrLane) :=
  (lanesOf act).map (fun l => (l, scrLane w ((f.g l a).toNat + off) n))

def scrAligned (xs : List (Nat × ScrLane)) : List Nat :=
  xs.filterMap (fun x => if x.2 = .align then some x.1 else none)
def scrOffs (xs : List (Nat × ScrLane)) : List Nat := xs.filterMap (fun x => if x.2 = .off then some x.1 else none)
def scrGood (xs : List (Nat × ScrLane)) : List (Nat × Nat) :=
  xs.filterMap (fun x => match x.2 with
    | .at a => some (x.1, a)
    | _ => none)

/-- In the lanes that LDS writes, its registers are concrete (R243). -/
def State.ldsTags (s : State) (key : Nat) (lanes : List Nat) (d : Reg) (n : Nat) : State :=
  s.modFlight key (fun f => if f.regions = [] then f
    else { f with regions := f.regions.map (fun e => if lanes.contains e.1 then
      (e.1, (List.range n).foldl (fun r i => r.setTag (d.toNat + i) .concrete) e.2) else e) })

/-- LDS (R194). -/
def execLds (d a : Reg) (la : BitVec 4) (win : BitVec 4) (remote : Bool) (cih : BitVec 2) (wd : Width) (off : BitVec 17)
    (s : State) : Outcome State :=
  issue (.lds d a la win remote cih wd off) s (fun p s =>
    match s.flight p.key, scrCore p remote cih with
    | none, _ => .done s [] []
    | _, none => .done s (faultAll .prot p.act) []
    | some f, some core =>
      let xs := scrPlaces f p.act a off.toNat (p.la.winAt core win.toNat) (Width.bytes wd)
      let bad := (scrGood xs).filter (fun x => s.scrBad core x.2 (Width.bytes wd))
      let good := (scrGood xs).filter (fun x => !s.scrBad core x.2 (Width.bytes wd))
      let s1 := (s.scrErrors core ((scrGood xs).flatMap (fun x => (List.range (Width.bytes wd)).map (x.2 + ·)))).2
      let ws := good.flatMap (fun x => runWrites d x.1 (loadWords wd (leValue (s.scr core) x.2 (Width.bytes wd))))
      let fs := (scrAligned xs).map (plainFault .align) ++ bad.map (fun x => plainFault .ecc x.1)
      .done (((s1.modFlight p.key (fun f => f.scratchOff (scrOffs xs))).ldsTags p.key (good.map (·.1)) d (Width.regs wd)).later p
        (.lds d a la win remote cih wd off)
        (maskOf (good.map (·.1) ++ scrOffs xs)) (.write ws [] 0)) fs [])

/-- A fault of a scratchpad store: its record says that the access writes (R303). -/
def storeFault (code : FCode) (lane : Nat) : LaneFault := { plainFault code lane with w := true }

/-- STS (R194). -/
def execSts (d a : Reg) (la : BitVec 4) (win : BitVec 4) (remote : Bool) (cih : BitVec 2) (wd : Width) (off : BitVec 17)
    (s : State) : Outcome State :=
  issue (.sts d a la win remote cih wd off) s (fun p s =>
    match s.flight p.key, scrCore p remote cih with
    | none, _ => .done s [] []
    | _, none => .done s ((lanesOf p.act).map (storeFault .prot)) []
    | some f, some core =>
      let xs := scrPlaces f p.act a off.toNat (p.la.winAt core win.toNat) (Width.bytes wd)
      let good := scrGood xs
      let c := good.foldl (fun c x => putValue c x.2 (Width.bytes wd) (storeValue f x.1 d wd)) (s.scr core)
      .done ((((s.setScr core c).scrClean core (good.flatMap (fun x => (List.range (Width.bytes wd)).map (x.2 + ·)))).modFlight p.key (fun f => f.scratchOff (scrOffs xs))).later p
        (.sts d a la win remote cih wd off) (maskOf (good.map (·.1) ++ scrOffs xs)) .finished)
        ((scrAligned xs).map (storeFault .align)) [])

/-! Per-lane copies. -/

/-- Bytes a lane of COPYL copies (R202). -/
def CopySize.bytes : CopySize → Nat
  | .b4 => 4
  | .b8 => 8
  | .b16 => 16

/-- The words of one lane's copy: sources word by word, and where they land (R203). -/
def copyWords (x : LaneAddr) (dst n : Nat) : List CopyWord :=
  (List.range (n / 4)).map (fun i =>
    { src := { x with va := x.va + 4 * i, pa := x.pa + 4 * i }, dst := dst + 4 * i, landed := false, counted := none, val := none })

/-- COPYL (R202 to R204). The probe comes first: any fault stops every lane, and a PAGE fault alone parks the whole
instruction. A landing word outside its window gives every lane BOUNDS, but for one whose global side met PROT, a lower code (R7, log entry
72). -/
def execCopyl (d a : Reg) (n : CopySize) (la : BitVec 4) (h : BitVec 10) (win : BitVec 4) (remote : Bool) (cih : BitVec 2)
    (lwin : BitVec 4) (loff : BitVec 11) (s : State) : Outcome State :=
  let i := Instr.copyl d a n la h win remote cih lwin loff
  issue i s (fun p s =>
    match s.flight p.key, scrCore p remote cih with
    | none, _ => .done s [] []
    | _, none => .done s (faultAll .prot p.act) []
    | some f, some core =>
      let hd := s.handle p.core p.la.ctx0 h.toNat
      let rs := hd.2.checks p.core p.la.ctx0 h.toNat hd.1 (CopySize.bytes n) .read false (offsets f p.act a 0)
      let lw := p.la.winAt core lwin.toNat
      let skew := (lanesOf p.act).filter (fun l => decide ((f.g l d).toNat % (CopySize.bytes n) ≠ 0))
      let far := decide (p.la.winSize lwin.toNat < 16 * loff.toNat + 16)
      let fs := (denied rs.1 ++ (skew.filter (fun l => !((denied rs.1).any (fun x => decide (x.lane = l))))).map (plainFault .align)).filter
        (fun x => !far || decide (x.code = .prot))
      let fs := if far then
          fs ++ ((lanesOf p.act).filter (fun l => !(fs.any (fun x => decide (x.lane = l))))).map (plainFault .bounds)
        else fs
      if fs ≠ [] then
        .whole rs.2 fs
      else if 64 ≤ ((Tbl.find s.copies p.core).getD []).length then .stall
      else
        let xs := scrPlaces f p.act d 0 (p.la.winAt core win.toNat) (CopySize.bytes n)
        let words := (passed rs.1).flatMap (fun x =>
          match (scrGood xs).find? (fun y => decide (y.1 = x.lane)) with
          | some y => copyWords x y.2 (CopySize.bytes n)
          | none => [])
        let s1 := rs.2.modFlight p.key (fun f => f.scratchOff (scrOffs xs))
        let c : Copy := { id := s1.copySeq, launch := f.launch, dstCore := core, land := lw.start + 16 * loff.toNat, words := words,
                          flight := p.key % 64, slotB := p.slotB, pc := p.pc, handle := h.toNat, own := f.own, iter := f.iter, parkSeq := none }
        let s2 := if words = [] then s1
          else { s1 with copySeq := s1.copySeq + 1,
                         copies := Tbl.put s1.copies p.core (((Tbl.find s1.copies p.core).getD []) ++ [c]) }
        .done (s2.later p i p.act .finished) fs [])

end Sys2Proof.Machine
end

