-- ==== Sys2Proof/Machine/Atomic.lean ====
section
/-! DEFINITION. Atomics on one word and on two (R231 to R239). Each lane's operation is one step at the homes of its words,
lanes in ascending order. -/

namespace Sys2Proof.Machine

/-- The new value of ATOM for 32-bit words (R232). -/
def atomWord (op : AtomOp) (old v : Word) : Word :=
  match op with
  | .add => old + v
  | .minI => if v.slt old then v else old
  | .minN => if v < old then v else old
  | .maxI => if old.slt v then v else old
  | .maxN => if old < v then v else old
  | .and => old &&& v
  | .or => old ||| v
  | .xor => old ^^^ v
  | .exch => v
  | .fadd => (rneAdd old v).word
  | .fmin => (fp32.minmax false old.toNat v.toNat).word
  | .fmax => (fp32.minmax true old.toNat v.toNat).word

/-- The new value of ATOM for 64-bit words (R232); the floating operations have no such form. -/
def atomDWord (op : AtomOp) (old v : DWord) : DWord :=
  match op with
  | .add => old + v
  | .minI => if v.slt old then v else old
  | .minN => if v < old then v else old
  | .maxI => if old.slt v then v else old
  | .maxN => if old < v then v else old
  | .and => old &&& v
  | .or => old ||| v
  | .xor => old ^^^ v
  | _ => v

/-- The new value of ATOM as a number of 4 or 8 bytes. -/
def atomValue (op : AtomOp) (wide : Bool) (old v : Nat) : Nat :=
  if wide then (atomDWord op (BitVec.ofNat 64 old) (BitVec.ofNat 64 v)).toNat
  else (atomWord op (BitVec.ofNat 32 old) (BitVec.ofNat 32 v)).toNat

/-- The value of a register or a pair as a number. -/
def wordsValue (f : Flight) (l : Nat) (r : Reg) (wide : Bool) : Nat := regsValue f l r (if wide then 2 else 1)

/-- Reads n bytes at their home for an atomic (R233, R238). -/
def State.atHome (s : State) (core : Nat) (x : LaneAddr) (n : Nat) : Nat × State :=
  if x.host then (leValue s.hostMem x.pa n, s.hostTouch x.pa true) else s.coreRead core x.pa n

/-- The checks of a two-address atomic for one lane: A before B, a host-space handle raising PROT (R238). AMOVE only writes at B, so that it
consumes nothing there (R206, R237). -/
def State.checkTwo (s : State) (core ctx i1 i2 lane : Nat) (h1 h2 : Option Handle) (oA oB : Int) (n : Nat) (needB : Need) :
    Except Deny (LaneAddr × LaneAddr) × State :=
  let one (s : State) (idx : Nat) (hd : Option Handle) (o : Int) (need : Need) : Except Deny LaneAddr × State :=
    match s.check core ctx idx lane hd o n need true with
    | (.ok x, s') =>
      if x.host then (.error { code := .prot, va := x.va, w := true, mal := false, handle := idx }, s') else (.ok x, s')
    | r => r
  match one s i1 h1 oA .atomic with
  | (.error d, s1) => (.error d, s1)
  | (.ok a, s1) =>
    match one s1 i2 h2 oB needB with
    | (.error d, s2) => (.error d, s2)
    | (.ok b, s2) => (.ok (a, b), s2)

/-- What happens around the lanes of an atomic: the conditions of a release, the checks, waiting for reserved words, and the
pending instruction that writes the results (R233, R238, R239, R252). one carries out a lane, giving register and predicate
writes. -/
def atomicOp {α : Type} (i : Instr) (ord : Order) (n : Nat) (s : State)
    (probe : Place → Flight → State → List (Nat × Except Deny α) × State) (addrs : α → List LaneAddr)
    (one : Place → Flight → Nat → α → State → (List (Nat × Nat × Word) × List (Nat × Nat × Bool)) × State) : Outcome State :=
  issue i s (fun p s =>
    match s.flight p.key with
    | none => .done s [] []
    | some f =>
      if decide (ord = .rel) && s.busy p then .stall
      else
        let rs := probe p f s
        let ok : List (Nat × α) := rs.1.filterMap (fun r => match r.2 with
          | .ok a => some (r.1, a)
          | .error _ => none)
        let fs : List LaneFault := rs.1.filterMap (fun r => match r.2 with
          | .ok _ => none
          | .error x => some (denyFault x r.1))
        let all := ok.flatMap (fun x => addrs x.2)
        if all.any (fun x => !x.host && s.held p.key p.act x.pa n) then .stall
        else
          let s1 := if ord = .rel ∧ ok ≠ [] then rs.2.release p.core else rs.2
          let r := thread (fun (x : Nat × α) s => one p f x.1 x.2 s) ok (s1.loadsFirst p.key p.slotB all n)
          .done (r.2.later p i (maskOf (ok.map (·.1))) (.write (r.1.flatMap (·.1)) (r.1.flatMap (·.2)) 0)) fs [])

/-- ATOM (R232, R233). -/
def execAtom (d a : Reg) (op : AtomOp) (la : BitVec 4) (h : BitVec 10) (ord : Order) (wide : Bool) (imm : BitVec 17) (s : State) :
    Outcome State :=
  let n := if wide then 8 else 4
  atomicOp (.atom d a op la h ord wide imm) ord n s
    (fun p f s =>
      let hd := s.handle p.core p.la.ctx0 h.toNat
      hd.2.checks p.core p.la.ctx0 h.toNat hd.1 n .atomic true (offsets f p.act a imm.toInt))
    (fun x => [x])
    (fun p f l x s =>
      let old := s.atHome p.core x n
      let s' := old.2.storeBytes p.core false x n (atomValue op wide old.1 (wordsValue f l d wide))
      ((runWrites d l (loadWords (if wide then .w64 else .w32) old.1), []), s'))

/-- ACAS (R234). -/
def execAcas (pd : PReg) (d a : Reg) (la : BitVec 4) (h : BitVec 10) (ord : Order) (wide : Bool) (c : Reg) (imm : BitVec 10)
    (s : State) : Outcome State :=
  let n := if wide then 8 else 4
  atomicOp (.acas pd d a la h ord wide c imm) ord n s
    (fun p f s =>
      let hd := s.handle p.core p.la.ctx0 h.toNat
      hd.2.checks p.core p.la.ctx0 h.toNat hd.1 n .atomic true (offsets f p.act a imm.toInt))
    (fun x => [x])
    (fun p f l x s =>
      let old := s.atHome p.core x n
      let same := decide (old.1 = wordsValue f l c wide)
      let s' := if same then old.2.storeBytes p.core false x n (wordsValue f l d wide) else old.2
      ((runWrites d l (loadWords (if wide then .w64 else .w32) old.1), [(pd.toNat, l, same)]), s'))

/-- The probe of DCAS and AMOVE (R238). -/
def probeTwo (a c : Reg) (h1 h2 : BitVec 10) (n : Nat) (needB : Need) (p : Place) (f : Flight) (s : State) :
    List (Nat × Except Deny (LaneAddr × LaneAddr)) × State :=
  let d1 := s.handle p.core p.la.ctx0 h1.toNat
  let d2 := d1.2.handle p.core p.la.ctx0 h2.toNat
  thread (fun l s =>
    let r := s.checkTwo p.core p.la.ctx0 h1.toNat h2.toNat l d1.1 d2.1 ((f.g l a).toNat : Int) ((f.g l c).toNat : Int) n needB
    ((l, r.1), r.2)) (lanesOf p.act) d2.2

/-- DCAS (R236). -/
def execDcas (pd : PReg) (d a : Reg) (la : BitVec 4) (h1 h2 : BitVec 10) (c : Reg) (ord : Order) (s : State) : Outcome State :=
  atomicOp (.dcas pd d a la h1 h2 c ord) ord 4 s (probeTwo a c h1 h2 4 .atomic) (fun x => [x.1, x.2])
    (fun p f l x s =>
      let oA := s.coreRead p.core x.1.pa 4
      let oB := oA.2.coreRead p.core x.2.pa 4
      let ok := decide (oA.1 = (f.gAt l d 0).toNat) && decide (oB.1 = (f.gAt l d 1).toNat)
      let s' := if ok then
          (oB.2.storeBytes p.core false x.1 4 (f.gAt l d 2).toNat).storeBytes p.core false x.2 4 (f.gAt l d 3).toNat
        else oB.2
      ((runWrites d l [BitVec.ofNat 32 oA.1, BitVec.ofNat 32 oB.1], [(pd.toNat, l, ok)]), s'))

/-- AMOVE (R237). -/
def execAmove (d a : Reg) (wide : Bool) (la : BitVec 4) (h1 h2 : BitVec 10) (c : Reg) (ord : Order) (s : State) : Outcome State :=
  let n := if wide then 8 else 4
  atomicOp (.amove d a wide la h1 h2 c ord) ord n s (probeTwo a c h1 h2 n .put) (fun x => [x.1, x.2])
    (fun p f l x s =>
      let old := s.coreRead p.core x.1.pa n
      let s' := (old.2.storeBytes p.core false x.2 n old.1).storeBytes p.core false x.1 n (wordsValue f l d wide)
      ((runWrites d l (loadWords (if wide then .w64 else .w32) old.1), []), s'))

end Sys2Proof.Machine
end

