-- ==== Sys2Proof/Machine/Compare.lean ====
section
/-! DEFINITION. Compares, predicates and selection (R81 to R84). -/

namespace Sys2Proof.Machine

/-- The operation of PBOOL (R82). -/
def boolHolds (op : BoolOp) (a b : Bool) : Bool :=
  match op with
  | .and => a && b
  | .or => a || b
  | .xor => a != b

/-- ICMP.i32 (R81). -/
def execIcmpI (pd : PReg) (cc : CC) (a b : Reg) (s : State) : Outcome State :=
  cmpOp (.icmpI pd cc a b) pd (fun f l => (icmpHolds true cc (f.g l a) (f.g l b), 0)) s

/-- ICMP.n32 (R81). -/
def execIcmpN (pd : PReg) (cc : CC) (a b : Reg) (s : State) : Outcome State :=
  cmpOp (.icmpN pd cc a b) pd (fun f l => (icmpHolds false cc (f.g l a) (f.g l b), 0)) s

/-- FCMP (R81). -/
def execFcmp (pd : PReg) (cc : CC) (a b : Reg) (s : State) : Outcome State :=
  cmpOp (.fcmp pd cc a b) pd (fun f l => (fcmpHolds cc (Fp.ofWord (f.g l a)) (Fp.ofWord (f.g l b)), fcmpFlags cc (Fp.ofWord (f.g l a)) (Fp.ofWord (f.g l b)))) s

/-- ICMPI.i32 (R81). -/
def execIcmpiI (pd : PReg) (cc : CC) (a : Reg) (imm : BitVec 7) (s : State) : Outcome State :=
  cmpOp (.icmpiI pd cc a imm) pd (fun f l => (icmpHolds true cc (f.g l a) (imm.signExtend 32), 0)) s

/-- PBOOL (R82). -/
def execPbool (pd : PReg) (op : BoolOp) (na : Bool) (pa : PReg) (nb : Bool) (pb : PReg) (s : State) : Outcome State :=
  cmpOp (.pbool pd op na pa nb pb) pd (fun f l => (boolHolds op (f.p l pa != na) (f.p l pb != nb), 0)) s

/-- The predicates of a lane as P2G writes them: bit 15 stands for pt (R83). -/
def predWord (f : Flight) (l : Nat) : Word :=
  (List.range 16).foldl (fun w n => if (f.pMask n).getLsbD l then w ||| BitVec.twoPow 32 n else w) 0

/-- P2G (R83). -/
def execP2g (d : Reg) (r : Bool) (s : State) : Outcome State :=
  aluOp (.p2g d r) d (plain predWord) s

/-- G2P (R83). -/
def execG2p (a : Reg) (s : State) : Outcome State :=
  localOp (.g2p a) s (fun p f =>
    f.setPs ((lanesOf p.act).flatMap (fun l => (List.range 15).map (fun n => (n, l, (f.g l a).getLsbD n)))))

/-- SEL (R84). -/
def execSel (d a b : Reg) (r : Bool) (q : PReg) (qneg : Bool) (s : State) : Outcome State :=
  aluOp (.sel d a b r q qneg) d (plain (fun f l => if f.p l q != qneg then f.g l a else f.g l b)) s

end Sys2Proof.Machine
end

