-- ==== Sys2Proof/Machine/Matrix.lean ====
section
/-! DEFINITION. Tensor identifiers (R260, R261), the tiles of matrix operands (R129 to R134), the matrix instructions (R136 to
R151) and the gather fetch (R198 to R201). -/

namespace Sys2Proof.Machine

/-- A valid tensor identifier entry taken apart (R260). -/
structure Tensor where
  cls     : Nat
  shift   : Nat
  sparse  : Nat
  handle  : Nat
  fmt     : BitVec 16
  base    : Nat
  sbase   : Nat
  e0      : Nat
  e1      : Nat
  e2      : Nat
  e3      : Nat
  s1      : Nat
  s2      : Nat
  s3      : Nat
  bound   : Bool
  counter : Nat
deriving DecidableEq, Repr

/-- Reads a tensor identifier entry; none when it is invalid (R260, R261). -/
def tensorOf (ws : List Word) : Option Tensor :=
  let w (i : Nat) : Word := ws.getD i 0
  let cls := (fld (w 0) 28 3).toNat
  let sp := (fld (w 0) 20 4).toNat
  let ieee := decide (cls ≤ 2)
  let rows := (w 7).toNat * (w 8).toNat * (w 9).toNat
  if bit (w 0) 31 && decide (cls ≤ 4) && decide (sp ∈ [0, 1, 2, 4, 8]) && zf (w 0) 10 10 && zf (w 1) 16 16 &&
      (!ieee || decide (w 1 = 0)) && zf (w 3) 16 16 && zf (w 5) 16 16 && (!ieee || (decide (w 4 = 0) && decide (w 5 = 0))) &&
      decide (1 ≤ (w 6).toNat) && decide ((w 6).toNat ≤ 2 ^ 31) && decide (1 ≤ (w 7).toNat) && decide (1 ≤ (w 8).toNat) &&
      decide (1 ≤ (w 9).toNat) && decide (rows < 2 ^ 32) && zf (w 13) 10 21 && zf (w 14) 6 25 && decide (w 15 = 0) then
    some { cls := cls, shift := (fld (w 0) 24 4).toNat, sparse := sp, handle := (fld (w 0) 0 10).toNat,
           fmt := (w 1).setWidth 16, base := (w 2).toNat + (w 3).toNat * 2 ^ 32, sbase := (w 4).toNat + (w 5).toNat * 2 ^ 32,
           e0 := (w 6).toNat, e1 := (w 7).toNat, e2 := (w 8).toNat, e3 := (w 9).toNat, s1 := (w 10).toNat, s2 := (w 11).toNat,
           s3 := (w 12).toNat, bound := bit (w 14) 31, counter := (fld (w 14) 0 6).toNat }
  else none

/-- The tensor identifier with an index of a context, as a core reads it. -/
def State.tensor (s : State) (core ctx idx : Nat) : Option Tensor × State :=
  let r := s.descRead core ctx 1 idx ((s.ctx ctx).tbase + 64 * idx) (List.range 16)
  (tensorOf r.1, r.2)

def Tensor.narrow (t : Tensor) : Bool := decide (3 ≤ t.cls)
def Tensor.nf (t : Tensor) : NFmt := NFmt.ofDesc t.fmt

/-- The format rules of R133 and R201: a valid descriptor, at most four bits in a nibble. -/
def Tensor.fmtOk (t : Tensor) : Bool :=
  !t.narrow || (descValid t.fmt && (decide (t.cls = 3) || decide (descWidth t.fmt ≤ 4)))

/-- The byte of a row in which element k starts (R132, R261). -/
def Tensor.pos (t : Tensor) (k : Nat) : Nat :=
  match t.cls with
  | 0 => 4 * k
  | 1 => 2 * k
  | 2 => 2 * k
  | 3 => k
  | _ => k / 2

/-- Bytes of one element's container. -/
def Tensor.size (t : Tensor) : Nat := if t.cls = 0 then 4 else if t.cls ≤ 2 then 2 else 1

/-- The scale address of a block whose first element starts at a byte; none when the difference is negative (R134). -/
def Tensor.scaleAt (t : Tensor) (first : Nat) : Option Nat :=
  if first < t.base then none else some (t.sbase + (first - t.base) / 2 ^ t.shift)

/-- Bits of element k of a row through a byte reader. -/
def Tensor.raw (t : Tensor) (rd : Nat → Option Byte) (row k : Nat) : Option Nat :=
  let o := row + t.pos k
  match t.cls with
  | 0 => do
    let a ← rd o
    let b ← rd (o + 1)
    let c ← rd (o + 2)
    let d ← rd (o + 3)
    pure (a.toNat + 256 * b.toNat + 65536 * c.toNat + 16777216 * d.toNat)
  | 1 => do
    let a ← rd o
    let b ← rd (o + 1)
    pure (a.toNat + 256 * b.toNat)
  | 2 => do
    let a ← rd o
    let b ← rd (o + 1)
    pure (a.toNat + 256 * b.toNat)
  | 3 => do
    let a ← rd o
    pure (a.toNat % 2 ^ t.nf.width)
  | _ => do
    let a ← rd o
    pure ((if k % 2 = 0 then a.toNat % 16 else a.toNat / 16) % 2 ^ t.nf.width)

/-- The scale code of element k of a row whose blocks hold blk elements; 127 for IEEE classes (R134). -/
def Tensor.scale (t : Tensor) (rd : Nat → Option Byte) (row blk k : Nat) : Option Nat :=
  if t.narrow then do
    let a ← t.scaleAt (row + t.pos (k / blk * blk))
    let b ← rd a
    pure b.toNat
  else some 127

/-- The exact value of an element under its scale (R103, R134). -/
def Tensor.value (t : Tensor) (bits k : Nat) : Fp :=
  match t.cls with
  | 0 => fp32.read bits
  | 1 => bf16.read bits
  | 2 => fp16.read bits
  | _ => if k = 0xFF then .nan false else (t.nf.value bits).scale ((k : Int) - 127)

/-- The value of element k of a row. -/
def Tensor.elem (t : Tensor) (rd : Nat → Option Byte) (row blk k : Nat) : Option Fp := do
  let b ← t.raw rd row k
  let c ← t.scale rd row blk k
  pure (t.value b c)

/-- The byte offsets that n elements of a row and their scales occupy; none when a scale address is negative. -/
def Tensor.needs (t : Tensor) (row blk n : Nat) : Option (List Nat) :=
  let data := (List.range n).flatMap (fun k => (List.range t.size).map (fun i => row + t.pos k + i))
  if t.narrow then do
    let sc ← (List.range ((n + blk - 1) / blk)).mapM (fun b => t.scaleAt (row + t.pos (b * blk)))
    pure (data ++ sc)
  else some data

/-! Tiles in scratchpad (R129, R130). -/

/-- A scratchpad tile. -/
structure Tile where
  core   : Nat
  win    : WinAt
  off    : Nat
  stride : Nat
deriving DecidableEq, Repr

/-- Source field of a descriptor (R129). -/
def descSource (d : Word) : Nat := (fld d 30 2).toNat

/-- The tile of a descriptor with source 0 or 1; none where R130 raises TENSOR. -/
def tileOf (p : Place) (d : Word) : Option Tile :=
  let cih : BitVec 2 := d.extractLsb' 28 2
  let core := if descSource d = 0 then (if cih = 0 then some p.core else none)
    else if descSource d = 1 then scrCore p true cih else none
  core.map (fun c => { core := c, win := p.la.winAt c (fld d 24 4).toNat, off := 32 * (fld d 0 12).toNat,
                       stride := 16 * (fld d 12 12).toNat })

/-- The row start of a tile (R129). -/
def Tile.row (t : Tile) (r : Nat) : Nat := t.off + t.stride * r

/-- Where a byte of a window lies in the scratchpad; none outside a plain window (R130). -/
def WinAt.byte (w : WinAt) (o : Nat) : Option Nat :=
  if w.ring then some (w.start + o % w.size) else if o < w.size then some (w.start + o) else none

/-- The byte reader of a tile. -/
def Tile.rd (t : Tile) (s : State) : Nat → Option Byte := fun o => (t.win.byte o).map (Cells.get (s.scr t.core))

/-- Whether bytes of a tile hold an uncorrectable error (R206). -/
def Tile.bad (t : Tile) (s : State) (os : List Nat) : Bool :=
  if s.errors.isEmpty then false else os.any (fun o => ((t.win.byte o).map (fun a => s.scrBad t.core a 1)).getD false)

/-- An instruction reads bytes of a tile: single-bit errors in them are corrected and counted (R206). -/
def Tile.corrected (t : Tile) (os : List Nat) (s : State) : State :=
  if s.errors.isEmpty then s else (s.scrErrors t.core (os.filterMap t.win.byte)).2

/-- Whether every byte lies in the tile's window. -/
def Tile.covers (t : Tile) (os : List Nat) : Bool := os.all (fun o => (t.win.byte o).isSome)

/-- A word of a tile. -/
def Tile.word (t : Tile) (s : State) (o : Nat) : Option Word := do
  let a ← t.rd s o
  let b ← t.rd s (o + 1)
  let c ← t.rd s (o + 2)
  let d ← t.rd s (o + 3)
  pure (BitVec.ofNat 32 (a.toNat + 256 * b.toNat + 65536 * c.toNat + 16777216 * d.toNat))

/-- A 4-bit field of a row, packed as nibbles (R144). -/
def Tile.nibble (t : Tile) (s : State) (row i : Nat) : Option Nat :=
  (t.rd s (row + i / 2)).map (fun b => if i % 2 = 0 then b.toNat % 16 else b.toNat / 16)

/-! Sums and products (R138). -/

/-- The exact sum of terms, with the special values of R138, rounded to FP32. -/
def groupSum (terms : List Fp) : Word :=
  if terms.any Fp.isNan then BitVec.ofNat 32 fp32.qnan
  else
    let pos := terms.any (fun x => decide (x = .inf false))
    let neg := terms.any (fun x => decide (x = .inf true))
    if pos && neg then BitVec.ofNat 32 fp32.qnan
    else if pos then BitVec.ofNat 32 (fp32.infBits false)
    else if neg then BitVec.ofNat 32 (fp32.infBits true)
    else
      let e := terms.foldl (fun (m : Int) x => match x with
        | .fin _ _ e => min m e
        | _ => m) 0
      let total := terms.foldl (fun (t : Int) x => match x with
        | .fin n m ex => t + (if n then -((m * 2 ^ (ex - e).toNat : Nat) : Int) else ((m * 2 ^ (ex - e).toNat : Nat) : Int))
        | _ => t) 0
      if total = 0 then
        (if terms.all (fun x => match x with
          | .fin n m _ => n && decide (m = 0)
          | _ => false) then 0x80000000 else 0)
      else (fp32.round .rne (decide (total < 0)) total.natAbs e).word

/-- Adds groups of terms to an accumulator, one rounding for each sum and each addition (R138). -/
def accumulate (acc : Word) (groups : List (List Fp)) : Word := groups.foldl (fun a g => (rneAdd a (groupSum g)).word) acc

/-- The start of an accumulation: −0 under .Z (R138). -/
def accStart (f : Flight) (l : Nat) (d : Reg) (z : Bool) (j : Nat) : Word := if z then 0x80000000 else f.gAt l d j

/-- Products of two lists of values, element by element. -/
def products (a b : List Fp) : List Fp := (a.zip b).map (fun x => mulExact x.1 x.2)

/-- Cuts a list into groups of 16 (R138). -/
def groups16 (xs : List Fp) (n : Nat) : List (List Fp) := (List.range n).map (fun g => (xs.drop (16 * g)).take 16)

/-- K of a class (R132). -/
def Tensor.kOf (t : Tensor) : Nat := match t.cls with
  | 1 => 16
  | 2 => 16
  | 3 => 32
  | _ => 64

/-! Whole-instruction faults (R131, R201, R303). -/

/-- The faults of an instruction that raises the same one for every active lane: the lowest code other than PAGE if there is
one, and the lowest faulting address. -/
def wholeFault (act : Mask) (ds : List Deny) : List LaneFault :=
  let users := ds.filter (fun d => decide (d.code ≠ .page))
  let pick := if users.isEmpty then ds else
    let low := users.foldl (fun m d => min m d.code.num) 100
    users.filter (fun d => decide (d.code.num = low))
  match pick with
  | [] => []
  | d :: rest =>
    let best := rest.foldl (fun m x => if x.va < m.va then x else m) d
    (lanesOf act).map (denyFault best)

/-- A TENSOR fault, which involves no memory access. -/
def tensorDeny : Deny := { code := .tensor, va := 0, w := false, mal := false, handle := 0 }

/-- The checks of R177 that need no translation, for a read of n bytes at an offset of a handle. -/
def handleDeny (idx : Nat) (hd : Option Handle) (o n : Nat) : Option Deny :=
  match hd with
  | none => some { code := .handle, va := 0, w := false, mal := false, handle := idx }
  | some h =>
    let deny (c : FCode) : Deny := { code := c, va := handleVa h o, w := false, mal := false, handle := idx }
    if h.size < o + n then some (deny .bounds)
    else if handleVa h o % n ≠ 0 then some (deny .align)
    else if h.r = false then some (deny .prot) else none

/-! Operands of matrix products. -/

/-- An operand's B tile: 32 columns of values, or the denials that stop the instruction. -/
structure Cols where
  vals  : List (List Fp)
  deny  : List Deny
  state : State

/-- The values of n elements of each row listed, from a scratchpad tile; none where TENSOR is raised. -/
def tileRows (s : State) (t : Tensor) (tile : Tile) (blk n : Nat) (rows : List Nat) : Option (List (List Fp) × Bool) := do
  let need ← rows.mapM (fun r => t.needs (tile.row r) blk n)
  let os := need.flatten
  if tile.covers os then
    let vs ← rows.mapM (fun r => (List.range n).mapM (fun k => t.elem (tile.rd s) (tile.row r) blk k))
    pure (vs, tile.bad s os)
  else none

/-- The bytes that n elements and scales of each row listed occupy. -/
def tileBytes (t : Tensor) (tile : Tile) (blk n : Nat) (rows : List Nat) : List Nat :=
  rows.flatMap (fun r => (t.needs (tile.row r) blk n).getD [])

/-- A B tile from scratchpad. -/
def tileCols (s : State) (t : Tensor) (tile : Option Tile) (n : Nat) : Cols :=
  match tile.bind (fun tl => tileRows s t tl 32 n (List.range 32)) with
  | none => { vals := [], deny := [tensorDeny], state := s }
  | some (vs, bad) =>
    { vals := vs, deny := if bad then [{ tensorDeny with code := .ecc }] else [],
      state := match tile with
        | some tl => tl.corrected (tileBytes t tl 32 n (List.range 32)) s
        | none => s }

/-- Whether an element lies in the shape: its row below the row count, its column below the row length (R131, R261, log
entry 22). -/
def Tensor.inShape (t : Tensor) (n k : Nat) : Bool := decide (n < t.e1 * t.e2 * t.e3) && decide (k < t.e0)

/-- The bytes of a global B tile that lie in the shape: rows n0 to n0 + 31, elements k0 to k0 + kl - 1 (R131). -/
def globalData (t : Tensor) (n0 k0 kl : Nat) : List Nat :=
  (List.range 32).flatMap (fun j => ((List.range kl).filter (fun i => t.inShape (n0 + j) (k0 + i))).flatMap (fun i =>
    (List.range t.size).map (fun b => t.base + (n0 + j) * t.s1 + t.pos (k0 + i) + b)))

/-- The columns at which the blocks start that columns k0 to k0 + kl - 1 lie in: the multiples of 32 of the tensor's column (R134). -/
def blockStarts (k0 kl : Nat) : List Nat := (List.range ((k0 % 32 + kl + 31) / 32)).map (fun b => k0 / 32 * 32 + 32 * b)

/-- The scale addresses of the blocks of a global B tile that lie at least partly in the shape; none for a negative
difference (R131, R134). -/
def globalScales (t : Tensor) (n0 k0 kl : Nat) : List (Option Nat) :=
  if t.narrow then
    (List.range 32).flatMap (fun j => ((blockStarts k0 kl).filter (fun k => t.inShape (n0 + j) (max k0 k))).map (fun k =>
      t.scaleAt (t.base + (n0 + j) * t.s1 + t.pos k)))
  else []

/-- The bytes and scales that a global B tile fetches. -/
def globalNeeds (t : Tensor) (n0 k0 kl : Nat) : List Nat :=
  sortNat (globalData t n0 k0 kl ++ (globalScales t n0 k0 kl).filterMap id)

/-- The checks of a global B tile that need no translation (R131): TENSOR for an invalid handle (R133), for a k0 that is no
multiple of the logical K, and for a scale outside the handle (R134); HANDLE, BOUNDS and PROT for the bytes and scales to be
fetched. -/
def globalFirst (t : Tensor) (hd : Option Handle) (n0 k0 kl : Nat) : List Deny :=
  let size := (hd.map (·.size)).getD (2 ^ 48)
  let scales := globalScales t n0 k0 kl
  let out := scales.any (fun a => match a with
    | some x => decide (size ≤ x)
    | none => true)
  (if hd.isNone || decide (k0 % kl ≠ 0) || out then [tensorDeny] else []) ++
    (globalData t n0 k0 kl ++ scales.filterMap id).filterMap (fun o => handleDeny t.handle hd o 1)

/-- A B tile from global memory, in the two stages of R131: where the first stage has failed, for this tile or for another operand,
nothing is translated. -/
def globalCols (p : Place) (s : State) (t : Tensor) (n0 k0 kl : Nat) (failed : Bool) : Cols :=
  let hd := s.handle p.core p.la.ctx0 t.handle
  let one := globalFirst t hd.1 n0 k0 kl
  if failed || decide (one ≠ []) then { vals := [], deny := one, state := hd.2 }
  else
    let rs := hd.2.checks p.core p.la.ctx0 t.handle hd.1 1 .read false
      ((globalNeeds t n0 k0 kl).map (fun (o : Nat) => (o, (o : Int))))
    let bad := rs.1.filterMap (fun r => match r.2 with
      | .ok _ => none
      | .error d => some d)
    if bad ≠ [] then { vals := [], deny := bad, state := rs.2 }
    else
      let as := passed rs.1
      let s1 := rs.2.fillSpans p.core 1 as
      let bs := thread (fun (a : LaneAddr) s => let v := s.loadBytes p.core true a 1; ((a.lane, BitVec.ofNat 8 v.1), v.2)) as s1
      let rd : Nat → Option Byte := fun o => Tbl.find bs.1 o
      { vals := (List.range 32).map (fun j => (List.range kl).map (fun i =>
          if t.inShape (n0 + j) (k0 + i) then (t.elem rd (t.base + (n0 + j) * t.s1) 32 (k0 + i)).getD (.fin false 0 0)
          else .fin false 0 0)),
        deny := [], state := bs.2 }

/-- The tensor identifiers of a product; none where R132 and R133 raise TENSOR. -/
def productTensors (p : Place) (s : State) (tA tB : BitVec 8) (sparse : Bool) : Option (Tensor × Tensor) × State :=
  let a := s.tensor p.core p.la.ctx0 tA.toNat
  let b := a.2.tensor p.core p.la.ctx0 tB.toNat
  match a.1, b.1 with
  | some x, some y =>
    if 1 ≤ x.cls ∧ x.cls = y.cls ∧ x.fmtOk ∧ y.fmtOk ∧ y.sparse = 0 ∧ (if sparse then x.sparse ≠ 0 else x.sparse = 0) then
      (some (x, y), b.2)
    else (none, b.2)
  | _, _ => (none, b.2)

/-- The products of a flight are past their fetches: none is replayed any more (R139, R142). -/
def Flight.fetched (f : Flight) : Flight :=
  { f with pending := f.pending.map (fun p => match p.act with
      | .product g idle _ => { p with act := .product g idle none }
      | _ => p) }

/-- Keeps the matrix unit of a partition busy for a number of cycles. The matrix instructions that the partition issued before have
formed their last rows (R139). -/
def State.matUse (s : State) (p : Place) (n : Nat) : State :=
  { s with
    matBusy := Tbl.put s.matBusy (4 * p.core + p.part) (s.cycle + n)
    flights := s.flights.map (fun e => if e.1 / 16 = p.key / 16 then (e.1, e.2.fetched) else e) }

/-- The writes of accumulator rows. -/
def rowWrites (d : Reg) (rows : List (Nat × List Word)) : List (Nat × Nat × Word) := rows.flatMap (fun r => runWrites d r.1 r.2)

/-- A matrix instruction that fetches nothing, with its rows decided: its compute has started (R142). -/
def matDone (p : Place) (s : State) (i : Instr) (busy : Nat) (rows : List (Nat × List Word)) (d : Reg) : Body :=
  .done ((s.matUse p busy).later p i p.act (.write (rowWrites d rows) [] 0)) [] []

/-- What a matrix instruction that fetches operands gives: faults, or the cycles that it keeps the unit busy, the register writes and what
it adds to idle counters; and the state after the fetch. -/
structure MatRes where
  fs    : List LaneFault
  busy  : Nat := 0
  g     : List (Nat × Nat × Word) := []
  idle  : List (Nat × Nat) := []
  state : State

/-- The general registers of a list, as a table of the words of a flight. -/
def Flight.operands (f : Flight) (rs : List Nat) : Cells 32 := f.gpr.filter (fun e => rs.contains (e.1 / 32))

/-- A matrix instruction that fetches operands, and may be replayed whole with the registers that it read at issue as long as it may
still be fetching them (R142, log entry 26). -/
def matBody (p : Place) (i : Instr) (f : Flight) (r : MatRes) : Body :=
  if r.fs ≠ [] then .done r.state r.fs []
  else .done ((r.state.matUse p r.busy).later p i p.act (.product r.g r.idle (some (.product (f.operands i.use.gr) f.unif)))) [] []

/-- The B operand of MMA and MMAS (R130, R131). failed says that the A operand has failed a check of the first stage. -/
def operandB (p : Place) (f : Flight) (s : State) (t : Tensor) (sb : UReg) (kl : Nat) (failed : Bool) : Cols :=
  let d := f.u sb.toNat
  if descSource d = 2 then globalCols p s t (fld d 0 30).toNat (f.u (sb.toNat + 1)).toNat kl failed
  else tileCols s t (tileOf p d) kl

/-- The faults of a product whose tensor identifiers R132 or R133 refuse: TENSOR, and what the first stage of R131 finds for
a global B operand when the A operand's class says how much of it is fetched. -/
def refusedProduct (p : Place) (f : Flight) (s : State) (tA tB : BitVec 8) (sb : UReg) (sparse : Bool) : List LaneFault :=
  let d := f.u sb.toNat
  let more := match (s.tensor p.core p.la.ctx0 tA.toNat).1, (s.tensor p.core p.la.ctx0 tB.toNat).1 with
    | some a, some b =>
      if descSource d = 2 ∧ 1 ≤ a.cls ∧ 1 ≤ b.cls ∧ (sparse → a.sparse ≠ 0) then
        globalFirst b (s.handle p.core p.la.ctx0 b.handle).1 (fld d 0 30).toNat (f.u (sb.toNat + 1)).toNat
          (if sparse then (if a.sparse = 8 then 2 * a.kOf else 4 * a.kOf) else a.kOf)
      else []
    | _, _ => []
  wholeFault p.act (tensorDeny :: more)

/-- What MMA gives for the registers of a flight (R143). -/
def mmaRes (p : Place) (f : Flight) (s : State) (d : Reg) (z : Bool) (tA tB : BitVec 8) (sa sb : UReg) : MatRes :=
  match productTensors p s tA tB false with
  | (none, s1) => { fs := refusedProduct p f s1 tA tB sb false, state := s1 }
  | (some (a, b), s1) =>
    let k := a.kOf
    let tile := tileOf p (f.u sa.toNat)
    let rows := tile.bind (fun tl => tileRows s1 a tl 32 k (lanesOf p.act))
    let cols := operandB p f s1 b sb k rows.isNone
    let ds := (if rows.isNone then [tensorDeny] else []) ++ cols.deny ++
      (if (rows.map (·.2)).getD false then [{ tensorDeny with code := .ecc }] else [])
    let av := (rows.map (·.1)).getD []
    if ds ≠ [] then { fs := wholeFault p.act ds, state := cols.state }
    else
      { fs := [], busy := 16, idle := []
        g := rowWrites d (((lanesOf p.act).zip av).map (fun r =>
          (r.1, ((List.range 32).zip cols.vals).map (fun c =>
            accumulate (accStart f r.1 d z c.1) (groups16 (products r.2 c.2) (k / 16))))))
        state := tile.elim cols.state (fun tl => tl.corrected (tileBytes a tl 32 k (lanesOf p.act)) cols.state) }

/-- MMA (R143). -/
def execMma (d : Reg) (mc z : Bool) (la : BitVec 4) (tA tB : BitVec 8) (sa sb : UReg) (s : State) : Outcome State :=
  let i := Instr.mma d mc z la tA tB sa sb
  issue i s (fun p s =>
    match s.flight p.key with
    | none => .done s [] []
    | some f => matBody p i f (mmaRes p f s d z tA tB sa sb))

/-- One row of a compressed A operand: for each group its count and the (slot value, position) pairs in use (R144, R145). -/
def sparseRow (s : State) (t : Tensor) (tile meta_ : Tile) (cr : Bool) (g n l : Nat) : Option (List (Nat × List (Fp × Nat))) := do
  let slots ← (List.range (g * n)).mapM (fun k => t.elem (tile.rd s) (tile.row l) (2 * n) k)
  let head := if cr then g else 0
  (List.range g).mapM (fun q => do
    let c ← if cr then meta_.nibble s (meta_.row l) q else some n
    let ps ← (List.range n).mapM (fun t => meta_.nibble s (meta_.row l) (head + q * n + t))
    let used := ps.take c
    if c ≤ n ∧ (used.zip (used.drop 1)).all (fun x => decide (x.1 < x.2)) then
      pure (c, (((slots.drop (q * n)).take n).zip ps).take c)
    else none)

/-- The bytes that the compressed A and its metadata need (R134, R144). -/
def sparseNeeds (t : Tensor) (tile meta_ : Tile) (cr : Bool) (g n : Nat) (lanes : List Nat) : Option (List Nat × List Nat) := do
  let a ← lanes.mapM (fun l => t.needs (tile.row l) (2 * n) (g * n))
  let fields := g * n + (if cr then g else 0)
  pure (a.flatten, lanes.flatMap (fun l => (List.range ((fields + 1) / 2)).map (fun i => meta_.row l + i)))

/-- The cycles that MMAS occupies the unit (R146). -/
def mmasCycles (cr : Bool) (total g n : Nat) : Nat := if cr then max 1 ((16 * total + g * n - 1) / (g * n)) else 16

/-- The steps that the rows of MMAS.CR take together: in each group as many as the fullest row (R146). -/
def sparseSteps (g : Nat) (rows : List (List (Nat × List (Fp × Nat)))) : Nat :=
  ((List.range g).map (fun q => rows.foldl (fun m r => max m ((r[q]?.map (·.1)).getD 0)) 0)).foldl (· + ·) 0

/-- The steps that each lane of MMAS.CR spends idle (R146). -/
def sparseIdle (g : Nat) (lanes : List Nat) (rows : List (List (Nat × List (Fp × Nat)))) : List (Nat × Nat) :=
  (lanes.zip rows).map (fun r => (r.1, sparseSteps g rows - r.2.foldl (fun n x => n + x.1) 0))

/-- Adds to idle counters, which stay at their greatest value (R146). -/
def Flight.idleMore (f : Flight) (xs : List (Nat × Nat)) : Flight :=
  { f with idle := xs.foldl (fun c x =>
      Cells.set c x.1 (BitVec.ofNat 32 (min (2 ^ 32 - 1) ((Cells.get c x.1).toNat + x.2)))) f.idle }

/-- Whether an MMAS of the flight has not completed (R146, R148). -/
def Flight.counting (f : Flight) : Bool :=
  f.pending.any (fun p => !p.done && (match p.instr with
    | .mmas .. => true
    | _ => false))

/-- What MMAS gives for the registers of a flight (R144 to R146). A count or a position that R145 refuses is found in the first stage of R131,
before anything of a global B operand is translated (log entry 70). -/
def mmasRes (p : Place) (f : Flight) (s : State) (d : Reg) (cr z : Bool) (tA tB : BitVec 8) (sa sb : UReg) : MatRes :=
  match productTensors p s tA tB true with
  | (none, s1) => { fs := refusedProduct p f s1 tA tB sb true, state := s1 }
  | (some (a, b), s1) =>
    let n := a.sparse
    let kl := if n = 8 then 2 * a.kOf else 4 * a.kOf
    let g := kl / 16
    let lanes := lanesOf p.act
    let ops := (tileOf p (f.u sa.toNat)).bind (fun tl => (tileOf p (f.u (sa.toNat + 1))).map (fun m => (tl, m)))
    let need := ops.bind (fun x => sparseNeeds a x.1 x.2 cr g n lanes)
    let rows := ops.bind (fun x => need.bind (fun y =>
      if x.1.covers y.1 && x.2.covers y.2 then lanes.mapM (fun l => sparseRow s1 a x.1 x.2 cr g n l) else none))
    let bad := match ops, need with
      | some x, some y => x.1.bad s1 y.1 || x.2.bad s1 y.2
      | _, _ => false
    let cols := operandB p f s1 b sb kl rows.isNone
    let ds := (if rows.isNone then [tensorDeny] else []) ++ cols.deny ++
      (if bad then [{ tensorDeny with code := .ecc }] else [])
    let rv := rows.getD []
    if ds ≠ [] then { fs := wholeFault p.act ds, state := cols.state }
    else
      { fs := [], busy := mmasCycles cr (sparseSteps g rv) g n
        g := rowWrites d ((lanes.zip rv).map (fun r =>
          (r.1, ((List.range 32).zip cols.vals).map (fun c =>
            accumulate (accStart f r.1 d z c.1)
              (((List.range g).zip r.2).map (fun q =>
                q.2.2.map (fun x => mulExact x.1 (c.2.getD (16 * q.1 + x.2) (.fin false 0 0)))))))))
        idle := if cr then sparseIdle g lanes rv else []
        state := match ops, need with
          | some x, some y => x.2.corrected y.2 (x.1.corrected y.1 cols.state)
          | _, _ => cols.state }

/-- MMAS (R144 to R146). -/
def execMmas (d : Reg) (cr mc z : Bool) (la : BitVec 4) (tA tB : BitVec 8) (sa sb : UReg) (s : State) : Outcome State :=
  let i := Instr.mmas d cr mc z la tA tB sa sb
  issue i s (fun p s =>
    match s.flight p.key with
    | none => .done s [] []
    | some f => matBody p i f (mmasRes p f s d cr z tA tB sa sb))

/-- A group of MMAG: first row, rows, B descriptor (R147). -/
structure MGroup where
  first : Nat
  rows  : Nat
  desc  : Word
deriving DecidableEq, Repr

/-- Reads the group table (R147); none where TENSOR is raised. -/
def groupTable (s : State) (t : Tile) : Option (List MGroup) := do
  let h ← t.word s t.off
  let z ← t.word s (t.off + 4)
  if zf h 6 26 && decide (h.toNat ≤ 32) && decide (z = 0) && decide (t.stride = 0) then
    (List.range h.toNat).mapM (fun e => do
      let w ← t.word s (t.off + 8 + 8 * e)
      let b ← t.word s (t.off + 12 + 8 * e)
      let first := (fld w 0 8).toNat
      let rows := (fld w 8 8).toNat
      if zf w 16 16 && decide (rows ≤ 32) && (decide (rows = 0) || decide (first + rows ≤ 32)) then
        pure { first := first, rows := rows, desc := b }
      else none)
  else none

/-- The bytes of a group table (R147). -/
def tableBytes (s : State) (t : Tile) : List Nat :=
  (List.range (8 + 8 * ((t.word s t.off).getD 0).toNat % 512)).map (fun i => t.off + i)

/-- Whether the group table holds an uncorrectable error (R206). -/
def tableBad (p : Place) (s : State) (d : Word) : Bool :=
  match tileOf p d with
  | some t => t.bad s (tableBytes s t)
  | none => false

/-- The group table is read (R206). -/
def tableRead (p : Place) (d : Word) (s : State) : State :=
  match tileOf p d with
  | some t => t.corrected (tableBytes s t) s
  | none => s

/-- Whether the row ranges of the groups listed ascend without overlap (R147). -/
def groupsAscend : Nat → List MGroup → Bool
  | _, [] => true
  | lo, g :: gs => decide (lo ≤ g.first) && groupsAscend (g.first + g.rows) gs

/-- What MMAG gives for the registers of a flight (R147). The A row of an active lane that is in no group is neither fetched nor checked (log
entry 71). -/
def mmagRes (p : Place) (f : Flight) (s : State) (d : Reg) (z : Bool) (tA tB : BitVec 8) (sa sb : UReg) : MatRes :=
  match productTensors p s tA tB false with
  | (none, s1) => { fs := faultAll .tensor p.act, state := s1 }
  | (some (a, b), s1) =>
    let k := a.kOf
    let tbl := (tileOf p (f.u sb.toNat)).bind (fun t => groupTable s1 t)
    let gs := (tbl.getD []).filter (fun g => decide (g.rows ≠ 0))
    let inGroup (g : MGroup) (l : Nat) : Bool := decide (g.first ≤ l) && decide (l < g.first + g.rows)
    let used := gs.filter (fun g => (lanesOf p.act).any (inGroup g))
    let lanes := (lanesOf p.act).filter (fun l => used.any (fun g => inGroup g l))
    let rows := (tileOf p (f.u sa.toNat)).bind (fun tl => tileRows s1 a tl 32 k lanes)
    let tiles := used.map (fun g => (g, tileCols s1 b (tileOf p g.desc) k))
    let ds := (if tbl.isNone || !groupsAscend 0 gs || rows.isNone then [tensorDeny] else []) ++
      tiles.flatMap (fun t => t.2.deny) ++
      (if (rows.map (·.2)).getD false || tableBad p s1 (f.u sb.toNat) then [{ tensorDeny with code := .ecc }] else [])
    let av := (rows.map (·.1)).getD []
    let s2 := (tileOf p (f.u sa.toNat)).elim s1 (fun tl => tl.corrected (tileBytes a tl 32 k lanes) s1)
    if ds ≠ [] then { fs := wholeFault p.act ds, state := s1 }
    else
      { fs := [], busy := 16 + 2 * (tiles.length - 1), idle := []
        g := rowWrites d ((lanes.zip av).map (fun r =>
          let cols := ((tiles.find? (fun t => inGroup t.1 r.1)).map (fun t => t.2.vals)).getD []
          (r.1, ((List.range 32).zip cols).map (fun c =>
            accumulate (accStart f r.1 d z c.1) (groups16 (products r.2 c.2) (k / 16))))))
        state := used.foldl (fun s g => (tileCols s b (tileOf p g.desc) k).state) (tableRead p (f.u sb.toNat) s2) }

/-- MMAG (R147). -/
def execMmag (d : Reg) (mc z : Bool) (la : BitVec 4) (tA tB : BitVec 8) (sa sb : UReg) (s : State) : Outcome State :=
  let i := Instr.mmag d mc z la tA tB sa sb
  issue i s (fun p s =>
    match s.flight p.key with
    | none => .done s [] []
    | some f => matBody p i f (mmagRes p f s d z tA tB sa sb))

/-! Moving accumulator rows (R148 to R151). -/

/-- MZERO (R148). -/
def execMzero (d : Reg) (la : BitVec 4) (s : State) : Outcome State :=
  issue (.mzero d la) s (fun p s => matDone p s (.mzero d la) 2 ((lanesOf p.act).map (fun l => (l, List.replicate 32 0))) d)

/-- MIDLE (R148): it waits for every earlier MMAS of its flight to complete. -/
def execMidle (d : Reg) (clr : Bool) (la : BitVec 4) (s : State) : Outcome State :=
  issue (.midle d clr la) s (fun p s =>
    match s.flight p.key with
    | none => .done s [] []
    | some f =>
      if f.counting then .stall else
      let s1 := if clr then s.modFlight p.key (fun f =>
          { f with idle := (lanesOf p.act).foldl (fun c l => Cells.set c l 0) f.idle }) else s
      matDone p s1 (.midle d clr la) 2 ((lanesOf p.act).map (fun l => (l, [Cells.get f.idle l]))) d)

/-- Bytes of a row of MSTORE and MLOAD, and cycles of the unit (R149). -/
def rowBytes (fmt : RowFmt) (t : Option Tensor) : Nat :=
  match fmt with
  | .f32 => 128
  | .bf16 => 64
  | .narrow => if (t.map (·.cls)).getD 3 = 4 then 16 else 32
def rowCycles : RowFmt → Nat
  | .f32 => 16
  | .bf16 => 8
  | .narrow => 4

/-- The tensor identifier of MSTORE.N and MLOAD.N; none where TENSOR is raised (R133, R149). -/
def rowTensor (p : Place) (s : State) (fmt : RowFmt) (t : BitVec 8) : Option (Option Tensor) × State :=
  if fmt = .narrow then
    let r := s.tensor p.core p.la.ctx0 t.toNat
    match r.1 with
    | some x => if x.narrow && x.fmtOk && decide (x.sparse = 0) then (some (some x), r.2) else (none, r.2)
    | none => (none, r.2)
  else (some none, s)

/-- The bytes and scale that rows touch; none where TENSOR is raised. -/
def rowNeeds (tile : Tile) (fmt : RowFmt) (t : Option Tensor) (lanes : List Nat) : Option (List Nat) := do
  let os ← lanes.mapM (fun l => do
    let data := (List.range (rowBytes fmt t)).map (fun i => tile.row l + i)
    match t with
    | none => pure data
    | some x => do
      let a ← x.scaleAt (tile.row l)
      pure (data ++ [a]))
  if tile.covers os.flatten then pure os.flatten else none

/-- The bytes of a row that MSTORE writes, and its scale code (R150). -/
def storeRow (f : Flight) (l : Nat) (d : Reg) (fmt : RowFmt) (t : Option Tensor) : List Nat × Nat :=
  let xs := (List.range 32).map (fun j => f.gAt l d j)
  match fmt with
  | .f32 => (xs.flatMap (fun x => (bytesOf 4 x.toNat).map (·.toNat)), 0)
  | .bf16 => (xs.flatMap (fun x => (bytesOf 2 (bf16.convert .rne (Fp.ofWord x)).bits).map (·.toNat)), 0)
  | .narrow =>
    let nf := (t.map Tensor.nf).getD (NFmt.ofDesc 0)
    let k := nf.scaleCode (xs.map Fp.ofWord)
    let cs := xs.map (fun x => nf.quant k (Fp.ofWord x))
    if rowBytes fmt t = 16 then ((List.range 16).map (fun i => cs.getD (2 * i) 0 + 16 * cs.getD (2 * i + 1) 0), k) else (cs, k)

/-- MSTORE (R149, R150). -/
def execMstore (d : Reg) (fmt : RowFmt) (la : BitVec 4) (t : BitVec 8) (sa : UReg) (s : State) : Outcome State :=
  let i := Instr.mstore d fmt la t sa
  issue i s (fun p s =>
    match s.flight p.key with
    | none => .done s [] []
    | some f =>
      let tr := rowTensor p s fmt t
      match tr.1, tileOf p (f.u sa.toNat) with
      | some x, some tile =>
        match rowNeeds tile fmt x (lanesOf p.act) with
        | none => .done tr.2 (faultAll .tensor p.act) []
        | some os =>
          let write (c : Cells 8) (o v : Nat) : Cells 8 := match tile.win.byte o with
            | some a => Cells.set c a (BitVec.ofNat 8 v)
            | none => c
          let c := (lanesOf p.act).foldl (fun c l =>
            let r := storeRow f l d fmt x
            let c1 := ((List.range r.1.length).zip r.1).foldl (fun c e => write c (tile.row l + e.1) e.2) c
            match x.bind (fun t => t.scaleAt (tile.row l)) with
            | some a => write c1 a r.2
            | none => c1) (tr.2.scr tile.core)
          .done ((((tr.2.setScr tile.core c).scrClean tile.core (os.filterMap tile.win.byte)).matUse p (rowCycles fmt)).later p i p.act .finished) [] []
      | _, _ => .done tr.2 (faultAll .tensor p.act) [])

/-- The registers that MLOAD writes in a lane (R151). -/
def loadRow (s : State) (tile : Tile) (fmt : RowFmt) (t : Option Tensor) (l : Nat) : List Word :=
  let rd := tile.rd s
  match fmt, t with
  | .f32, _ => (List.range 32).map (fun j => (tile.word s (tile.row l + 4 * j)).getD 0)
  | .bf16, _ => (List.range 32).map (fun j =>
      (fp32.convert .rne (bf16.read (((rd (tile.row l + 2 * j)).getD 0).toNat + 256 * ((rd (tile.row l + 2 * j + 1)).getD 0).toNat))).word)
  | .narrow, some x =>
    (List.range 32).map (fun j =>
      (x.nf.widen ((x.raw rd (tile.row l) j).getD 0) ((x.scale rd (tile.row l) 32 j).getD 0)).word)
  | .narrow, none => []

/-- What MLOAD gives for the registers of a flight (R149, R151). -/
def mloadRes (p : Place) (f : Flight) (s : State) (d : Reg) (fmt : RowFmt) (t : BitVec 8) (sa : UReg) : MatRes :=
  let tr := rowTensor p s fmt t
  match tr.1, tileOf p (f.u sa.toNat) with
  | some x, some tile =>
    match rowNeeds tile fmt x (lanesOf p.act) with
    | none => { fs := faultAll .tensor p.act, state := tr.2 }
    | some os =>
      if tile.bad tr.2 os then { fs := faultAll .ecc p.act, state := tr.2 }
      else
        { fs := [], busy := rowCycles fmt, idle := []
          g := rowWrites d ((lanesOf p.act).map (fun l => (l, loadRow tr.2 tile fmt x l)))
          state := tile.corrected os tr.2 }
  | _, _ => { fs := faultAll .tensor p.act, state := tr.2 }

/-- MLOAD (R149, R151). -/
def execMload (d : Reg) (fmt : RowFmt) (la : BitVec 4) (t : BitVec 8) (sa : UReg) (s : State) : Outcome State :=
  let i := Instr.mload d fmt la t sa
  issue i s (fun p s =>
    match s.flight p.key with
    | none => .done s [] []
    | some f => matBody p i f (mloadRes p f s d fmt t sa))

/-- What a matrix instruction that is replayed whole gives (R142). -/
def matRes (p : Place) (f : Flight) (s : State) : Instr → MatRes
  | .mma d _ z _ tA tB sa sb => mmaRes p f s d z tA tB sa sb
  | .mmas d cr _ z _ tA tB sa sb => mmasRes p f s d cr z tA tB sa sb
  | .mmag d _ z _ tA tB sa sb => mmagRes p f s d z tA tB sa sb
  | .mload d fmt _ t sa => mloadRes p f s d fmt t sa
  | _ => { fs := [], busy := 0, g := [], idle := [], state := s }

/-! Gather fetch (R198 to R201). -/

/-- Where a row of a tensor starts for GFETCH. R199 puts row r at r row strides, S1, from the base, R261 puts row (i1, i2, i3) at i1 × S1 +
i2 × S2 + i3 × S3; where a tensor has rows beyond its first plane and the two differ, a free value says which holds (log entries 7 and 22). -/
def Tensor.rowStart (t : Tensor) (r : Nat) : Nat :=
  if r < t.e1 then t.base + r * t.s1
  else if Config.rowsByStride then t.base + r * t.s1
  else t.base + r % t.e1 * t.s1 + r / t.e1 % t.e2 * t.s2 + r / t.e1 / t.e2 * t.s3

/-- Bytes of a bitmap group (R199). -/
def Tensor.groupBytes (t : Tensor) : Nat := match t.cls with
  | 0 => 68
  | 1 => 36
  | 2 => 36
  | 3 => 20
  | _ => 12

/-- A word through the gather cache of a core, which fills from the home, its uncorrectable errors with it (R200, R206). Host and uncached
accesses do not allocate. A word that the cache holds is read there, also by a thread that has stored to it since: the model's choice
(R185, log entry 88). -/
def State.gatherWord (s : State) (core : Nat) (a : LaneAddr) : Word × State :=
  let w := a.pa / 4 * 4
  let at_ : LaneAddr := { a with pa := w, va := a.va / 4 * 4 }
  if a.host || a.uncached then let v := s.loadBytes core false at_ 4; (BitVec.ofNat 32 v.1, v.2)
  else
    match s.gather.find? (fun g => decide (g.core = core) && decide (g.addr = w)) with
    | some g => (g.val, s)
    | none =>
      let r := s.bypassRead core at_.ctx at_.va w 4
      let v := (r.1, r.2.copyErrors .gather core (w / 128 * 128) (byteMask (bytesSpan w 4)))
      let mine := v.2.gather.filter (fun g => decide (g.core = core))
      let drop := if 16384 ≤ mine.length then mine.head? else none
      let kept := v.2.gather.filter (fun g => decide (some g ≠ drop))
      (BitVec.ofNat 32 v.1, { v.2 with gather := kept ++ [{ core := core, host := false, addr := w, val := BitVec.ofNat 32 v.1 }] })

/-- The word at an address that a core's gather cache holds (R200). -/
def State.gathered (s : State) (core : Nat) (a : LaneAddr) : Bool :=
  !a.host && !a.uncached && s.gather.any (fun g => decide (g.core = core) && decide (g.addr = a.pa / 4 * 4))

/-- The checks of R177 on n bytes at an offset of a handle, which must be aligned as given (R201): the data comes from the gather cache
where that holds it, else from the home. -/
def State.probe (s : State) (p : Place) (idx : Nat) (hd : Option Handle) (o n align lane : Nat) : List Deny × State :=
  match reach idx hd (o : Int) n align false with
  | .error d => ([d], s)
  | .ok (h, va) =>
    match s.grant p.core p.la.ctx0 idx lane h va n .look true with
    | (.error d, s1) => ([d], s1)
    | (.ok a, s1) =>
      let c := if a.host then (false, s1)
        else if s1.gathered p.core { a with uncached := decide (h.policy = 2) } then s1.gatherErrors p.core (a.pa / 4 * 4) 4
        else s1.consume p.core a.pa n false
      (if c.1 then [{ code := .ecc, va := va, w := false, mal := false, handle := idx }] else [], c.2)

/-- The probe of n bytes that are aligned on their size, or of packed bytes one by one (R199, R201). -/
def State.probeAll (s : State) (p : Place) (idx : Nat) (hd : Option Handle) (o n : Nat) (packed : Bool) (lane : Nat) : List Deny × State :=
  if packed then
    let r := thread (fun i s => s.probe p idx hd (o + i) 1 1 lane) (List.range n) s
    (r.1.flatten, r.2)
  else s.probe p idx hd o n n lane

/-- The value of n bytes at an offset of a handle through the gather cache, once they have been probed (R200). -/
def State.gatherBytes (s : State) (p : Place) (h : Handle) (o : Nat) : Nat → Nat × State
  | 0 => (0, s)
  | n + 1 =>
    let va := handleVa h o
    let pa := if h.host then va else (s.peek p.la.ctx0 va).elim 0 (fun e => e.pa + (va - e.base))
    let v := s.gatherWord p.core
      { lane := 0, host := h.host, ctx := p.la.ctx0, va := va, pa := pa, uncached := decide (h.policy = 2), handle := 0 }
    let r := v.2.gatherBytes p h (o + 1) n
    (v.1.toNat / 256 ^ (pa % 4) % 256 + 256 * r.1, r.2)

/-- A bitmap group's slot for a column, from its mask (R199). -/
def bitmapSlot (mask i : Nat) : Option Nat :=
  if mask / 2 ^ i % 2 = 1 then some ((List.range i).filter (fun j => decide (mask / 2 ^ j % 2 = 1))).length else none

/-- The value of an element's bits under its scale as GFETCH writes it (R199). -/
def Tensor.fetched (t : Tensor) (bits k : Nat) : Word :=
  match t.cls with
  | 0 => BitVec.ofNat 32 bits
  | 1 => (fp32.convert .rne (bf16.read bits)).word
  | 2 => (fp32.convert .rne (fp16.read bits)).word
  | _ => (t.nf.widen bits k).word

/-- The row count of a tensor as a core sees it: that of a bound tensor is at most its append counter, read weakly through
handle 1,023 (R333). -/
def State.rowCount (s : State) (p : Place) (t : Tensor) : Except Deny Nat × State :=
  if t.bound then
    let hd := s.handle p.core p.la.ctx0 1023
    match hd.2.check p.core p.la.ctx0 1023 (lowLane p.act) hd.1 ((4 * t.counter : Nat) : Int) 4 .read false with
    | (.error d, s1) => (.error d, s1)
    | (.ok a, s1) =>
      let v := (s1.fillSpans p.core 4 [a]).loadBytes p.core true a 4
      (.ok (min (t.e1 * t.e2 * t.e3) v.1), v.2)
  else (.ok (t.e1 * t.e2 * t.e3), s)

/-- The bits of an element of a byte or nibble container (R132). -/
def Tensor.bitsOf (t : Tensor) (slot v : Nat) : Nat :=
  if t.cls = 4 then (if slot % 2 = 0 then v % 16 else v / 16) % 2 ^ t.nf.width else if t.cls = 3 then v % 2 ^ t.nf.width else v

/-- One lane of GFETCH: column c of row r of a tensor with as many rows as given (R199). Every byte and the scale are probed before
any is read; a scale outside the handle meets the check of R177, and one with a negative difference raises TENSOR (R134, R201). -/
def gatherLane (p : Place) (hd : Option Handle) (t : Tensor) (rows : Nat) (bm : Bool) (r c lane : Nat) (s : State) :
    (List Deny × Word) × State :=
  if rows ≤ r ∨ t.e0 ≤ c then (([], 0), s)
  else
    let row := t.rowStart r
    let grp := row + c / 16 * t.groupBytes
    let head : List Deny × State := if bm then s.probeAll p t.handle hd grp 2 true lane else ([], s)
    if head.1 ≠ [] then ((head.1, 0), head.2)
    else
      let read (s : State) (o n : Nat) : Nat × State := hd.elim (0, s) (fun h => s.gatherBytes p h o n)
      let mask : Nat × State := if bm then read head.2 grp 2 else (0, head.2)
      match (if bm then bitmapSlot mask.1 (c % 16) else some c) with
      | none => (([], 0), mask.2)
      | some slot =>
        let o := (if bm then grp + 2 else row) + t.pos slot
        let first := if bm then row + c / 32 * 2 * t.groupBytes else row + t.pos (c / 32 * 32)
        let data := mask.2.probeAll p t.handle hd o t.size bm lane
        let scale : List Deny × State := if t.narrow then
            (match t.scaleAt first with
             | none => ([tensorDeny], data.2)
             | some a => data.2.probe p t.handle hd a 1 1 lane)
          else ([], data.2)
        let ds := data.1 ++ scale.1
        if ds ≠ [] then ((ds, 0), scale.2)
        else
          let v := read scale.2 o t.size
          let k := if t.narrow then read v.2 ((t.scaleAt first).getD 0) 1 else (127, v.2)
          (([], t.fetched (t.bitsOf slot v.1) k.1), k.2)

/-- The lanes of GFETCH from a first column of a row: what their probes deny, and their values (R198 to R201). -/
def gatherAll (p : Place) (t : Tensor) (bm : Bool) (row col : Nat) (s : State) : List Deny × List (Nat × Word) × State :=
  let hd := s.handle p.core p.la.ctx0 t.handle
  let n := hd.2.rowCount p t
  match n.1 with
  | .error d => ([d], [], n.2)
  | .ok rows =>
    let rs := thread (fun l s => let v := gatherLane p hd.1 t rows bm row (col + l) l s; ((l, v.1), v.2)) (lanesOf p.act) n.2
    (rs.1.flatMap (fun r => r.2.1), rs.1.map (fun r => (r.1, r.2.2)), rs.2)

/-- The tensor identifier of a GFETCH; none where R201 raises TENSOR. -/
def gatherTensor (p : Place) (s : State) (t : Nat) : Option Tensor × State :=
  let tr := s.tensor p.core p.la.ctx0 t
  (tr.1.filter (fun x => x.fmtOk && decide (x.sparse = 0)), tr.2)

/-- GFETCH (R198 to R201). -/
def execGfetch (d : Reg) (bm : Bool) (la : BitVec 4) (t : BitVec 8) (sa sb : UReg) (s : State) : Outcome State :=
  let i := Instr.gfetch d bm la t sa sb
  issue i s (fun p s =>
    match s.flight p.key with
    | none => .done s [] []
    | some f =>
      let tr := gatherTensor p s t.toNat
      match tr.1 with
      | none => .done tr.2 (faultAll .tensor p.act) []
      | some x =>
        let row := (f.u sa.toNat).toNat
        let col := (f.u sb.toNat).toNat
        let r := gatherAll p x bm row col tr.2
        if r.1 ≠ [] then .done r.2.2 (wholeFault p.act r.1) []
        else
          .done (r.2.2.later p i p.act
            (.reading (r.2.1.flatMap (fun e => runWrites d e.1 [e.2])) (.gather d.toNat t.toNat bm row col))) [] [])

end Sys2Proof.Machine
end

