-- ==== Sys2Proof/Machine/Scopes.lean ====
section
/-! DEFINITION. Scopes and their references (R329), pools with their node tags and allocation chains (R274 to R276), the
engine command queues (R290), and the cancellation sequence (R302, R330). -/

namespace Sys2Proof.Machine

/-! Scopes (R329). -/

/-- A scope id and those it descends from; the fuel bounds the depth. -/
def ancestors (t : Tbl Scope) : Nat → Nat → List Nat
  | 0, id => [id]
  | fuel + 1, id =>
    if id = 0 then [0]
    else match Tbl.find t id with
      | some r => id :: ancestors t fuel r.parent
      | none => [id]

/-- The scopes of the lanes of a flight that have not exited. -/
def Flight.scopes (f : Flight) : List Nat := (lanesOf f.alive).map (fun l => (Cells.get f.scope l).toNat)

/-- The scopes of an atrium's unresolved rows. -/
def Atrium.scopes (a : Atrium) : List Nat :=
  (a.rows.filter (fun e => decide (e.2.state = .queued) || decide (e.2.state = .popped) || decide (e.2.state = .stopping))).map
    (fun e => e.2.scope.toNat)

/-- The scopes that something of a launch refers to: lanes, queued child groups, unresolved atrium rows and engine commands,
and allocated pool nodes, in the cores and in context images (R329). -/
def State.scopeRefs (s : State) (la : Launch) : List Nat :=
  let w := la.word
  let kept := (s.saved.filter (fun g => decide (g.launch = w))).flatMap (fun g => g.members)
  (s.flights.filter (fun e => decide (e.2.launch = w))).flatMap (fun e => e.2.scopes) ++
    kept.flatMap (fun m => m.flights.flatMap (fun e => e.2.scopes) ++ m.tasks.map (fun c => c.scope.toNat) ++
      m.atria.flatMap (fun e => e.2.scopes)) ++
    s.tasks.flatMap (fun e => (e.2.filter (fun c => decide (c.launch = w))).map (fun c => c.scope.toNat)) ++
    (s.atria.filter (fun e => decide (e.2.bound = some w))).flatMap (fun e => e.2.scopes) ++
    s.ctxs.flatMap (fun e => (e.2.cmds.filter (fun c => decide (c.launch = some w))).map (fun c => c.scope.toNat)) ++
    (la.scopes.filter (fun e => !e.2.nodes.isEmpty)).map (fun e => e.1)

/-- Returns the ids that nothing refers to any longer to the free ids (R329). A cancellation that runs covers them no longer. -/
def State.sweepScopes (s : State) (launch : Word) : State :=
  match Tbl.find s.launches launch.toNat with
  | none => s
  | some la =>
    let used := 0 :: ((s.scopeRefs la).eraseDups).flatMap (ancestors la.scopes 4096)
    let drop (c : CancelSeq) : CancelSeq := { c with covered := c.covered.filter (fun id => used.contains id) }
    s.modLaunch launch.toNat (fun la =>
      { la with scopes := la.scopes.filter (fun e => used.contains e.1), cancels := la.cancels.map drop })

/-- The lowest free scope id (R329). -/
def Launch.freeScope (la : Launch) : Option Nat :=
  (List.range 4096).find? (fun i => decide (i ≠ 0) && (Tbl.find la.scopes i).isNone)

/-- Changes a scope record of a launch. -/
def State.modScope (s : State) (launch : Word) (id : Nat) (g : Scope → Scope) : State :=
  s.modLaunch launch.toNat (fun la => { la with scopes := Tbl.modify la.scopes id g })

/-! Pools (R274 to R276). -/

/-- The index that means no node (R274). -/
def noNode : Nat := 0xFFFFFF

/-- A valid pool descriptor taken apart (R274). -/
structure Pool where
  at_    : Nat
  handle : Nat
  hd     : Handle
  size   : Nat
  cap    : Nat
  free   : Nat
  bump   : Nat
deriving DecidableEq, Repr

/-- A pool of a context as a core reads it; none when it is invalid (R274). Words 2 to 5 are read at their home, the others through the
core's descriptor cache (R257). -/
def State.pool (s : State) (core ctx q : Nat) : Option Pool × State :=
  let at_ := (s.ctx ctx).pbase + 32 * q
  let r := s.descRead core ctx 2 q at_ [0, 1, 6, 7]
  let w (i : Nat) : Word := if i < 2 then r.1.getD i 0 else if 6 ≤ i then r.1.getD (i - 4) 0 else wordAt r.2.mem (at_ + 4 * i)
  let hd := r.2.handle core ctx (fld (w 0) 4 10).toNat
  let size := 32 * 2 ^ (fld (w 0) 0 4).toNat
  let cap := (w 1).toNat
  match hd.1 with
  | none => (none, hd.2)
  | some h =>
    if bit (w 0) 31 && zf (w 0) 14 17 && decide ((fld (w 0) 0 4).toNat ≤ 7) && (List.range 4).all (fun i => zf (w (i + 1)) 24 8) &&
        decide (w 6 = 0) && decide (w 7 = 0) && decide (1 ≤ cap) && decide (cap ≤ 0xFFFFFE) && decide (cap * size ≤ h.size) &&
        !h.host && h.r && h.w then
      (some { at_ := at_, handle := (fld (w 0) 4 10).toNat, hd := h, size := size, cap := cap, free := (w 2).toNat,
              bump := (w 3).toNat }, hd.2)
    else (none, hd.2)

/-- Writes a word of a pool descriptor at its home. -/
def State.setPoolWord (s : State) (pl : Pool) (i : Nat) (v : Nat) : State :=
  { s with mem := putValue s.mem (pl.at_ + 4 * i) 4 v }

/-- Adds to the count of allocated nodes. -/
def State.poolCount (s : State) (pl : Pool) (up : Bool) : State :=
  let n := (wordAt s.mem (pl.at_ + 16)).toNat
  s.setPoolWord pl 4 (if up then (n + 1) % 2 ^ 24 else n - 1)

/-- A node's tag and where its two words lie. -/
structure Tag2 where
  addr : List LaneAddr
  w0 : Word
  w1 : Word
deriving DecidableEq, Repr

/-- Reads the tag of a node of a pool at its home; a node that cannot be reached raises POOL, an uncorrectable error ECC. -/
def State.tagIn (s : State) (ctx : Nat) (p : Pool) (i : Nat) : Except FCode Tag2 × State :=
  if p.cap ≤ i then (.error .pool, s)
  else
    match s.checkRun 128 ctx p.handle 0 (some p.hd) ((i * p.size : Nat) : Int) 8 4 .read with
    | (.error d, s1) => (.error (if d.code = .ecc then .ecc else .pool), s1)
    | (.ok _, s1) =>
      match s1.checkRun 128 ctx p.handle 0 (some p.hd) ((i * p.size : Nat) : Int) 8 4 .write with
      | (.error _, s2) => (.error .pool, s2)
      | (.ok as, s2) =>
        let v := s2.runRead as
        (.ok { addr := as, w0 := v.1.getD 0 0, w1 := v.1.getD 1 0 }, v.2)

/-- Reads the tag of a node of any pool, for a use that has read the pool q as p: another pool is read as the core reads it (R257,
R275). -/
def State.tag (s : State) (core ctx q : Nat) (p : Pool) (n : Nat × Nat) : Except FCode Tag2 × State :=
  if n.1 = q then s.tagIn ctx p n.2
  else
    let o := s.pool core ctx n.1
    match o.1 with
    | none => (.error .pool, o.2)
    | some x => o.2.tagIn ctx x n.2

/-- Writes a tag. -/
def State.setTag (s : State) (t : Tag2) (w0 w1 : Word) : State := s.runWrite t.addr [w0, w1]

/-- The link to a node, as the low bits of either word of a tag hold it (R275). -/
def linkWord (n : Option (Nat × Nat)) : Word :=
  match n with
  | none => BitVec.ofNat 32 noNode
  | some (q, i) => BitVec.ofNat 32 (q * 2 ^ 24 + i)

/-- The next node that a tag names (R275). -/
def Tag2.next (t : Tag2) : Option (Nat × Nat) :=
  if (fld t.w0 0 24).toNat = noNode then none else some ((fld t.w0 24 6).toNat, (fld t.w0 0 24).toNat)

/-- The node that the back link of a tag names; none for the head of a chain. -/
def Tag2.prev (t : Tag2) : Option (Nat × Nat) :=
  if bit t.w1 30 then none else some ((fld t.w1 24 6).toNat, (fld t.w1 0 24).toNat)

/-- Whether a tag is that of an allocated node. -/
def Tag2.al (t : Tag2) : Bool := bit t.w0 31

/-- The scope that the tag of a head names. -/
def Tag2.scope (t : Tag2) : Nat := (fld t.w1 0 12).toNat

/-- Allocates a node in a scope (R275): a node, none for lack of nodes, or the fault raised. A head of the chain whose tag can no longer be
reached keeps the back link that it has (log entry 76). -/
def State.allocNode (s : State) (launch : Word) (core ctx q scope : Nat) : Except FCode (Option Nat) × State :=
  let pl := s.pool core ctx q
  match pl.1 with
  | none => (.error .pool, pl.2)
  | some p =>
    if p.free = noNode ∧ p.cap ≤ p.bump then
      let n := (wordAt pl.2.mem (p.at_ + 20)).toNat
      (.ok none, pl.2.setPoolWord p 5 (min (n + 1) 0xFFFFFFFF))
    else
      let i := if p.free = noNode then p.bump else p.free
      match pl.2.tagIn ctx p i with
      | (.error c, s1) => (.error c, s1)
      | (.ok t, s1) =>
        let s2 := if p.free = noNode then s1.setPoolWord p 3 (p.bump + 1) else s1.setPoolWord p 2 (fld t.w0 0 24).toNat
        let head := ((Tbl.find s2.launches launch.toNat).bind (fun la => Tbl.find la.scopes scope)).bind (fun r => r.head)
        let s3 := (s2.setTag t (0x80000000 ||| linkWord head) (BitVec.ofNat 32 (0xC0000000 + scope))).poolCount p true
        let s4 := match head with
          | none => s3
          | some h => match s3.tag core ctx q p h with
            | (.ok th, s') => s'.setTag th th.w0 (0x80000000 ||| linkWord (some (q, i)))
            | (.error _, s') => s'
        (.ok (some i), s4.modScope launch scope (fun r => { r with head := some (q, i), nodes := r.nodes ++ [(q, i)] }))

/-- Pushes a node on the free list of its pool (R275). -/
def State.giveNode (s : State) (p : Pool) (t : Tag2) (i : Nat) : State :=
  ((s.setTag t (BitVec.ofNat 32 p.free) 0).setPoolWord p 2 i).poolCount p false

/-- A node is no reference to its scope any longer. -/
def State.forgetNode (s : State) (launch : Word) (q i : Nat) : State :=
  let other (n : Nat × Nat) : Bool := decide (n ≠ (q, i))
  let cut (r : Scope) : Scope := { r with nodes := r.nodes.filter other, lost := r.lost.filter other }
  s.modLaunch launch.toNat (fun la => { la with scopes := la.scopes.map (fun (e : Nat × Scope) => (e.1, cut e.2)) })

/-- POOL.FREE of one node (R276, R299): the fault it raises, if any; then nothing changes. A free node is found by its own tag, before
any other is read. -/
def State.freeNode (s : State) (launch : Word) (core ctx q i : Nat) : Option FCode × State :=
  let pl := s.pool core ctx q
  match pl.1 with
  | none => (some .pool, pl.2)
  | some p =>
    if p.cap ≤ i ∨ p.bump ≤ i then (some .pool, pl.2)
    else
      match pl.2.tagIn ctx p i with
      | (.error c, s1) => (some c, s1)
      | (.ok t, s1) =>
        if t.al = false then (some .pool, s1)
        else
          let nx : Except FCode (Option Tag2) × State := match t.next with
            | none => (.ok none, s1)
            | some n => match s1.tag core ctx q p n with
              | (.ok x, s') => (.ok (some x), s')
              | (.error c, s') => (.error c, s')
          match nx with
          | (.error c, s2) => (some c, s2)
          | (.ok nt, s2) =>
            if nt.any (fun x => !x.al || decide (x.prev ≠ some (q, i))) then (some .pool, s2)
            else if bit t.w1 30 then
              let head := ((Tbl.find s2.launches launch.toNat).bind (fun la => Tbl.find la.scopes t.scope)).bind (fun r => r.head)
              if head ≠ some (q, i) then (some .pool, s2)
              else
                let s3 := s2.modScope launch t.scope (fun r => { r with head := t.next })
                let s4 := match nt with
                  | none => s3
                  | some x => s3.setTag x x.w0 (BitVec.ofNat 32 (0xC0000000 + t.scope))
                (none, (s4.giveNode p t i).forgetNode launch q i)
            else
              match s2.tag core ctx q p ((t.prev).getD (0, 0)) with
              | (.error c, s3) => (some c, s3)
              | (.ok b, s3) =>
                if !b.al || decide (b.next ≠ some (q, i)) then (some .pool, s3)
                else
                  let s4 := s3.setTag b ((b.w0 &&& 0xC0000000) ||| (t.w0 &&& 0x3FFFFFFF)) b.w1
                  let s5 := match nt with
                    | none => s4
                    | some x => s4.setTag x x.w0 t.w1
                  (none, (s5.giveNode p t i).forgetNode launch q i)

/-- Walks the allocation chain of a scope and returns its nodes, until a link is inconsistent, which it answers (R276). back is the node
that the link comes from, none at the head. Every node that it returns is free from then on, so a walk ends; the fuel is above the number
of nodes that 64 pools can hold. -/
def walkChain (launch : Word) (ctx scope : Nat) : Nat → Option (Nat × Nat) → Option (Nat × Nat) → State → Bool × State
  | 0, _, _, s => (true, s)
  | _ + 1, none, _, s => (false, s)
  | fuel + 1, some n, back, s =>
    match s.pool 128 ctx n.1 with
    | (none, s1) => (true, s1)
    | (some p, s1) =>
      match s1.tagIn ctx p n.2 with
      | (.error _, s2) => (true, s2)
      | (.ok t, s2) =>
        let linked := match back with
          | none => bit t.w1 30 && decide (t.scope = scope)
          | some b => decide (t.prev = some b)
        if !t.al || !linked then (true, s2)
        else walkChain launch ctx scope fuel t.next (some n) ((s2.giveNode p t n.2).forgetNode launch n.1 n.2)

/-- Returns the chain of a covered scope; nodes left beyond an inconsistent link are counted as lost, each once (R276, R316, R330). -/
def State.returnChain (s : State) (launch : Word) (scope : Nat) : State :=
  match Tbl.find s.launches launch.toNat with
  | none => s
  | some la =>
    match Tbl.find la.scopes scope with
    | none => s
    | some r =>
      let w := walkChain launch la.ctx0 scope (2 ^ 30) r.head none s
      w.2.modLaunch launch.toNat (fun la =>
        let left := if w.1 then ((Tbl.find la.scopes scope).map (fun r => r.nodes.filter (fun n => !r.lost.contains n))).getD [] else []
        { la with
          lost := la.lost + left.length
          scopes := Tbl.modify la.scopes scope (fun r => { r with head := none, lost := r.lost ++ left }) })

/-! Command queues (R290). -/

/-- Commands a context may hold (R290). -/
def cmdCap : Nat := 4096

/-- Changes an engine context. -/
def State.modCtx (s : State) (cx : Nat) (g : EngineCtx → EngineCtx) : State := { s with ctxs := Tbl.put s.ctxs cx (g (s.ctx cx)) }

/-- A context accepts a command, numbered after its tail (R290). -/
def State.accept (s : State) (cx : Nat) (launch : Option Word) (issuer : Nat) (scope : Word) (kind : CmdKind) : Nat × State :=
  let num := (s.ctx cx).tail + 1
  let c : Command := { num := num, order := s.cmdSeq, kind := kind, launch := launch, issuer := issuer, scope := scope, started := false,
                       cancelled := false, finished := false, pos := 0, parkSeq := none, walk := [], visited := 0, version := 0 }
  (num, { s.modCtx cx (fun e => { e with tail := num, cmds := e.cmds ++ [c] }) with cmdSeq := s.cmdSeq + 1 })

/-- The future of an engine command (R288). -/
def engFuture (cx num : Nat) : Word := BitVec.ofNat 32 (cx * 2 ^ 24 + num % 2 ^ 24)

/-- Hands over commands while the queue has room: the futures given, what is left, and the state (R290, R291). -/
def feedItems (launch : Word) (issuer cx : Nat) : List CmdItem → List (Nat × Word) → State → List (Nat × Word) × List CmdItem × State
  | [], got, s => (got, [], s)
  | i :: is, got, s =>
    if cmdCap ≤ (s.ctx cx).cmds.length then (got, i :: is, s)
    else
      let r := s.accept cx (some launch) issuer i.scope i.kind
      feedItems launch issuer cx is (if i.last then got ++ [(i.lane, engFuture cx r.1)] else got) r.2

/-- The WGID of the workgroup of a launch on a core. -/
def Launch.wgidAt (la : Launch) (core : Nat) : Nat := ((la.wgAt core).map (fun w => w.wgid)).getD 0

/-- The instructions that wait to hand commands to a context, as (since, flight, pending number), the earliest first. -/
def State.cmdWaiters (s : State) (cx : Nat) : List (Nat × Nat × Nat) :=
  let all := s.flights.flatMap (fun e => e.2.pending.filterMap (fun (p : Pending) => match p.act with
    | .commands c _ since _ _ => if c = cx then some (since, e.1, p.seq) else none
    | _ => none))
  (sortNat (all.map (fun x => x.1))).flatMap (fun t => all.filter (fun x => decide (x.1 = t)))

/-- Lets the waiting instructions of a context hand over commands, in order of arrival (R290). -/
def State.feedWaiters (s : State) (cx : Nat) : State :=
  (s.cmdWaiters cx).foldl (fun s x =>
    match Tbl.find s.flights x.2.1 with
    | none => s
    | some f =>
      match f.pending.find? (fun p => decide (p.seq = x.2.2)), Tbl.find s.launches f.launch.toNat with
      | some p, some la =>
        match p.act with
        | .commands c d since got rest =>
          let r := feedItems f.launch (la.wgidAt (keyCore x.2.1)) c rest got s
          let act := if r.2.1 = [] then PendAct.write (if d = 127 then [] else r.1.map (fun e => (d, e.1, e.2))) [] 0
            else .commands c d since r.1 r.2.1
          r.2.2.modFlight x.2.1 (fun f => f.resolve p.seq act)
        | _ => s
      | _, _ => s) s

/-! Engine accesses and errors (R281, R293). -/

/-- The context whose handles a command names: the first of its launch, or its own for a command of a packet (R281). -/
def State.cmdCtx (s : State) (cx : Nat) (c : Command) : Nat :=
  match c.launch.bind (fun w => Tbl.find s.launches w.toNat) with
  | some la => la.ctx0
  | none => cx

/-- Changes a command of a context. -/
def State.modCmd (s : State) (cx num : Nat) (g : Command → Command) : State :=
  s.modCtx cx (fun x => { x with cmds := x.cmds.map (fun (c : Command) => if c.num = num then g c else c) })

/-- Writes the record of an engine's fault (R303). -/
def State.cmdRecord (s : State) (cx : Nat) (c : Command) (d : Deny) : State :=
  s.engRecord (s.cmdCtx cx c) (c.launch.getD 0) c.num d

/-- An uncorrectable error in data that a command consumes ends the issuing gang, while any of its workgroups has not retired (R6, R293). -/
def State.cmdEcc (s : State) (c : Command) : State :=
  match c.launch with
  | none => s
  | some w =>
    match Tbl.find s.launches w.toNat with
    | none => s
    | some la =>
      match la.wgs.find? (fun g => decide (g.wgid = c.issuer)) with
      | none => s
      | some g => if la.wgs.any (fun x => decide (x.gang = g.gang) && !x.retired) then s.endGang w g.gang .ecc else s

/-- A command meets PAGE: it waits for firmware (R293). With no room in the fault ring it waits for that first (R303). -/
def State.cmdPark (s : State) (cx : Nat) (c : Command) (d : Deny) : State :=
  if s.ringRoom = 0 then s
  else
    let s1 := s.cmdRecord cx c d
    s1.modCmd cx c.num (fun x => { x with parkSeq := some s1.ringEnd })

/-- Where a command puts its status: the words of its result or step record (R296, R297); none for the other kinds. -/
def Command.statusAt (c : Command) : List LaneAddr :=
  match c.kind with
  | .query _ at_ => at_
  | .dyn _ at_ => at_.drop 8
  | _ => []

/-- Ends a command with the words of its status, whose place is checked as it stands (R271): a page that is gone makes it wait, and where the
write is not permitted it ends without (R293). -/
def State.cmdEnd (s : State) (cx : Nat) (c : Command) (ws : List Word) : State :=
  let ended (s : State) : State := s.modCmd cx c.num (fun x => { x with started := true, finished := true })
  match s.againAll c.statusAt .write with
  | (.ok as, s1) => ended (s1.runWrite as ws)
  | (.error d, s1) =>
    if d.code = .page then s1.cmdPark cx c d
    else if s1.ringRoom = 0 then s1
    else ended (s1.cmdRecord cx c { d with code := .engine })

/-- An engine access is denied: PAGE makes the command wait for firmware, any other fault ends it as an error, with the words ws as its status
where those can be written, and a machine fault ends the issuing gang (R6, R293). The record of a machine fault has code ECC, of any other fault code ENGINE:
the model's choice (log entry 93). With no room in the fault ring the engine waits (R303). -/
def State.cmdDeny (s : State) (cx : Nat) (c : Command) (d : Deny) (ws : List Word) : State :=
  if d.code = .page then s.cmdPark cx c d
  else if s.ringRoom = 0 then s
  else
    let ended (s : State) : State := s.modCmd cx c.num (fun x => { x with started := true, finished := true })
    match s.againAll c.statusAt .write with
    | (.error e, s1) =>
      if e.code = .page then s1.cmdPark cx c e
      else if d.code = .ecc then (ended (s1.cmdRecord cx c d)).cmdEcc c
      else ended (s1.cmdRecord cx c { d with code := .engine })
    | (.ok as, s1) =>
      if d.code = .ecc then (ended ((s1.cmdRecord cx c d).runWrite as ws)).cmdEcc c
      else ended ((s1.cmdRecord cx c { d with code := .engine }).runWrite as ws)

/-! Cancellation (R302, R330). -/

/-- What the result or step record of a cancelled command receives (R302, R375). -/
def Command.cancelWords (c : Command) : List Word :=
  match c.kind with
  | .query _ _ => [2, 0, c.version, BitVec.ofNat 32 c.visited]
  | .dyn _ _ => [2, BitVec.ofNat 32 c.pos]
  | _ => []

/-- Cancels the commands that pass a test and are not finished; they complete in their turn (R302). One whose record has lost its page, or whose
status would change a word reserved for a priority attempt, is not finished before its status is written (R252, R293). -/
def State.cancelCommands (s : State) (q : Nat → Command → Bool) : State :=
  s.ctxs.foldl (fun s e => e.2.cmds.foldl (fun s c =>
    if q e.1 c && !c.finished then
      let t := s.modCmd e.1 c.num (fun y => { y with cancelled := true, parkSeq := none, walk := [] })
      t.unlessHeld (t.cmdEnd e.1 c c.cancelWords)
    else s) s) s

/-- Stops the rows of an atrium that a cancellation covers: they leave their tiles, and a tile left empty goes (R284, R302). -/
def Atrium.cancel (a : Atrium) (covered : List Nat) : Atrium :=
  let hit (r : AtrRow) : Bool := covered.contains r.scope.toNat && (decide (r.state = .queued) || decide (r.state = .popped))
  let gone := (a.rows.filter (fun e => hit e.2)).map (fun e => e.2.seq)
  { a with
    rows := a.rows.map (fun (e : Nat × AtrRow) => if hit e.2 then (e.1, { e.2 with state := .stopping }) else e)
    tiles := (a.tiles.map (fun (t : AtrTile) => { t with rows := t.rows.filter (fun n => !gone.contains n) })).filter
      (fun t => !t.rows.isEmpty) }

/-- Status 2 is written to the result record of a row that is being stopped, which then counts as cancelled and resolves (R302); a record that
can no longer be written gets none (log entry 79). While the write would change a word reserved for a priority attempt, it waits (R252). -/
def stopRow (e : Nat × AtrRow) (s : State) : (Nat × AtrRow) × State :=
  if e.2.state = .stopping then
    match s.againAll (e.2.recAt.take 1) .write with
    | (.ok as, s1) => if s.disturbs (s1.runWrite as [2]) then (e, s) else ((e.1, { e.2 with state := .cancelled }), s1.runWrite as [2])
    | (.error _, s1) => ((e.1, { e.2 with state := .cancelled }), s1)
  else (e, s)

/-- The rows of some atria that are being stopped have their status written. -/
def stopAtria (as : Tbl Atrium) (s : State) : Tbl Atrium × State :=
  thread (fun (e : Nat × Atrium) s => let r := thread stopRow e.2.rows s; ((e.1, { e.2 with rows := r.1 }), r.2)) as s

/-- The rows that are being stopped have their status written, in the cores and in context images (R302, R330). -/
def State.stopRows (s : State) : State :=
  let here := stopAtria s.atria s
  let there := thread (fun (g : SavedGang) s =>
    let r := thread (fun (m : SavedMember) s => let v := stopAtria m.atria s; ({ m with atria := v.1 }, v.2)) g.members s
    ({ g with members := r.1 }, r.2)) s.saved here.2
  { there.2 with atria := here.1, saved := there.1 }

/-- What a stopped lane leaves of a pending instruction: it writes no register results for that lane, and waits for nothing of it (R330). -/
def Pending.stop (p : Pending) (lanes : Mask) : Pending :=
  let gone := decide (p.mask &&& ~~~lanes = 0)
  let on (l : Nat) : Bool := !lanes.getLsbD l
  let regs (g : List (Nat × Nat × Word)) : List (Nat × Nat × Word) := g.filter (fun w => on w.2.1)
  let act := match p.act with
    | .write g pw fl => PendAct.write (regs g) (pw.filter (fun w => on w.2.1)) fl
    | .reading g a => .reading (regs g) a
    | .product g idle a => .product (regs g) (idle.filter (fun x => on x.1)) a
    | .load d wd ord ls => .load d wd ord (ls.filter (fun x => on x.lane))
    | .bad d wd ord bad ls =>
      let left := bad.filter (fun x => on x.lane)
      if left = [] then .load d wd ord (ls.filter (fun x => on x.lane)) else .bad d wd ord left (ls.filter (fun x => on x.lane))
    | .fwait pd atr futs stop => .fwait pd atr (futs.filter (fun x => on x.1)) stop
    | .atrPop d pd atr win off stop => if gone then .finished else .atrPop d pd atr win off stop
    | .commands cx d since got rest => .commands cx d since (got.filter (fun x => on x.1)) (rest.filter (fun x => on x.lane))
    | .expand e => if gone then .finished else .expand e
    | .trapped a => if gone then .finished else .trapped a
    | a => a
  { p with mask := p.mask &&& ~~~lanes, act := act }

/-- What a slot waits for once some of its lanes are stopped (R330). -/
def Wait.stop (w : Wait) (lanes : Mask) : Wait :=
  match w with
  | .barWait k toks => .barWait k (toks.filter (fun t => !lanes.getLsbD t.1))
  | .land refs => .land (refs.filter (fun r => !lanes.getLsbD r.1))
  | .timeline cx pd vals stop => .timeline cx pd (vals.filter (fun v => !lanes.getLsbD v.1)) stop
  | .grow pd m n => .grow pd (m &&& ~~~lanes) n
  | w => w

/-- Stops lanes of a slot. -/
def Slot.stop (x : Slot) (lanes : Mask) : Slot :=
  let m := x.mask &&& ~~~lanes
  if m = x.mask then x
  else if m = 0 then { Slot.free with aged := x.aged, old := x.old, hint := x.hint }
  else { x with mask := m, wait := x.wait.stop lanes }

/-- Ends the windows of a slot that lanes have left free. -/
def Flight.vacate (f : Flight) (b was : Bool) : Flight := if was && !(f.slot b).live then f.endWindows b else f

/-- Stops lanes of a flight: they leave its slots and every entry of its stack, and their regions abort with cause 8 (R253,
R330). The windows of a slot that they leave free end (R50). -/
def Flight.stop (f0 : Flight) (lanes : Mask) : Flight :=
  let f := ((lanesOf lanes).filter (fun l => f0.inRegion l)).foldl (fun f l => f.abortRegion ⟨l, 8, 0⟩) f0
  (({ f with
    a := f.a.stop lanes
    b := f.b.stop lanes
    stack := f.stack.map (fun (t : StackEnt) => { t with mask := t.mask &&& ~~~lanes })
    pending := f.pending.map (fun p => p.stop lanes) } : Flight).vacate false f.a.live).vacate true f.b.live

/-- The lanes of a flight that a cancellation of some scopes stops; handler lanes in scope 0 are never stopped (R330). -/
def Flight.covered (f : Flight) (scopes : List Nat) : Mask :=
  maskOf ((lanesOf f.alive).filter (fun l =>
    let sc := (Cells.get f.scope l).toNat
    scopes.contains sc && !(decide (f.kind = .handler) && decide (sc = 0))))

/-- Stops lanes of a flight in the cores: its arrivals, GROW requests and reservations follow (R330), and where it has no participant lane
left in an open expansion it is released (R160). -/
def State.stopLanes (s : State) (key : Nat) (lanes : Mask) : State :=
  match Tbl.find s.flights key with
  | none => s
  | some f =>
    let f' := f.stop lanes
    let growing (b : Bool) : Bool := match (f'.slot b).wait with
      | .grow _ _ _ => (f'.slot b).live
      | _ => false
    let cutArr (a : Arrival) : Arrival :=
      if a.flight = key % 64 then { a with lanes := a.lanes.filter (fun x => !lanes.getLsbD x.1) } else a
    let cutX (e : Nat × Expansion) : Nat × Expansion :=
      if e.1 / 4 = 4 * (key / 64) + key % 64 / 16 then
        (e.1, { e.2 with arrivals := (e.2.arrivals.map cutArr).filter (fun a => !a.lanes.isEmpty) })
      else e
    let s1 := s.putFlight key f'
    let stays (c : Cur) : Bool := decide (c.flight ≠ key) || growing c.slotB
    let grow (e : Nat × List Cur) : Nat × List Cur := (e.1, e.2.filter stays)
    let free (r : Reservation) : Bool := decide (r.flight ≠ key) || !lanes.getLsbD r.lane
    (List.range 4).foldl (fun s e => s.expanUpdate (xslot key e)) { s1 with
      growers := s1.growers.map grow
      reserved := s1.reserved.filter free
      expans := (s1.expans.map cutX).filter (fun (e : Nat × Expansion) => e.2.isOpen || !e.2.arrivals.isEmpty) }

/-- The deadline register after a write with or without .MIN (R328). -/
def applyDl (d : Nat) (x : Nat × Bool) : Nat :=
  if x.2 then (if x.1 ≠ 0 ∧ (d = 0 ∨ x.1 < d) then x.1 else d) else x.1

/-- Retires every workgroup of a launch whose work has ended (R22). -/
def State.tidyLaunch (s : State) (launch : Word) : State :=
  match Tbl.find s.launches launch.toNat with
  | none => s
  | some la => (la.wgs.filter (fun w => !w.saved)).foldl (fun s w => s.tidyWg launch w.core) s

/-- Takes steps 4 to 6 of a cancellation whose commands have completed: chains return, stopped threads leave their galleries
and flights retire, and a deadline event reaches its handler (R330). -/
def State.cancelEnd (s : State) (launch : Word) (c : CancelSeq) : State :=
  let s1 := s.modLaunch launch.toNat (fun la => { la with cancels := la.cancels.filter (fun (x : CancelSeq) => decide (x ≠ c)) })
  let s2 := c.covered.foldl (fun s id => s.returnChain launch id) s1
  let s3 := c.stopped.foldl (fun s x =>
    match Tbl.find s.flights x.1 with
    | none => s
    | some f => if f.order = x.2.1 then (s.leaveAll x.1 x.2.2).retireIf x.1 else s) s2
  match c.issuer with
  | some i =>
    (s3.modFlight i.1 (fun f => if f.order = i.2.1 then
      { f with pending := f.pending.map (fun (p : Pending) =>
          if p.seq = i.2.2 ∧ p.act = .cancel then { p with act := .finished } else p) } else f)).tidyLaunch launch
  | none =>
    let held (w : Workgroup) : Workgroup :=
      if w.dlPending then
        { w with dlPending := false, held := if w.held.contains .deadline then w.held else w.held ++ [.deadline] }
      else w
    (s3.modLaunch launch.toNat (fun la =>
      { la with deadline := la.dlWrites.foldl applyDl 0, dlWrites := [], wgs := la.wgs.map held })).tidyLaunch launch

/-- Whether a row of some atria waits for its status to be written. -/
def stopsLeft (as : Tbl Atrium) : Bool := as.any (fun e => e.2.rows.any (fun r => decide (r.2.state = .stopping)))

/-- Whether every command that a cancellation of a launch waits for has completed, and every row's status is written. -/
def State.cancelReady (s : State) (launch : Word) (c : CancelSeq) : Bool :=
  c.cmds.all (fun x => decide (x.2 ≤ (s.ctx x.1).timeline)) &&
    !stopsLeft (s.atria.filter (fun e => decide (e.2.bound = some launch))) &&
    !s.saved.any (fun g => decide (g.launch = launch) && g.members.any (fun m => stopsLeft m.atria))

/-- Lets the cancellations of every launch go on whose commands have completed; one that would change a word reserved for a priority attempt
waits (R252, R330). -/
def State.cancelAdvance (s0 : State) : State :=
  let s := s0.stopRows
  s.launches.foldl (fun s e => e.2.cancels.foldl (fun s c =>
    if s.cancelReady e.2.word c then s.unlessHeld (s.cancelEnd e.2.word c) else s) s) s

/-- A cancellation in a context image (R330). -/
def SavedMember.cancel (m : SavedMember) (covered : List Nat) : SavedMember :=
  let flight (e : Nat × Flight) : Nat × Flight := (e.1, (e.2.stop (e.2.covered covered)).settle)
  let barrier (e : Nat × Barrier) : Nat × Barrier :=
    (e.1, m.flights.foldl (fun (b : Barrier) (x : Nat × Flight) => b.drop x.1 (x.2.covered covered)) e.2)
  let cut (a : Arrival) : Arrival :=
    let gone := ((Tbl.find m.flights a.flight).map (fun f => f.covered covered)).getD 0
    { a with lanes := a.lanes.filter (fun x => !gone.getLsbD x.1) }
  let expan (e : Nat × Expansion) : Nat × Expansion :=
    (e.1, { e.2 with arrivals := (e.2.arrivals.map cut).filter (fun a => !a.lanes.isEmpty) })
  { m with
    expans := (m.expans.map expan).filter (fun e => e.2.isOpen || !e.2.arrivals.isEmpty)
    flights := m.flights.map flight
    barriers := m.barriers.map barrier
    tasks := m.tasks.filter (fun c => !covered.contains c.scope.toNat)
    atria := m.atria.map (fun (e : Nat × Atrium) => (e.1, e.2.cancel covered)) }

/-- Begins the cancellation of some scopes and their descendants (R330): marks them, stops their lanes, whose cores release what they
have stored, so that a handler flight sees it (R211), and treats the queued items of R302. own is the flight that the caller settles itself. -/
def State.cancelStart (s : State) (launch : Word) (roots : List Nat) (issuer : Option (Nat × Nat × Nat)) (own : Option Nat) :
    State :=
  match Tbl.find s.launches launch.toNat with
  | none => s
  | some la =>
    let covered := (la.scopes.map (fun e => e.1)).filter (fun id => (ancestors la.scopes 4096 id).any (fun a => roots.contains a))
    let hit := (s.flights.filter (fun e => decide (e.2.launch = launch) && decide (e.2.covered covered ≠ 0))).map
      (fun e => (e.1, e.2.order, e.2.covered covered))
    let s1 := s.modLaunch launch.toNat (fun la => { la with scopes := la.scopes.map (fun (e : Nat × Scope) =>
      if covered.contains e.1 then (e.1, { e.2 with cancelled := true }) else e) })
    let s2 := hit.foldl (fun s x => s.stopLanes x.1 x.2.2) ((sortNat (hit.map (fun x => keyCore x.1))).foldl State.release s1)
    let s3 := hit.foldl (fun s x => if own = some x.1 then s else s.modFlight x.1 (fun f => f.settle)) s2
    let mine (c : ChildGroup) : Bool := decide (c.launch = launch) && covered.contains c.scope.toNat
    let s4 := { s3 with tasks := s3.tasks.map (fun (e : Nat × List ChildGroup) => (e.1, e.2.filter (fun c => !mine c))) }
    let bound (a : Atrium) : Bool := decide (a.bound = some launch)
    let s5 := { s4 with
      atria := s4.atria.map (fun (e : Nat × Atrium) => if bound e.2 then (e.1, e.2.cancel covered) else e)
      saved := s4.saved.map (fun (g : SavedGang) => if g.launch = launch then { g with members := g.members.map (fun (m : SavedMember) => m.cancel covered) } else g) }
    let s6 := s5.stopRows
    let test (_ : Nat) (c : Command) : Bool := decide (c.launch = some launch) && covered.contains c.scope.toNat
    let waits := s6.ctxs.flatMap (fun e => (e.2.cmds.filter (test e.1)).map (fun c => (e.1, c.num)))
    let seq : CancelSeq := { covered := sortNat covered, stopped := hit, cmds := waits, issuer := issuer }
    ((s6.cancelCommands test).modLaunch launch.toNat (fun la => { la with cancels := la.cancels ++ [seq] })).cancelAdvance

end Sys2Proof.Machine
end

