-- ==== Sys2Proof/Machine/Engine.lean ====
section
/-! DEFINITION. The ENG instructions: spawning (R282), the tile dispenser (R283), atria (R284 to R287), futures (R288, R289),
engine commands (R290, R291, R294, R297), pools (R299) and scopes (R300, R301). -/

namespace Sys2Proof.Machine

/-- A lane's scope (R72). -/
def Flight.scopeOf (f : Flight) (l : Nat) : Word := Cells.get f.scope l

/-- What a per-lane ENG instruction gives: register and predicate writes, and faults. -/
structure EngRes where
  g  : List (Nat × Nat × Word)
  p  : List (Nat × Nat × Bool)
  fs : List LaneFault
deriving DecidableEq, Repr

def EngRes.fault (x : LaneFault) : EngRes := { g := [], p := [], fs := [x] }

/-- An ENG instruction stays pending with what its lanes gave. -/
def engDone (p : Place) (i : Instr) (rs : List EngRes) (s : State) : Body :=
  let fs := rs.flatMap (fun x => x.fs)
  .done (s.later p i (p.act &&& ~~~(maskOf (fs.map (·.lane)))) (.write (rs.flatMap (fun x => x.g)) (rs.flatMap (fun x => x.p)) 0)) fs []

/-- Carries out an ENG instruction lane by lane in ascending order; the results are written when it completes (R49). -/
def engLanes (p : Place) (i : Instr) (s : State) (one : Flight → Nat → State → EngRes × State) : Body :=
  match s.flight p.key with
  | none => .done s [] []
  | some f => let r := thread (fun l s => one f l s) (lanesOf p.act) s; engDone p i r.1 r.2

/-! Spawning and the dispenser. -/

/-- Child groups that a task queue holds (R20). -/
def taskCap : Nat := 1024

/-- SPAWN (R282). Its enqueue is a releasing side of R211. -/
def execSpawn (pd : PReg) (a : Reg) (la : BitVec 4) (role : BitVec 2) (cnt : BitVec 5) (s : State) : Outcome State :=
  let i := Instr.spawn pd a la role cnt
  issue i s (fun p s =>
    if s.busy p then .stall
    else
      engLanes p i (s.release p.core) (fun f l s =>
        if ((p.la.roles[role.toNat]?).map (fun r => r.spawnable)).getD false = false then (.fault (plainFault .engine l), s)
        else
          let q := (Tbl.find s.tasks p.core).getD []
          if q.length < taskCap then
            let c : ChildGroup := { launch := f.launch, role := role.toNat, arg := f.g l a, scope := f.scopeOf l, count := cnt.toNat + 1 }
            ({ g := [], p := [(pd.toNat, l, true)], fs := [] }, { s with tasks := Tbl.put s.tasks p.core (q ++ [c]) })
          else ({ g := [], p := [(pd.toNat, l, false)], fs := [] }, s)))

/-- The next chunk of a dispenser: what TFETCH writes, and the dispenser after (R23, R277, R283). -/
def Dispenser.take (d : Dispenser) : Option (List Word × Dispenser) :=
  let w (n : Nat) : Word := BitVec.ofNat 32 n
  if d.grouped then
    let rest := (List.range d.groups.length).zip d.groups
    let open_ (e : Nat × Nat) : Bool := decide (d.group < e.1) && decide (0 < e.2) || decide (e.1 = d.group) && decide (d.cursor < e.2)
    match rest.find? open_ with
    | none => none
    | some e =>
      let c := if e.1 = d.group then d.cursor else 0
      let n := min d.chunk (e.2 - c)
      some ([w e.1, w c, 0, w n], { d with group := e.1, cursor := c + n })
  else if d.x * d.y * d.z ≤ d.cursor then none
  else
    let n := min d.chunk (d.x * d.y * d.z - d.cursor)
    some ([w (d.cursor % d.x), w (d.cursor / d.x % d.y), w (d.cursor / (d.x * d.y)), w n], { d with cursor := d.cursor + n })

/-- TFETCH (R283). -/
def execTfetch (d : Reg) (la : BitVec 4) (pd : PReg) (s : State) : Outcome State :=
  let i := Instr.tfetch d la pd
  issue i s (fun p s =>
    engLanes p i s (fun f l s =>
      match ((Tbl.find s.launches f.launch.toNat).bind (fun x => x.disp.take)) with
      | some (ws, disp) =>
        ({ g := runWrites d l ws, p := [(pd.toNat, l, true)], fs := [] },
         s.modLaunch f.launch.toNat (fun x => { x with disp := disp }))
      | none => ({ g := [], p := [(pd.toNat, l, false)], fs := [] }, s)))

/-! Atria (R284 to R288). -/

/-- An unbound atrium (R280). -/
def Atrium.reset : Atrium := { bound := none, push := 0, rows := [], tiles := [] }

/-- An atrium of a core. -/
def State.atrium (s : State) (core a : Nat) : Atrium := (Tbl.find s.atria (4 * core + a)).getD Atrium.reset

/-- Replaces an atrium of a core. -/
def State.setAtrium (s : State) (core a : Nat) (x : Atrium) : State := { s with atria := Tbl.put s.atria (4 * core + a) x }

/-- Whether a row is resolved (R284). -/
def AtrRow.resolved (r : AtrRow) : Bool := decide (r.state = .returned) || decide (r.state = .cancelled)

/-- The number of unresolved rows. -/
def Atrium.unresolved (x : Atrium) : Nat := (x.rows.filter (fun e => !e.2.resolved)).length

/-- Whether the newest tile still takes rows (R284). -/
def Atrium.filling (x : Atrium) : Bool := ((x.tiles.getLast?).map (fun t => !t.full)).getD false

/-- Whether the next push is refused (R285). -/
def Atrium.refuses (x : Atrium) : Bool :=
  decide (256 ≤ x.unresolved) || (decide (8 ≤ x.tiles.length) && !x.filling) ||
    ((Tbl.find x.rows ((x.push + 1) % 256)).map (fun r => !r.resolved)).getD false

/-- An atrium with a row pushed (R284, R285). -/
def Atrium.pushRow (x : Atrium) (scope : Word) (at_ : List LaneAddr) (ws : List Word) : Atrium :=
  let n := x.push + 1
  let row : AtrRow := { seq := n, state := .queued, scope := scope, recAt := at_, words := ws }
  let last : AtrTile := if x.filling then (x.tiles.getLast?).getD { rows := [], full := false } else { rows := [], full := false }
  let t : AtrTile := { rows := last.rows ++ [n], full := decide (32 ≤ last.rows.length + 1) }
  { x with push := n, rows := Tbl.put x.rows (n % 256) row,
           tiles := (if x.filling then x.tiles.dropLast else x.tiles) ++ [t] }

/-- The future or ticket of a row (R288). -/
def atrFuture (a seq : Nat) : Word := BitVec.ofNat 32 (a * 2 ^ 24 + seq % 2 ^ 24)

/-- Words in a row of registers. -/
def gWords (f : Flight) (l : Nat) (r : Reg) (n : Nat) : List Word := (List.range n).map (fun i => f.gAt l r i)

/-- ATR.PUSH (R284, R285). -/
def execAtrPush (d a : Reg) (la : BitVec 4) (atr : BitVec 2) (n : BitVec 5) (pd : PReg) (h : BitVec 10) (c : Reg) (s : State) :
    Outcome State :=
  let i := Instr.atrPush d a la atr n pd h c
  issue i s (fun p s =>
    let x := s.atrium p.core atr.toNat
    if x.bound ≠ none ∧ x.bound ≠ some p.la.word then .done s (faultAll .engine p.act) []
    else
      let hd := s.handle p.core p.la.ctx0 h.toNat
      engLanes p i hd.2 (fun f l s =>
        match s.checkRun p.core p.la.ctx0 h.toNat l hd.1 ((f.g l c).toNat : Int) 36 4 .write with
        | (.error e, s1) => (.fault (denyFault e l), s1)
        | (.ok as, s1) =>
          let y := { s1.atrium p.core atr.toNat with bound := some p.la.word }
          if y.refuses then ({ g := [], p := [(pd.toNat, l, false)], fs := [] }, s1.setAtrium p.core atr.toNat y)
          else
            ({ g := runWrites d l [atrFuture atr.toNat (y.push + 1)], p := [(pd.toNat, l, true)], fs := [] },
             s1.setAtrium p.core atr.toNat (y.pushRow (f.scopeOf l) as (gWords f l a (n.toNat + 1))))))

/-- The tile that a pop takes: the oldest full one, or when it takes what there is the oldest (R286). -/
def Atrium.tileFor (x : Atrium) (any : Bool) : Option AtrTile :=
  match x.tiles.find? (fun t => t.full) with
  | some t => some t
  | none => if any then x.tiles.head? else none

/-- Takes a tile of an atrium (R286): the register and predicate writes for the 32 lanes, and the state with the tile in
scratchpad. With no tile every lane receives 0 and false. -/
def State.popTile (s : State) (la : Launch) (core atr d pd win off : Nat) (tile : Option AtrTile) :
    (List (Nat × Nat × Word) × List (Nat × Nat × Bool)) × State :=
  let x := s.atrium core atr
  let rows := (tile.map (fun t => t.rows)).getD []
  let lane (l : Nat) : Option Nat := rows[l]?
  let g := (List.range 32).flatMap (fun l =>
    if d = 127 then [] else [(d, l, ((lane l).map (atrFuture atr)).getD 0)])
  let p := (List.range 32).map (fun l => (pd, l, (lane l).isSome))
  match tile with
  | none => ((g, p), s)
  | some t =>
    let w := la.winAt core win
    let put (c : Cells 8) (o v : Nat) : Cells 8 :=
      Cells.set c (w.start + (if w.ring then o % w.size else o)) (BitVec.ofNat 8 v)
    let words (l : Nat) : List Word := ((lane l).bind (fun n => Tbl.find x.rows (n % 256))).elim [] (fun r => r.words)
    let c := (List.range 32).foldl (fun c l =>
      let ws := words l
      (List.range 128).foldl (fun c k => put c (off + 128 * l + k) ((ws.getD (k / 4) 0).toNat / 256 ^ (k % 4))) c) (s.scr core)
    let whole := (List.range 4096).map (fun i => w.start + (if w.ring then (off + i) % w.size else off + i))
    let y := { x with
      tiles := x.tiles.filter (fun u => decide (u ≠ t))
      rows := x.rows.map (fun (e : Nat × AtrRow) => if rows.contains e.2.seq then (e.1, { e.2 with state := .popped }) else e) }
    ((g, p), ((s.setScr core c).scrClean core whole).setAtrium core atr y)

/-- Whether the tile of a pop fits its window (R286). -/
def popFits (w : WinAt) (off : Nat) : Bool := if w.ring then decide (4096 ≤ w.size) else decide (off + 4096 ≤ w.size)

/-- ATR.POP (R286). It takes a full tile now, takes what there is when its timeout is 0, and otherwise waits. -/
def execAtrPop (d : Reg) (la : BitVec 4) (atr : BitVec 2) (win : BitVec 4) (pd : PReg) (tmo off : BitVec 10) (s : State) :
    Outcome State :=
  let i := Instr.atrPop d la atr win pd tmo off
  issue i s (fun p s =>
    let x := s.atrium p.core atr.toNat
    let listed := p.la.windows.any (fun w => decide (w.num = win.toNat))
    if p.act ≠ BitVec.allOnes 32 ∨ (x.bound ≠ none ∧ x.bound ≠ some p.la.word) ∨ listed = false ∨
        popFits (p.la.winAt p.core win.toNat) (128 * off.toNat) = false then
      .done s (faultAll .engine p.act) []
    else
      let s1 := s.setAtrium p.core atr.toNat { x with bound := some p.la.word }
      match x.tileFor (decide (tmo = 0)), decide (tmo = 0) with
      | none, false =>
        .done (s1.later p i p.act (.atrPop d.toNat pd.toNat atr.toNat win.toNat (128 * off.toNat)
          (if tmo.toNat = 1023 then none else some (s.cycle + 16 * tmo.toNat)))) [] []
      | t, _ =>
        let r := s1.popTile p.la p.core atr.toNat d.toNat pd.toNat win.toNat (128 * off.toNat) t
        .done (r.2.later p i p.act (.write r.1.1 r.1.2 0)) [] [])

/-- The row that a ticket or a future names in an atrium (R287, R288). -/
def Atrium.named (x : Atrium) (t : Word) : Option AtrRow :=
  (Tbl.find x.rows ((fld t 0 24).toNat % 256)).filter (fun r => decide (r.seq % 2 ^ 24 = (fld t 0 24).toNat))

/-- ATR.RET for one lane (R287): none where the row's record cannot be reached or written as it stands, so that the instruction waits, since
it raises no fault for it (R271, R272, R304, log entry 81). -/
def returnRow (core atr : Nat) (f : Flight) (a c : Reg) (rn l : Nat) (s : State) : Option EngRes × State :=
  let t := f.g l a
  let x := s.atrium core atr
  match x.named t with
  | none => (some (.fault (plainFault .engine l)), s)
  | some r =>
    if zf t 26 6 = false ∨ (fld t 24 2).toNat ≠ atr ∨ r.state = .queued ∨ r.state = .returned then
      (some (.fault (plainFault .engine l)), s)
    else if r.state = .stopping ∨ r.state = .cancelled then (some ⟨[], [], []⟩, s)
    else
      match s.againAll (r.recAt.take (rn + 2)) .write with
      | (.error _, s0) => (none, s0)
      | (.ok as, s0) =>
        let s1 := (as.zip (1 :: gWords f l c (rn + 1))).foldl (fun s x => s.storeBytes core false x.1 4 x.2.toNat) s0
        (some ⟨[], [], []⟩, s1.setAtrium core atr { x with rows := Tbl.put x.rows (r.seq % 256) { r with state := .returned } })

/-- ATR.RET (R287). The writes are accepted at their homes before the row resolves, as the record's addresses translate and permit then (R271,
R272). It waits while they would change a word reserved for a priority attempt (R252). -/
def execAtrRet (a : Reg) (la : BitVec 4) (atr : BitVec 2) (rn : BitVec 3) (c : Reg) (s : State) : Outcome State :=
  let i := Instr.atrRet a la atr rn c
  issue i s (fun p s =>
    if (s.atrium p.core atr.toNat).bound ≠ some p.la.word then .done s (faultAll .engine p.act) []
    else if s.busy p then .stall
    else
      match s.flight p.key with
      | none => .done s [] []
      | some f =>
        let r := thread (fun l s => returnRow p.core atr.toNat f a c rn.toNat l s) (lanesOf p.act) (s.release p.core)
        if r.1.contains none then .stall else (engDone p i (r.1.filterMap id) r.2).unlessHeld s)

/-! Futures (R288, R289). -/

/-- Whether the future of an engine command is resolved: a comparison mod 2^24 (R288). -/
def engResolved (timeline : Nat) (fut : Word) : Bool :=
  let n := ((fld fut 0 24).toNat + (2 ^ 24 - timeline % 2 ^ 24)) % 2 ^ 24
  decide (n = 0) || decide (2 ^ 23 ≤ n)

/-- Whether a future is resolved; none when it names nothing of the launch (R288, R289). An atrium future whose row slot holds no row is
resolved: the model's choice (log entry 92). -/
def State.resolved (s : State) (la : Launch) (core : Nat) (atr : Bool) (fut : Word) : Option Bool :=
  if atr then
    let x := s.atrium core (fld fut 24 2).toNat
    if zf fut 26 6 = false ∨ x.bound ≠ some la.word then none
    else some (((x.named fut).map (fun r => r.resolved)).getD true)
  else
    let cx := (fld fut 24 8).toNat
    if la.ctxs.contains (some cx) then some (engResolved (s.ctx cx).timeline fut) else none

/-- The lanes' futures and the lanes that name nothing of the launch. -/
def futures (p : Place) (f : Flight) (s : State) (a : Reg) (atr : Bool) : List (Nat × Word) × List Nat :=
  let all := (lanesOf p.act).map (fun l => (l, f.g l a))
  (all.filter (fun x => (s.resolved p.la p.core atr x.2).isSome),
   (all.filter (fun x => (s.resolved p.la p.core atr x.2).isNone)).map (·.1))

/-- The predicate writes of FWAIT and FTEST: whether each lane's future is resolved now. -/
def futWrites (s : State) (la : Launch) (core pd : Nat) (atr : Bool) (futs : List (Nat × Word)) : List (Nat × Nat × Bool) :=
  futs.map (fun x => (pd, x.1, (s.resolved la core atr x.2).getD true))

/-- FWAIT (R289). A timeout of 0 is no limit. -/
def execFwait (pd : PReg) (a : Reg) (atr : Bool) (la : BitVec 4) (tmo : BitVec 16) (s : State) : Outcome State :=
  let i := Instr.fwait pd a atr la tmo
  issue i s (fun p s =>
    match s.flight p.key with
    | none => .done s [] []
    | some f =>
      let r := futures p f s a atr
      .done (s.later p i (maskOf (r.1.map (·.1))) (.fwait pd.toNat atr r.1
        (if tmo = 0 then none else some (s.cycle + 16 * tmo.toNat)))) (r.2.map (plainFault .engine)) [])

/-- FTEST (R289). -/
def execFtest (pd : PReg) (a : Reg) (atr : Bool) (la : BitVec 4) (s : State) : Outcome State :=
  let i := Instr.ftest pd a atr la
  issue i s (fun p s =>
    match s.flight p.key with
    | none => .done s [] []
    | some f =>
      let r := futures p f s a atr
      .done (s.later p i (maskOf (r.1.map (·.1))) (.write [] (futWrites s p.la p.core pd.toNat atr r.1) 0))
        (r.2.map (plainFault .engine)) [])

/-! Engine commands (R290, R291, R294, R297). -/

/-- Hands over the commands of the active lanes: the issuing slot's accesses are released first (R225), each lane's record is
read, and the futures are written when every command has found room (R290). -/
def handOver (i : Instr) (d : Reg) (cx : BitVec 2) (s : State)
    (one : Place → Flight → Nat → State → Except Deny (List CmdKind) × State) : Outcome State :=
  issue i s (fun p s =>
    match s.flight p.key, p.la.ctxAt cx.toNat with
    | none, _ => .done s [] []
    | _, none => .done s (faultAll .engine p.act) []
    | some f, some ctx =>
      if s.busy p then .stall
      else
        let r := thread (fun l s => let v := one p f l s; ((l, v.1), v.2)) (lanesOf p.act) (s.release p.core)
        let fs := r.1.filterMap (fun x => match x.2 with
          | .error e => some (denyFault e x.1)
          | .ok _ => none)
        let items := r.1.flatMap (fun x => match x.2 with
          | .error _ => []
          | .ok ks => ((List.range ks.length).zip ks).map (fun k =>
              ({ lane := x.1, scope := f.scopeOf x.1, kind := k.2, last := decide (k.1 + 1 = ks.length) } : CmdItem)))
        let good := p.act &&& ~~~(maskOf (fs.map (·.lane)))
        let v := if (r.2.cmdWaiters ctx).isEmpty then feedItems p.la.word (p.la.wgidAt p.core) ctx items [] r.2 else ([], items, r.2)
        .done (v.2.2.later p i good (if v.2.1 = [] then .write (v.1.flatMap (fun x => runWrites d x.1 [x.2])) [] 0
          else .commands ctx d.toNat s.cycle v.1 v.2.1)) fs [])

/-- CHAIN (R291). -/
def execChain (d a : Reg) (n la : BitVec 4) (h : BitVec 10) (cx : BitVec 2) (imm : BitVec 17) (s : State) : Outcome State :=
  handOver (.chain d a n la h cx imm) d cx s (fun p f l s =>
    let hd := s.handle p.core p.la.ctx0 h.toNat
    match hd.2.checkRun p.core p.la.ctx0 h.toNat l hd.1 (((f.g l a).toNat : Int) + imm.toInt) (64 * (n.toNat + 1)) 64 .read with
    | (.error e, s1) => (.error e, s1)
    | (.ok as, s1) =>
      let v := s1.runRead as
      (.ok ((List.range (n.toNat + 1)).map (fun k => .chain ((v.1.drop (16 * k)).take 16))), v.2))

/-- CQRY (R294): the query record, and the result record that its last word names. -/
def execCqry (d a : Reg) (la : BitVec 4) (h : BitVec 10) (cx : BitVec 2) (imm : BitVec 17) (s : State) : Outcome State :=
  handOver (.cqry d a la h cx imm) d cx s (fun p f l s =>
    let hd := s.handle p.core p.la.ctx0 h.toNat
    match hd.2.checkRun p.core p.la.ctx0 h.toNat l hd.1 (((f.g l a).toNat : Int) + imm.toInt) 64 64 .read with
    | (.error e, s1) => (.error e, s1)
    | (.ok as, s1) =>
      let v := s1.runRead as
      match v.2.checkRun p.core p.la.ctx0 h.toNat l hd.1 ((v.1.getD 15 0).toNat : Int) 16 16 .write with
      | (.error e, s2) => (.error e, s2)
      | (.ok at_, s2) => (.ok [.query v.1 at_], s2))

/-- DSTEP (R297). -/
def execDstep (d a : Reg) (la : BitVec 4) (h : BitVec 10) (cx : BitVec 2) (imm : BitVec 17) (s : State) : Outcome State :=
  handOver (.dstep d a la h cx imm) d cx s (fun p f l s =>
    let hd := s.handle p.core p.la.ctx0 h.toNat
    let o := ((f.g l a).toNat : Int) + imm.toInt
    match hd.2.checkRun p.core p.la.ctx0 h.toNat l hd.1 o 48 16 .both with
    | (.error e, s1) => (.error e, s1)
    | (.ok as, s1) => let v := s1.runRead as; (.ok [.dyn v.1 as], v.2))

/-! Pools and scopes. -/

/-- POOL.ALLOC (R299). It waits while it would change a word reserved for a priority attempt (R252). -/
def execPoolAlloc (d : Reg) (la : BitVec 4) (pd : PReg) (q : BitVec 6) (s : State) : Outcome State :=
  let i := Instr.poolAlloc d la pd q
  issue i s (fun p s =>
    let v := s.pool p.core p.la.ctx0 q.toNat
    if v.1 = none then .done v.2 (faultAll .pool p.act) []
    else
      (engLanes p i v.2 (fun f l s =>
        match s.allocNode p.la.word p.core p.la.ctx0 q.toNat (f.scopeOf l).toNat with
        | (.error c, s1) => (.fault (plainFault c l), s1)
        | (.ok none, s1) => ({ g := [], p := [(pd.toNat, l, false)], fs := [] }, s1)
        | (.ok (some n), s1) => ({ g := runWrites d l [BitVec.ofNat 32 n], p := [(pd.toNat, l, true)], fs := [] }, s1))).unlessHeld s)

/-- POOL.FREE (R299). It has the release role, and waits as POOL.ALLOC does (R252). -/
def execPoolFree (a : Reg) (la : BitVec 4) (q : BitVec 6) (s : State) : Outcome State :=
  let i := Instr.poolFree a la q
  issue i s (fun p s =>
    let v := s.pool p.core p.la.ctx0 q.toNat
    if v.1 = none then .done v.2 (faultAll .pool p.act) []
    else if s.busy p then .stall
    else
      (engLanes p i (v.2.release p.core) (fun f l s =>
        match s.freeNode p.la.word p.core p.la.ctx0 q.toNat (f.g l a).toNat with
        | (some c, s1) => (.fault (plainFault c l), s1)
        | (none, s1) => (⟨[], [], []⟩, s1))).unlessHeld s)

/-- Sets the scope of lanes. -/
def Flight.setScope (f : Flight) (ls : List Nat) (v : Word) : Flight :=
  { f with scope := ls.foldl (fun c l => Cells.set c l v) f.scope }

/-- Opens a scope with a parent for some lanes, if an id is free (R300, R329). -/
def State.openScope (s : State) (key : Nat) (launch parent : Word) (any : Bool) (ls : List Nat) : Option Nat × State :=
  let s1 := s.sweepScopes launch
  match (Tbl.find s1.launches launch.toNat).bind (fun la => la.freeScope) with
  | none => (none, s1)
  | some id =>
    let s2 := s1.modLaunch launch.toNat (fun la =>
      let r : Scope := { parent := parent.toNat, anytime := any,
                         cancelled := ((Tbl.find la.scopes parent.toNat).map (fun r => r.cancelled)).getD false,
                         head := none, nodes := [], lost := [] }
      { la with scopes := Tbl.put la.scopes id r,
                cancels := la.cancels.map (fun (c : CancelSeq) =>
                  if c.covered.contains parent.toNat then { c with covered := insNat id c.covered } else c) })
    (some id, s2.modFlight key (fun f => f.setScope ls (BitVec.ofNat 32 id)))

/-- Stops lanes that took a scope which a running cancellation covers: their core releases what they have stored, and they belong to what the
cancellation stops (R211, R330). -/
def State.stopOpened (s : State) (key : Nat) (order : Nat) (launch : Word) (id : Nat) (lanes : Mask) : State :=
  let covers (c : CancelSeq) : Bool := c.covered.contains id
  match Tbl.find s.launches launch.toNat with
  | none => s
  | some la =>
    if la.cancels.any covers then
      ((s.release (keyCore key)).stopLanes key lanes).modLaunch launch.toNat (fun la =>
        { la with cancels := la.cancels.map (fun (c : CancelSeq) =>
            if covers c then { c with stopped := c.stopped ++ [(key, order, lanes)] } else c) })
    else s

/-- SCOPE.OPEN (R300). -/
def execScopeOpen (d : Reg) (one any : Bool) (la : BitVec 4) (pd : PReg) (s : State) : Outcome State :=
  let i := Instr.scopeOpen d one any la pd
  issue i s (fun p s =>
    match s.flight p.key with
    | none => .done s [] []
    | some f =>
      let ls := lanesOf p.act
      let lead := f.scopeOf (lowLane p.act)
      if one && ls.any (fun l => decide (f.scopeOf l ≠ lead)) then .done s (faultAll .engine p.act) []
      else
        let groups := if one then [ls] else ls.map (fun l => [l])
        let r := thread (fun (g : List Nat) s =>
          let v := s.openScope p.key p.la.word (f.scopeOf (g.headD 0)) any g
          ((g, v.1), v.2)) groups s
        let gw := r.1.flatMap (fun x => match x.2 with
          | some id => x.1.flatMap (fun l => runWrites d l [BitVec.ofNat 32 id])
          | none => [])
        let pw := r.1.flatMap (fun x => x.1.map (fun l => (pd.toNat, l, x.2.isSome)))
        let s1 := r.2.later p i p.act (.write gw pw 0)
        .done (r.1.foldl (fun s x => match x.2 with
          | some id => s.stopOpened p.key f.order p.la.word id (maskOf x.1)
          | none => s) s1) [] [])

/-- SCOPE.CLOSE (R301). -/
def execScopeClose (la : BitVec 4) (s : State) : Outcome State :=
  let i := Instr.scopeClose la
  issue i s (fun p s =>
    match s.flight p.key with
    | none => .done s [] []
    | some f =>
      let ls := lanesOf p.act
      let bad := ls.filter (fun l => decide (f.scopeOf l = 0))
      let parent (l : Nat) : Word :=
        BitVec.ofNat 32 (((Tbl.find p.la.scopes (f.scopeOf l).toNat).map (fun r => r.parent)).getD 0)
      let s1 := s.modFlight p.key (fun g => (ls.filter (fun l => !bad.contains l)).foldl (fun g l => g.setScope [l] (parent l)) g)
      .done ((s1.later p i (p.act &&& ~~~(maskOf bad)) .finished).sweepScopes p.la.word) (bad.map (plainFault .engine)) [])

/-- CANCEL (R301): the cancellation sequence of R330 for the scopes that the lanes name, without a handler. The instruction
completes when every step of it has taken effect. -/
def execCancel (a : Reg) (la : BitVec 4) (s : State) : Outcome State :=
  let i := Instr.cancel a la
  let out := issue i s (fun p s =>
    let s1 := s.sweepScopes p.la.word
    match s1.flight p.key, Tbl.find s1.launches p.la.word.toNat with
    | some f, some ln =>
      let ids := (lanesOf p.act).map (fun l => (l, (f.g l a).toNat))
      let good := ids.filter (fun x => (Tbl.find ln.scopes x.2).isSome)
      let bad := ids.filter (fun x => (Tbl.find ln.scopes x.2).isNone)
      let roots := sortNat (good.map (·.2))
      let s2 := s1.later p i (maskOf (good.map (·.1))) .cancel
      let s3 := if roots = [] then s2.modFlight p.key (fun g => g.resolve f.nextSeq .finished)
        else s2.cancelStart p.la.word roots (some (p.key, f.order, f.nextSeq)) (some p.key)
      .done s3 (bad.map (fun x => plainFault .engine x.1)) []
    | _, _ => .done s1 [] [])
  match out with
  | .next t => .next (t.retireIf s.cur.flight)
  | o => o

end Sys2Proof.Machine
end

