-- ==== Sys2Proof/Machine/Sync.lean ====
section
/-! DEFINITION. The SYN instructions: galleries and barriers (R320 to R323), landing words (R324, R325), timelines and time
(R326, R327), the deadline register (R328), the best cell (R332), append counters and speculation (R333, R334) and random
numbers (R335). -/

namespace Sys2Proof.Machine

/-! Barriers and galleries. -/

/-- Replaces a barrier of a core. -/
def State.setBar (s : State) (core k : Nat) (b : Barrier) : State := { s with barriers := Tbl.put s.barriers (64 * core + k) b }

/-- Why an arrival of lanes of a flight is refused (R322), n being the count that BAR.SYNCN names. -/
def Barrier.refuses (b : Barrier) (flight : Nat) (lanes : Mask) (n : Option Nat) : Option FCode :=
  let c := if b.fixed then b.c else n.getD b.c0
  if c = 0 ∧ lanes &&& ~~~(Cells.get b.members flight) ≠ 0 then some .gallery
  else if b.fixed = true ∧ n.any (fun m => decide (m ≠ b.c)) then some .barrierCount
  else if c ≠ 0 ∧ c < b.a + countLanes lanes then some .barrierCount
  else if Cells.get b.arrived flight &&& lanes ≠ 0 then some .barrierCount
  else none

/-- A barrier at which lanes of a flight have arrived (R321). -/
def Barrier.arrive (b : Barrier) (launch : Word) (flight : Nat) (lanes : Mask) (n : Option Nat) : Barrier :=
  ({ b with
      bound := some launch
      c := if b.fixed then b.c else n.getD b.c0
      fixed := true
      a := b.a + countLanes lanes
      arrived := Cells.set b.arrived flight (Cells.get b.arrived flight ||| lanes) }).check

/-- The arrival that BAR.SYNC, BAR.SYNCN and BAR.ARV share (R322, R323): the releasing side of R211, then what follows with
the phase number at arrival. -/
def arrival (p : Place) (k : Nat) (n : Option Nat) (s : State) (go : Word → State → Body) : Body :=
  let b := s.bar p.core k
  if b.foreign p then .done s (faultAll .gallery p.act) []
  else
    match b.refuses (p.key % 64) p.act n with
    | some c => .done s (faultAll c p.act) []
    | none =>
      if s.busy p then .stall
      else go b.phase ((s.release p.core).setBar p.core k (b.arrive p.la.word (p.key % 64) p.act n))

/-- Arrives and waits until the phase completes; whoever waits on a completed phase departs (R321, R323). -/
def barrierSync (p : Place) (k : Nat) (n : Option Nat) (s : State) : Body :=
  arrival p k n s (fun ph s =>
    if (s.bar p.core k).phase ≠ ph then .done ((s.acquire p.core).wakeBarriers p.core) [] []
    else .done (s.modFlight p.key (fun f => f.setSlot p.slotB { f.slot p.slotB with wait := .barrier k ph })) [] [])

/-- BAR.SYNC (R323). -/
def execBarSync (k : BitVec 8) (s : State) : Outcome State :=
  issue (.barSync k) s (fun p s => barrierSync p k.toNat none s)

/-- BAR.SYNCN (R323). -/
def execBarSyncn (k : BitVec 6) (n : BitVec 12) (s : State) : Outcome State :=
  issue (.barSyncn k n) s (fun p s => barrierSync p k.toNat (some n.toNat) s)

/-- BAR.ARV (R323). -/
def execBarArv (d : Reg) (k : BitVec 8) (s : State) : Outcome State :=
  issue (.barArv d k) s (fun p s =>
    arrival p k.toNat none s (fun ph s =>
      .done ((s.modFlight p.key (fun f => f.setGs ((lanesOf p.act).map (fun l => (d.toNat, l, ph))))).wakeBarriers p.core) [] []))

/-- Binds an unbound barrier to a launch's workgroup (R320). -/
def State.bindBar (s : State) (core k : Nat) (launch : Word) : State :=
  let b := s.bar core k
  s.setBar core k { b with bound := some (b.bound.getD launch) }

/-- BAR.WAIT (R320, R323): binds the barrier, and waits. -/
def execBarWait (a : Reg) (k : BitVec 8) (s : State) : Outcome State :=
  let out := issue (.barWait a k) s (fun p s =>
    match s.flight p.key with
    | none => .done s [] []
    | some f =>
      let b := s.bar p.core k.toNat
      let toks := (lanesOf p.act).map (fun l => (l, f.g l a))
      if b.foreign p then .done s (faultAll .gallery p.act) []
      else if toks.all (fun t => b.after t.2) then .done ((s.bindBar p.core k.toNat p.la.word).acquire p.core) [] []
      else .await (.barWait k.toNat toks))
  match out with
  | .next t =>
    match t.flight s.cur.flight with
    | none => out
    | some f =>
      match (f.slot s.cur.slotB).wait with
      | .barWait _ _ => .next (t.bindBar (keyCore s.cur.flight) k.toNat f.launch)
      | _ => out
  | o => o

/-- Whether an expansion is forming under a gallery of a core (R158). -/
def State.formingUnder (s : State) (core k : Nat) : Bool :=
  s.expans.any (fun e => decide (e.1 / 16 = core) && !e.2.isOpen && decide (e.2.gallery = some k) && !e.2.arrivals.isEmpty)

/-- JOIN (R158, R320, R323). -/
def execJoinGal (k : BitVec 8) (s : State) : Outcome State :=
  issue (.joinGal k) s (fun p s =>
    let b := s.bar p.core k.toNat
    let m := Cells.get b.members (p.key % 64)
    if b.foreign p || s.formingUnder p.core k.toNat || decide (m &&& p.act ≠ 0) then .done s (faultAll .gallery p.act) []
    else
      let b' := { b with bound := some p.la.word, members := Cells.set b.members (p.key % 64) (m ||| p.act) }
      .done (s.setBar p.core k.toNat b') [] [])

/-- LEAVE (R158, R320, R322, R323). -/
def execLeaveGal (k : BitVec 8) (s : State) : Outcome State :=
  issue (.leaveGal k) s (fun p s =>
    let b := s.bar p.core k.toNat
    let m := Cells.get b.members (p.key % 64)
    if b.foreign p || s.formingUnder p.core k.toNat || decide (p.act &&& ~~~m ≠ 0) ||
        decide (Cells.get b.arrived (p.key % 64) &&& p.act ≠ 0) then
      .done s (faultAll .gallery p.act) []
    else
      let b' := { b with members := Cells.set b.members (p.key % 64) (m &&& ~~~p.act) }
      .done ((s.setBar p.core k.toNat b'.check).wakeBarriers p.core) [] [])

/-- BAR.INIT (R323). -/
def execBarInit (k : BitVec 6) (n : BitVec 12) (s : State) : Outcome State :=
  issue (.barInit k n) s (fun p s =>
    let b := s.bar p.core k.toNat
    if b.foreign p then .done s (faultAll .gallery p.act) []
    else if 0 < b.a ∨ 0 < maskCount b.members then .done s (faultAll .barrierBusy p.act) []
    else .done (s.setBar p.core k.toNat { b with bound := some p.la.word, c0 := n.toNat }) [] [])

/-! Landing words. -/

/-- The landing word that a reference names, or the fault of naming it (R325, R206). -/
def State.landRef (s : State) (p : Place) (r : Word) : Except FCode (Nat × Nat) :=
  match p.la.landAt p.core r with
  | .error c => .error c
  | .ok x => if s.scrBad x.1 x.2 16 then .error .ecc else .ok x

/-- A landing word is read: single-bit errors in it are corrected and counted (R206). -/
def State.landRead (s : State) (x : Nat × Nat) : State := (s.scrErrors x.1 ((List.range 16).map (x.2 + ·))).2

/-- Whether the replay list of a core holds a copy to a landing word that has not fully landed. -/
def State.copying (s : State) (core there off : Nat) : Bool :=
  ((Tbl.find s.copies core).getD []).any (fun c => decide (c.dstCore = there) && decide (c.land = off) && c.words.any (fun w => !w.landed))

/-- LAND.INIT (R325). -/
def execLandInit (d a b : Reg) (r : Bool) (pd : PReg) (s : State) : Outcome State :=
  issue (.landInit d a b r pd) s (fun p s =>
    match s.flight p.key with
    | none => .done s [] []
    | some f =>
      let res := thread (fun l (s : State) =>
        let tgt := f.g l b
        match s.landRef p (f.g l a) with
        | .error c => (EngRes.fault (plainFault c l), s)
        | .ok x =>
          let s := s.landRead x
          if tgt.toNat % 4 ≠ 0 then (EngRes.fault (plainFault .align l), s)
          else if tgt = 0 ∨ 2 ^ 31 < tgt.toNat then (EngRes.fault (plainFault .bounds l), s)
          else if wordAt (s.scr x.1) (x.2 + 4) ≠ 0 ∨ s.copying p.core x.1 x.2 then
            ({ g := [], p := [(pd.toNat, l, false)], fs := [] }, s)
          else
            let gen := wordAt (s.scr x.1) (x.2 + 8)
            ({ g := runWrites d l [gen], p := [(pd.toNat, l, true)], fs := [] },
             s.setScr x.1 (putWords (s.scr x.1) x.2 [tgt, 0, gen, 1]))) (lanesOf p.act) s
      .done (res.2.modFlight p.key (fun f => (f.setGs (res.1.flatMap (fun x => x.g))).setPs (res.1.flatMap (fun x => x.p))))
        (res.1.flatMap (fun x => x.fs)) [])

/-- LAND.WAIT (R325). The lanes with a bad reference fault once the landing words of the others allow the slot to go on. -/
def execLandWait (d a : Reg) (s : State) : Outcome State :=
  issue (.landWait d a) s (fun p s =>
    match s.flight p.key with
    | none => .done s [] []
    | some f =>
      let refs := (lanesOf p.act).map (fun l => (l, f.g l a, f.g l d))
      let fs := refs.filterMap (fun x => match s.landRef p x.2.1 with
        | .error c => some (plainFault c x.1)
        | .ok _ => none)
      let good := refs.filter (fun x => !(fs.any (fun y => decide (y.lane = x.1))))
      if good.all (fun x => s.landed p.key f x.2.1 x.2.2) then
        let s1 := good.foldl (fun s x => match s.landRef p x.2.1 with
          | .ok a => s.landRead a
          | .error _ => s) s
        .done (if good = [] then s1 else s1.acquire p.core) fs []
      else .await (.land good))

/-! Timelines and time. -/

/-- GTIME (R326). -/
def execGtime (d : Reg) (r : Bool) (s : State) : Outcome State :=
  issue (.gtime d r) s (fun p s =>
    let t := [BitVec.ofNat 32 s.time, BitVec.ofNat 32 (s.time / 2 ^ 32)]
    .done (s.modFlight p.key (fun f => f.setGs ((lanesOf p.act).flatMap (fun l => runWrites d l t)))) [] [])

/-- Whether each lane's timeline condition holds, as predicate writes (R327). -/
def State.tlWrites (s : State) (ctx pd : Nat) (vals : List (Nat × DWord)) : List (Nat × Nat × Bool) :=
  vals.map (fun v => (pd, v.1, decide (v.2.toNat ≤ (s.ctx ctx).timeline)))

/-- The end of a TLWAIT: its predicate, and the acquiring side of R211 if a lane's condition holds (R224, R327). -/
def State.tlEnd (s : State) (key ctx pd : Nat) (vals : List (Nat × DWord)) : State :=
  let ws := s.tlWrites ctx pd vals
  let s1 := s.modFlight key (fun f => f.setPs ws)
  if ws.any (fun w => w.2.2) then s1.acquire (keyCore key) else s1

/-- The cycle at which a wait of a slot times out, if it is a timed one. -/
def Wait.stopAt : Wait → Option (Option Nat)
  | .timeline _ _ _ stop => some stop
  | _ => Option.none

/-- TLWAIT (R327). -/
def execTlwait (pd : PReg) (cx : BitVec 2) (a : Reg) (tmo : BitVec 16) (s : State) : Outcome State :=
  let before := ((s.flight s.cur.flight).map (fun f => (f.slot s.cur.slotB).wait.stopAt)).getD none
  issue (.tlwait pd cx a tmo) s (fun p s =>
    match s.flight p.key, p.la.ctxAt cx.toNat with
    | none, _ => .done s [] []
    | _, none => .done s (faultAll .engine p.act) []
    | some f, some ctx =>
      let vals := (lanesOf p.act).map (fun l => (l, f.g64 l a))
      if vals.all (fun v => decide (v.2.toNat ≤ (s.ctx ctx).timeline)) then .done (s.tlEnd p.key ctx pd.toNat vals) [] []
      else .await (.timeline ctx pd vals (before.getD (if tmo = 0 then none else some (s.cycle + 16 * tmo.toNat)))))

/-- A slot completes the instruction at its PC, of some words, by an event: it counts as issued (R40, R48). -/
def Flight.passed (f : Flight) (b : Bool) (words : Nat) : Flight :=
  let x := f.slot b
  let cl := x.clause.map (fun c => { c with guard := some (f.guardMask c) })
  let f1 := (if x.replay.isSome then f else f.tick b).setSlot b { x with clause := cl, wait := .none, aged := 0, old := false }
  (f1.advance b words).settle

/-- The timeout of a TLWAIT (R327). -/
def execTlwaitTimeout (fl : Nat) (slotB : Bool) (s : State) : Outcome State :=
  match s.flight fl with
  | none => .next s
  | some f =>
    match (f.slot slotB).wait with
    | .timeline ctx pd vals (some stop) =>
      if (f.slot slotB).live && decide (stop ≤ s.cycle) then
        .next ((s.tlEnd fl ctx pd.toNat vals).modFlight fl (fun f => f.passed slotB 2))
      else .next s
    | _ => .next s

/-- Whether a deadline cancellation of a launch runs (R328). -/
def Launch.clearing (la : Launch) : Bool := la.cancels.any (fun c => decide (c.issuer = none))

/-- A write of the deadline register, held while a deadline cancellation runs (R328). -/
def Launch.writeDeadline (la : Launch) (v : Nat) (min : Bool) : Launch :=
  if la.clearing then { la with dlWrites := la.dlWrites ++ [(v, min)] } else { la with deadline := applyDl la.deadline (v, min) }

/-- DL.SET and DL.SET.MIN (R328). -/
def execDlSet (a : Reg) (min : Bool) (s : State) : Outcome State :=
  issue (.dlSet a min) s (fun p s =>
    match s.flight p.key with
    | none => .done s [] []
    | some f =>
      .done (s.modLaunch p.la.word.toNat (fun la => la.writeDeadline (f.g64 (lowLane p.act) a).toNat min)) [] [])

/-! The best cell. -/

/-- Whether an FP32 score ranks strictly above another; neither is a NaN (R332). -/
def scoreAbove (x y : Word) : Bool :=
  let key (w : Word) : Int := if bit w 31 then -((w.toNat % 2 ^ 31 : Nat) : Int) else ((w.toNat % 2 ^ 31 : Nat) : Int)
  decide (key y < key x)

/-- Ranks an offer after those of its score, whose generations are lower. -/
def rankOffer (o : Offer) : List Offer → List Offer
  | [] => [o]
  | x :: xs => if scoreAbove o.score x.score then o :: x :: xs else x :: rankOffer o xs

/-- One lane's offer: the cell after it, the generation given (0 for none), and whether it ranks first (R332). -/
def BestCell.offer (c : BestCell) (score plan : Word) : BestCell × Word × Bool :=
  if (Fp.ofWord score).isNan ∨ c.gen = 0xFFFFFFFF then (c, 0, false)
  else
    let o : Offer := { score := score, plan := plan, gen := c.gen + 1 }
    let os := (rankOffer o c.offers).take 2
    ({ c with offers := os, gen := c.gen + 1 }, c.gen + 1, decide (os.head? = some o))

/-- One lane's invalidation: the cell after it, and whether it met an entry (R332). -/
def BestCell.inval (c : BestCell) (g : Word) : BestCell × Bool :=
  if g = 0 then (c, false)
  else
    let os := c.offers.filter (fun o => decide (o.gen ≠ g))
    let lat := c.latched.any (fun o => decide (o.gen = g))
    ({ c with offers := os, stale := c.stale || lat }, decide (os.length ≠ c.offers.length) || lat)

/-- One lane's take: the cell after it, and the four words (R332). -/
def BestCell.take (c : BestCell) : BestCell × List Word :=
  let c' := if c.latched = none then { c with latched := c.offers.head? } else c
  match c'.latched with
  | none => (c', [0, 0, 0, 0])
  | some o => (c', [o.score, o.plan, o.gen, 1 + BitVec.ofNat 32 (2 * c'.stale.toNat)])

/-- Carries out an operation of the best cell lane by lane in ascending order. -/
def State.bestLanes {α : Type} (s : State) (p : Place) (one : Nat → BestCell → BestCell × α) : List (Nat × α) × State :=
  thread (fun l (s : State) =>
    let c := ((Tbl.find s.launches p.la.word.toNat).map (fun la => la.best)).getD p.la.best
    let r := one l c
    ((l, r.2), s.modLaunch p.la.word.toNat (fun la => { la with best := r.1 }))) (lanesOf p.act) s

/-- BEST.OFFER (R332). It is a releasing side of R211. -/
def execBestOffer (pd : PReg) (d a b : Reg) (r : Bool) (s : State) : Outcome State :=
  issue (.bestOffer pd d a b r) s (fun p s =>
    match s.flight p.key with
    | none => .done s [] []
    | some f =>
      if s.busy p then .stall
      else
        let v := (s.release p.core).bestLanes p (fun l c => c.offer (f.g l a) (f.g l b))
        .done (v.2.modFlight p.key (fun f =>
          (f.setGs (v.1.flatMap (fun x => runWrites d x.1 [x.2.1]))).setPs (v.1.map (fun x => (pd.toNat, x.1, x.2.2))))) [] [])

/-- BEST.INVAL (R332). -/
def execBestInval (d a : Reg) (r : Bool) (s : State) : Outcome State :=
  issue (.bestInval d a r) s (fun p s =>
    match s.flight p.key with
    | none => .done s [] []
    | some f =>
      let v := s.bestLanes p (fun l c => c.inval (f.g l a))
      .done (v.2.modFlight p.key (fun f => f.setGs (v.1.flatMap (fun x => runWrites d x.1 [if x.2 then 1 else 0])))) [] [])

/-- BEST.TAKE (R332). It is the acquiring side of the offer that it returns. -/
def execBestTake (d : Reg) (r : Bool) (s : State) : Outcome State :=
  issue (.bestTake d r) s (fun p s =>
    let v := s.bestLanes p (fun _ c => c.take)
    let s1 := v.2.modFlight p.key (fun f => f.setGs (v.1.flatMap (fun x => runWrites d x.1 x.2)))
    .done (if v.1.any (fun x => bit (x.2.getD 3 0) 0) then s1.acquire p.core else s1) [] [])

/-! Append counters and speculation. -/

/-- The byte of handle 1,023 at which an append counter lies (R333). -/
def counterOffset (k : Nat) : Int := ((4 * k : Nat) : Int)

/-- Checks the accesses to append counters, which need permission A: where they lie, or why the first of them is denied
(R177, R334). -/
def State.counters (s : State) (p : Place) (ks : List Nat) : Except Deny (List (Nat × LaneAddr)) × State :=
  let hd := s.handle p.core p.la.ctx0 1023
  ks.foldl (fun (acc : Except Deny (List (Nat × LaneAddr)) × State) k =>
    match acc.1 with
    | .error _ => acc
    | .ok xs =>
      match acc.2.check p.core p.la.ctx0 1023 (lowLane p.act) hd.1 (counterOffset k) 4 .atomic true with
      | (.error d, s') => (.error d, s')
      | (.ok x, s') => (.ok (xs ++ [(k, x)]), s')) (.ok [], hd.2)

/-- A denied access of an instruction that acts once: a fault of every active lane. -/
def denyAll (p : Place) (d : Deny) : List LaneFault := (lanesOf p.act).map (denyFault d)

/-- The counters that SPEC.MARK names, none for 0xFF; none at all when a byte is bad (R334). -/
def markedCounters (v : Word) : Option (List Nat) :=
  let bs := (List.range 4).map (fun i => (fld v (8 * i) 8).toNat)
  if bs.all (fun b => decide (b < 64) || decide (b = 255)) then some (bs.filter (fun b => decide (b < 64))) else none

/-- SPEC.MARK (R334). -/
def execSpecMark (a : Reg) (s : State) : Outcome State :=
  issue (.specMark a) s (fun p s =>
    match s.flight p.key with
    | none => .done s [] []
    | some f =>
      match markedCounters (f.g (lowLane p.act) a) with
      | none => .done s (faultAll .bounds p.act) []
      | some ks =>
        match s.counters p ks with
        | (.error d, s1) => .done s1 (denyAll p d) []
        | (.ok xs, s1) =>
          let r := thread (fun (x : Nat × LaneAddr) (s : State) =>
            let v := s.loadBytes p.core false x.2 4
            ((x.1, x.2, BitVec.ofNat 32 v.1), v.2)) xs s1
          let rec' : SpecRec := { counters := r.1, tails := (p.la.ctxs.filterMap id).map (fun c => (c, (s.ctx c).tail)),
                                  flight := f.order, seed := f.seed }
          .done (r.2.modWg p.la.word p.core (fun w => { w with spec := some rec' })) [] [])

/-- The speculation record of the workgroup of a place. -/
def Place.spec (p : Place) : Option SpecRec := (p.la.wgAt p.core).bind (fun w => w.spec)

/-- One atomic step on each counter of a record: its new value from the marked value and the old one (R334). Words reserved
for a priority attempt hold it back (R252). -/
def specCounters (p : Place) (rec' : SpecRec) (s : State) (new : Word → Nat → Nat) (go : State → State) : Body :=
  match s.counters p (rec'.counters.map (·.1)) with
  | (.error d, s1) => .done s1 (denyAll p d) []
  | (.ok xs, s1) =>
    if xs.any (fun x => !x.2.host && s1.held p.key p.act x.2.pa 4) then .stall
    else
      let s2 := s1.loadsFirst p.key p.slotB (xs.map (·.2)) 4
      .done ((go ((xs.zip rec'.counters).foldl (fun s x =>
        let old := s.atHome p.core x.1.2 4
        old.2.storeBytes p.core false x.1.2 4 (new x.2.2.2 old.1)) s2)).modWg p.la.word p.core (fun w => { w with spec := none })) [] []

/-- SPEC.COMMIT (R334). -/
def execSpecCommit (a : Reg) (s : State) : Outcome State :=
  issue (.specCommit a) s (fun p s =>
    match s.flight p.key, p.spec with
    | some f, some rec' =>
      let n := f.g (lowLane p.act) a
      specCounters p rec' s (fun marked old => min old (marked + n).toNat) id
    | _, _ => .done s [] [])

/-- SPEC.BACK (R334). -/
def execSpecBack (s : State) : Outcome State :=
  issue .specBack s (fun p s =>
    match p.spec with
    | none => .done s [] []
    | some rec' =>
      let me := p.la.wgidAt p.core
      let seedBack (s : State) : State :=
        { s with flights := s.flights.map (fun (e : Nat × Flight) =>
            if e.2.order = rec'.flight ∧ e.2.launch = p.la.word then (e.1, { e.2 with seed := rec'.seed }) else e) }
      let later (cx : Nat) (c : Command) : Bool :=
        decide (c.launch = some p.la.word) && decide (c.issuer = me) && rec'.tails.any (fun t => decide (t.1 = cx) && decide (t.2 < c.num))
      specCounters p rec' s (fun marked _ => marked.toNat) (fun s => (seedBack s).cancelCommands later))

/-! Random numbers. -/

/-- The value of RNG (R335). -/
def rngValue (key : DWord) (stream counter : Word) : Word :=
  let x0 : DWord := key + (((stream.setWidth 64) <<< 32) ||| counter.setWidth 64) * 0x9E3779B97F4A7C15
  let x1 : DWord := (x0 ^^^ (x0 >>> 30)) * 0xBF58476D1CE4E5B9
  let x2 : DWord := (x1 ^^^ (x1 >>> 27)) * 0x94D049BB133111EB
  (x2 ^^^ (x2 >>> 31)).setWidth 32

/-- RNG (R335). -/
def execRng (d a b : Reg) (r : Bool) (s : State) : Outcome State :=
  aluOp (.rng d a b r) d (plain (fun f l => rngValue f.seed (f.g l a) (f.g l b))) s

end Sys2Proof.Machine
end

