-- ==== Sys2Proof/Machine/Room.lean ====
section
/-! DEFINITION. Room on a core: the registers and flight positions that its partitions have free (R9, R16 to R18), and the
landing of copied words (R203 to R205, R325). -/

namespace Sys2Proof.Machine

/-- What each partition of a core has free: registers, and flight positions, ascending (R8, R17). -/
abbrev Occ := List (Nat × List Nat)

/-- A core on which nothing runs. -/
def Occ.empty : Occ := List.replicate 4 (32768, List.range 16)

/-- Takes a position and registers of a partition. -/
def Occ.use (o : Occ) (part pos regs : Nat) : Occ :=
  ((List.range o.length).zip o).map (fun e =>
    if e.1 = part then (e.2.1 - regs, e.2.2.filter (fun x => decide (x ≠ pos))) else e.2)

/-- The partition that R16 chooses for a flight of an allotment, and its lowest free position: the number FLIGHT, and what is
free after it. A partition that has no free position is passed over, however many registers it has free (log entry 66). -/
def Occ.place (o : Occ) (allot : Nat) : Option (Nat × Occ) :=
  let fit := ((List.range o.length).zip o).filter (fun e => decide (32 * allot ≤ e.2.1) && !e.2.2.isEmpty)
  let best := fit.foldl (fun (b : Option (Nat × Nat × List Nat)) e => match b with
    | none => some e
    | some x => if x.2.1 < e.2.1 then some e else some x) none
  best.map (fun b => (16 * b.1 + b.2.2.headD 0, o.use b.1 (b.2.2.headD 0) (32 * allot)))

/-- Places flights of some allotments one after the other; none when one does not fit. -/
def Occ.placeAll (o : Occ) : List Nat → Option (List Nat × Occ)
  | [] => some ([], o)
  | a :: as =>
    match o.place a with
    | none => none
    | some (p, o') => (o'.placeAll as).map (fun r => (p :: r.1, r.2))

/-- The handler role of a launch. -/
def Launch.handlerRole (la : Launch) : Option Role := la.roles.find? (fun r => r.handler)

/-- The workgroups that hold a place on a core, each with its launch. -/
def State.resident (s : State) (core : Nat) : List (Launch × Workgroup) :=
  s.launches.filterMap (fun e => match e.2.wgAt core with
    | some w => if w.retired then none else some (e.2, w)
    | none => none)

/-- What the partitions of a core have free beside the flights there and the handler reservations (R17, R18). -/
def State.occ (s : State) (core : Nat) : Occ :=
  let fl := s.flights.filter (fun e => decide (e.1 / 64 = core))
  let o := fl.foldl (fun (o : Occ) e => o.use (keyPart e.1) (e.1 % 16) (32 * e.2.allot)) Occ.empty
  (s.resident core).foldl (fun (o : Occ) x =>
    match x.2.handlerPos, x.1.handlerRole with
    | some pos, some r =>
      let have_ := match Tbl.find s.flights (64 * core + pos) with
        | some f => f.allot
        | none => 0
      o.use (pos / 16) (pos % 16) (32 * (r.allot - have_))
    | _, _ => o) o

/-- The allotments of the spawnable roles resident on a core of which no flight runs there: the minimum that R17 and R18
keep. -/
def State.spawnMinimum (s : State) (core : Nat) : List Nat :=
  (s.resident core).flatMap (fun x =>
    (((List.range x.1.roles.length).zip x.1.roles).filter (fun r => r.2.spawnable &&
      !s.flights.any (fun e => decide (e.1 / 64 = core) && decide (e.2.launch = x.1.word) && decide (e.2.role = r.1)))).map
      (fun r => r.2.allot))

/-- Whether a flight may grow to an allotment (R18, R100). -/
def State.growFits (s : State) (key : Nat) (f : Flight) (n : Nat) : Bool :=
  let o := s.occ (keyCore key)
  let need := 32 * (n - f.allot)
  let have_ := (o.getD (keyPart key) (0, [])).1
  decide (n ≤ f.allot) || (decide (need ≤ have_) &&
    ((o.use (keyPart key) 16 need).placeAll (s.spawnMinimum (keyCore key))).isSome)

/-! The landing of copied words. -/

/-- One landing of a word at a landing word (R325). -/
def landCount (c : Cells 8) (at_ : Nat) : Cells 8 :=
  let target := wordAt c at_
  let n := wordAt c (at_ + 4) + 4
  if target ≠ 0 ∧ target ≤ n then
    let w3 := wordAt c (at_ + 12)
    putWords c at_ [target, 0, wordAt c (at_ + 8) + 1, if target < n then w3 ||| 2 else w3]
  else putWords c (at_ + 4) [n]

/-- The words of the record of a fault that a copy meets: it names the COPYL and the lane (R206, R303, log entry 60). -/
def copyRecord (s : State) (core : Nat) (c : Copy) (d : Deny) (lane ctx : Nat) : List Word :=
  [BitVec.ofNat 32 (d.code.num + d.mal.toNat * 512 + ctx * 16777216), c.launch, whoWord (64 * core + c.flight) c.slotB lane, c.pc,
   BitVec.ofNat 32 d.va, BitVec.ofNat 32 (d.va / 2 ^ 32 % 65536), Cells.get c.own lane, Cells.get c.iter lane,
   BitVec.ofNat 32 c.handle, 0, BitVec.ofNat 32 s.time, BitVec.ofNat 32 (s.time / 2 ^ 32), 0, 0, 0, 0]

/-- Changes a copy of a core's replay list. -/
def State.modCopy (s : State) (core id : Nat) (g : Copy → Copy) : State :=
  { s with copies := Tbl.modify s.copies core (fun cs => cs.map (fun (x : Copy) => if x.id = id then g x else x)) }

/-- The words of a copy of a core's replay list; the copy leaves the list when all have landed (R204). -/
def State.setCopyWords (s : State) (core id : Nat) (ws : List CopyWord) : State :=
  let cs := (Tbl.find s.copies core).getD []
  { s with copies := Tbl.put s.copies core (if ws.all (fun w => w.landed) then cs.filter (fun c => decide (c.id ≠ id))
      else cs.map (fun (c : Copy) => if c.id = id then { c with words := ws } else c)) }

/-- The first of some addresses for each lane, the lanes ascending. -/
def firstOfLanes (xs : List LaneAddr) : List LaneAddr :=
  (sortNat (xs.map (fun x => x.lane))).filterMap (fun l => xs.find? (fun x => decide (x.lane = l)))

/-- Reads of a copy at some addresses are denied: one record for each lane. PAGE makes the copy wait for firmware. Any other fault ends the gang,
as long as one of its workgroups has not retired; the words at these addresses are over then, neither written nor counted, and the
copy's others land, as accesses already sent complete (R6, R206, R343, log entry 60). -/
def State.copyDeny (s : State) (core : Nat) (c : Copy) (d : Deny) (xs : List LaneAddr) : State :=
  let s1 := (firstOfLanes xs).foldl (fun s x => s.ringWrite none false (copyRecord s core c { d with va := x.va } x.lane x.ctx)) s
  if d.code = .page then s1.modCopy core c.id (fun x => { x with parkSeq := some s1.ringEnd })
  else
    let denied (w : CopyWord) : Bool := !w.landed && w.val.isNone && xs.any (fun x => decide (x.lane = w.src.lane) && decide (x.va = w.src.va))
    let s2 := s1.setCopyWords core c.id (c.words.map (fun (w : CopyWord) => if denied w then { w with landed := true } else w))
    match (Tbl.find s2.launches c.launch.toNat).bind (fun la => (la.wgAt core).map (fun g => (la, g))) with
    | none => s2
    | some (la, g) => if la.wgs.any (fun x => decide (x.gang = g.gang) && !x.retired) then s2.endGang c.launch g.gang d.code else s2

/-- Whether a word of a copy is read by the request for the 128-byte block of an address (R203). -/
def CopyWord.inBlock (w : CopyWord) (x : LaneAddr) : Bool :=
  !w.landed && w.val.isNone && decide (w.src.host = x.host) && decide (w.src.ctx = x.ctx) && decide (w.src.va / 128 = x.va / 128)

/-- One request for a 128-byte block of a copy's sources, src being where one of its words lies: the words of the copy with the values read,
the words with an uncorrectable error, and the state (R203, R206). -/
def State.copyRequest (s : State) (core : Nat) (ws : List CopyWord) (src : LaneAddr) :
    List CopyWord × List LaneAddr × State :=
  let at_ (x : CopyWord) : LaneAddr := { x.src with pa := src.pa - src.va % 128 + x.src.va % 128, uncached := src.uncached }
  let mine := (ws.filter (fun x => x.inBlock src)).map at_
  let c := s.loadCheck core true 4 mine
  let r := thread (fun (x : CopyWord) (s : State) =>
    if x.inBlock src && !c.1.contains (at_ x) then
      let v := s.loadBytes core true (at_ x) 4; ({ x with val := some (BitVec.ofNat 32 v.1) }, v.2)
    else (x, s)) ws (c.2.fillSpans core 4 (mine.filter (fun a => !c.1.contains a)))
  (r.1, c.1, r.2)

/-- Lands a word of a copy of a core's replay list, whose source lies at src: the request for the block of the source, unless an earlier word
of the copy has made it, the write of its destination, and the count of its landing word, unless its landing was counted before. Where an
earlier word of the copy has the same destination, a free value says which stays (R203). A destination whose workgroup has ended takes
nothing. A request that meets uncorrectable errors lands nothing itself, and waits for room in the fault ring (R206, R303). -/
def State.landFrom (s : State) (core id word : Nat) (src : LaneAddr) : State :=
  match ((Tbl.find s.copies core).getD []).find? (fun c => decide (c.id = id)) with
  | none => s
  | some c =>
    match c.words[word]? with
    | none => s
    | some w =>
      if w.landed then s
      else
        let r := if w.val.isSome then (c.words, [], s) else s.copyRequest core c.words src
        if r.2.1 ≠ [] then
          if s.ringRoom = 0 then s
          else r.2.2.copyDeny core { c with words := r.1 } { code := .ecc, va := 0, w := false, mal := false, handle := c.handle } r.2.1
        else
          let v := ((r.1[word]?).bind (fun x => x.val)).getD 0
          let twice := c.words.any (fun x => x.landed && decide (x.dst = w.dst))
          let d := if twice then r.2.2.draw else (0, r.2.2)
          let gen := wordAt (s.scr c.dstCore) (c.land + 8)
          let put (x : CopyWord) : CopyWord := { x with landed := true, val := none, counted := some (x.counted.getD gen) }
          let s1 := d.2.setCopyWords core id (((List.range r.1.length).zip r.1).map (fun e => if e.1 = word then put e.2 else e.2))
          let live := (((Tbl.find s1.launches c.launch.toNat).bind (fun la => la.wgAt c.dstCore)).map (fun g => !g.retired)).getD false
          if live = false then s1
          else
            let sc := s1.scr c.dstCore
            let sc1 := if twice && !Config.laterLands d.1 then sc else putValue sc w.dst 4 v.toNat
            let sc2 := if w.counted = none then landCount sc1 c.land else sc1
            (s1.setScr c.dstCore sc2).scrClean c.dstCore ((List.range 4).map (fun i => w.dst + i))

/-- Where a word of a copy is read: in L1, or at the page that its address has as it stands, if that may be read (R203, R271, R272). -/
def State.copySource (s : State) (core : Nat) (w : CopyWord) : Except Deny LaneAddr × State :=
  match (if w.src.uncached then none else s.l1Serves core w.src.ctx w.src.va 4).filter (fun x => x.2.r) with
  | some x => (.ok { w.src with pa := x.1.page + w.src.va % 128 }, s)
  | none => s.again w.src .read

/-- Lands a word of a copy that waits for no page; the block of a word that is still to be read is read before (R203). -/
def State.landWord (s : State) (core id word : Nat) : State :=
  match ((Tbl.find s.copies core).getD []).find? (fun c => decide (c.id = id)) with
  | none => s
  | some c =>
    match c.words[word]? with
    | none => s
    | some w =>
      if w.landed ∨ c.parkSeq ≠ none then s
      else if w.val.isSome then s.landFrom core id word w.src
      else
        match s.copySource core w with
        | (.error d, s1) =>
          if s.ringRoom = 0 then s
          else s1.copyDeny core c { d with handle := c.handle } ((c.words.filter (fun x => x.inBlock w.src)).map (fun x => x.src))
        | (.ok src, s1) => s1.landFrom core id word src

/-- A word lands (R203). -/
def execCopylWordLanding (core copy word : Nat) (s : State) : Outcome State := endStep (s.landWord core copy word)

end Sys2Proof.Machine
end

