-- ==== Sys2Proof/Machine/System.lean ====
section
/-! DEFINITION. The SYS instructions: GROW and SHRINK (R100 to R102), the control and status registers (R345, R346), HALT, ERET,
TLBI and FAULTACK (R271, R310, R347). -/

namespace Sys2Proof.Machine

/-! GROW and SHRINK. -/

/-- The GROW requests of a partition, in arrival order (R100). -/
def State.growing (s : State) (key : Nat) : List Cur := (Tbl.find s.growers (4 * keyCore key + keyPart key)).getD []

/-- Replaces the GROW requests of a partition. -/
def State.setGrowing (s : State) (key : Nat) (cs : List Cur) : State :=
  { s with growers := Tbl.put s.growers (4 * keyCore key + keyPart key) cs }

/-- GROW (R100): a request that the allotment does not meet waits for its grant. -/
def execGrow (pd : PReg) (n : BitVec 7) (s : State) : Outcome State :=
  issue (.grow pd n) s (fun p s =>
    match s.flight p.key with
    | none => .done s [] []
    | some f =>
      if 8 * n.toNat ≤ f.allot then
        .done (s.modFlight p.key (fun f => f.setPs ((lanesOf p.act).map (fun l => (pd.toNat, l, true))))) [] []
      else
        let s1 := s.modFlight p.key (fun f =>
          f.setSlot p.slotB { f.slot p.slotB with wait := .grow pd p.act (8 * n.toNat) })
        .done (s1.setGrowing p.key (s1.growing p.key ++ [{ flight := p.key, slotB := p.slotB }])) [] [])

/-- Clears the registers of a flight from one number on (R100, R102). -/
def Flight.loseRegs (f : Flight) (n : Nat) : Flight := { f with gpr := Cells.keep f.gpr (fun i => decide (i < 32 * n)) }

/-- Answers the GROW request of a slot: its predicate, and the slot goes on (R100, R101). A granted request whose n is no longer above the
allotment, since the flight's other slot was granted more meanwhile, leaves the allotment: the model's choice (log entry 82). -/
def State.growAnswer (s : State) (key : Nat) (slotB ok : Bool) : State :=
  let s1 := s.setGrowing key ((s.growing key).filter (fun c => decide (c ≠ { flight := key, slotB := slotB })))
  s1.modFlight key (fun f =>
    match (f.slot slotB).wait with
    | .grow pd m n =>
      let f1 := if ok && decide (f.allot < n) then { (f.loseRegs f.allot) with allot := n } else f
      (f1.setPs ((lanesOf m).map (fun l => (pd.toNat, l, ok)))).wake slotB
    | _ => f)

/-- The GROW request that a slot waits on: its registers. -/
def Flight.growWant (f : Flight) (slotB : Bool) : Option Nat :=
  match (f.slot slotB).wait with
  | .grow _ _ n => if (f.slot slotB).live then some n else none
  | _ => none

/-- Whether the first GROW request of a partition can be granted (R100). -/
def State.growReady (s : State) (key : Nat) (slotB : Bool) : Bool :=
  match s.flight key with
  | none => false
  | some f =>
    match f.growWant slotB with
    | none => false
    | some n => decide ((s.growing key).head? = some { flight := key, slotB := slotB }) && s.growFits key f n

/-- The grant of a GROW request (R100). -/
def execGrowGrant (fl : Nat) (slotB : Bool) (s : State) : Outcome State :=
  if s.growReady fl slotB then .next (s.growAnswer fl slotB true) else .next s

/-- Whether every thread of a barrier that has not arrived waits in GROW, but for those that wait for its phase themselves (R101). -/
def State.barrierOnGrow (s : State) (core k : Nat) : Bool :=
  let b := s.bar core k
  b.members.all (fun e =>
    match s.flight (64 * core + e.1) with
    | none => true
    | some f =>
      let waits (x : Bool) : Mask :=
        match (f.slot x).wait with
        | .grow _ _ _ => (f.slot x).mask
        | .barWait j _ => if j = k then (f.slot x).mask else 0
        | _ => 0
      decide (e.2 &&& ~~~(Cells.get b.arrived e.1) &&& ~~~(waits false ||| waits true) = 0))

/-- Whether a slot keeps its workgroup's GROW requests waiting for nothing (R101). -/
def State.growStuck (s : State) (key : Nat) (f : Flight) (slotB : Bool) : Bool :=
  let x := f.slot slotB
  !x.live || (match x.wait with
    | .grow _ _ _ => true
    | .barrier k _ => s.barrierOnGrow (keyCore key) k
    | .barWait k _ => !s.waitOver key f slotB && s.barrierOnGrow (keyCore key) k
    | _ => false)

/-- Whether the newest GROW request of a workgroup on a partition is to be denied (R101). -/
def State.growDenied (s : State) (key : Nat) (slotB : Bool) : Bool :=
  match s.flight key with
  | none => false
  | some f =>
    let mine (c : Cur) : Bool := ((s.flight c.flight).map (fun g => decide (g.launch = f.launch))).getD false
    let there (e : Nat × Flight) : Bool := decide (e.1 / 16 = key / 16) && decide (e.2.launch = f.launch)
    let head := ((s.growing key).head?).getD { flight := key, slotB := slotB }
    (f.growWant slotB).isSome && !s.growReady head.flight head.slotB &&
      decide (((s.growing key).filter mine).getLast? = some { flight := key, slotB := slotB }) &&
      (s.flights.filter there).all (fun e => s.growStuck e.1 e.2 false && s.growStuck e.1 e.2 true)

/-- The denial of a GROW request (R101). -/
def execGrowDenial (fl : Nat) (slotB : Bool) (s : State) : Outcome State :=
  if s.growDenied fl slotB then .next (s.growAnswer fl slotB false) else .next s

/-- SHRINK (R102). -/
def execShrink (n : BitVec 8) (s : State) : Outcome State :=
  issue (.shrink n) s (fun p s =>
    match s.flight p.key with
    | none => .done s [] []
    | some f =>
      if f.allot ≤ 8 * n.toNat then .done s [] []
      else if (f.undone false).isEmpty && (f.undone true).isEmpty then
        .done (s.modFlight p.key (fun f => { (f.loseRegs (8 * n.toNat)) with allot := 8 * n.toNat })) [] []
      else .stall)

/-! Control and status registers (R345). -/

/-- The low and the high word of a count. -/
def loWord (n : Nat) : Word := BitVec.ofNat 32 n
def hiWord (n : Nat) : Word := BitVec.ofNat 32 (n / 2 ^ 32)

/-- The value of a control and status register as a flight reads it (R345). A flight that serves no trap reads the handler
registers as 0. -/
def State.csr (s : State) (f : Flight) (c : Nat) : Word :=
  let t (g : TrapInfo → Word) : Word := (f.trap.map g).getD 0
  match c with
  | 0x00 => loWord s.cycle
  | 0x01 => hiWord s.cycle
  | 0x02 => s.pmode.setWidth 32
  | 0x10 => t (fun x => BitVec.ofNat 32 (x.code + 256 * x.n.toNat))
  | 0x11 => t (fun x => x.pc)
  | 0x12 => t (fun x => x.mask)
  | 0x13 => t (fun x => x.who)
  | 0x14 => t (fun x => loWord x.va)
  | 0x15 => t (fun x => BitVec.ofNat 32 (x.va / 2 ^ 32 % 65536))
  | 0x20 => loWord s.frBase.toNat
  | 0x21 => hiWord s.frBase.toNat
  | 0x22 => BitVec.ofNat 32 s.frLog
  | 0x23 => loWord s.frHead
  | 0x24 => loWord s.frTail
  | 0x30 => s.alarm.setWidth 32
  | _ => 0

/-- A write of a control and status register (R345, R346). The bits of FRBASE that R345 shows as zero drop what is written (R3, log
entry 48). -/
def State.setCsr (s : State) (c : Nat) (v : Word) : State :=
  match c with
  | 0x20 =>
    if s.frTail ≠ s.frHead then s
    else { s with frBase := BitVec.ofNat 48 (s.frBase.toNat / 2 ^ 32 * 2 ^ 32 + v.toNat / 64 * 64) }
  | 0x21 =>
    if s.frTail ≠ s.frHead then s
    else { s with frBase := BitVec.ofNat 48 (s.frBase.toNat % 2 ^ 32 + v.toNat % 65536 * 2 ^ 32) }
  | 0x22 =>
    if s.frTail ≠ s.frHead then s else { s with frLog := if 6 ≤ v.toNat ∧ v.toNat ≤ 16 then v.toNat else 6 }
  | 0x30 => { s with alarm := s.alarm &&& ~~~(v.setWidth 3) }
  | _ => s

/-- CSRR (R346). -/
def execCsrr (d : Reg) (c : BitVec 8) (s : State) : Outcome State :=
  issue (.csrr d c) s (fun p s =>
    .done (s.modFlight p.key (fun f => f.setGs ((lanesOf p.act).map (fun l => (d.toNat, l, s.csr f c.toNat))))) [] [])

/-- CSRW (R346). -/
def execCsrw (a : Reg) (c : BitVec 8) (s : State) : Outcome State :=
  issue (.csrw a c) s (fun p s =>
    match s.flight p.key with
    | none => .done s [] []
    | some f => .done (s.setCsr c.toNat (f.g (lowLane p.act) a)) [] [])

/-! Privileged instructions (R347). -/

/-- A queue of the device (R305). -/
def State.queue (s : State) (q : Nat) : Queue := (Tbl.find s.queues q).getD Queue.reset

/-- Replaces a queue. -/
def State.setQueue (s : State) (q : Nat) (x : Queue) : State := { s with queues := Tbl.put s.queues q x }

/-- Halts a queue with an error code (R306, R310). -/
def State.haltQueue (s : State) (q code : Nat) : State := s.setQueue q { s.queue q with halt := true, error := code, held := none }

/-- HALT (R347): each firmware lane serves the queue of its number (R313). -/
def execHalt (a : Reg) (s : State) : Outcome State :=
  issue (.halt a) s (fun p s =>
    match s.flight p.key with
    | none => .done s [] []
    | some f => .done (s.haltQueue (lowLane p.act) ((f.g (lowLane p.act) a).toNat % 256)) [] [])

/-- ERET (R347), the return from an exception: a handler flight disposes of the trap it serves and ends; in firmware it does
nothing. Lanes whose region it aborts do not end. -/
def execEret (a : Reg) (s : State) : Outcome State :=
  let out := issue (.eret a) s (fun p s =>
    match s.flight p.key with
    | none => .done s [] []
    | some f =>
      if f.kind = .firmware then .done s [] []
      else if !(f.undone false).isEmpty || !(f.undone true).isEmpty then .stall
      else
        let x := f.slot p.slotB
        let on := x.mask &&& ((x.clause.bind (fun c => c.guard)).getD (BitVec.allOnes 32))
        let stay := maskOf ((lanesOf (on &&& ~~~p.act)).filter (fun l => f.inRegion l))
        let lanes := f.alive &&& ~~~stay
        let s1 := match f.trap with
          | some t => s.dispose t (f.g (lowLane p.act) a).toNat
          | none => s
        .ended ((s1.modFlight p.key (fun f => { ((f.closeWindows false).closeWindows true).stop lanes with trap := none })).leaveAll
          p.key lanes))
  match out, (s.flight s.cur.flight).bind (fun f => f.trap) with
  | .next t, some tr => .next (t.retireIf tr.flight)
  | o, _ => o

/-- Whether a TLBI of a range of a context drops a cached translation: its page overlaps the range (R271). -/
def TlbEntry.dropped (e : TlbEntry) (ctx lo hi : Nat) : Bool :=
  decide (e.ctx = ctx) && decide (e.base < hi) && decide (lo < e.base + e.size)

/-- The pending loads of a context whose addresses lie in a range, or on a page that the range overlaps, read memory, and copies land, where
they were translated at issue (step 4 of R271). -/
def State.finishReads (s : State) (ctx lo hi : Nat) : State :=
  let pages := s.tlb.filter (fun e => e.dropped ctx lo hi)
  let hit (x : LaneAddr) : Bool := !x.host && decide (x.ctx = ctx) &&
    ((decide (lo < x.va + 16) && decide (x.va < hi)) || pages.any (fun e => e.covers ctx x.va))
  let s1 := s.flights.foldl (fun s e =>
    let r := thread (fun (p : Pending) (s : State) =>
      match p.act with
      | .load d wd ord ls =>
        if !p.done && ls.any hit then
          let v := s.loadPending (keyCore e.1) d wd ord ls
          ({ p with act := v.1 }, v.2)
        else (p, s)
      | _ => (p, s)) e.2.pending s
    r.2.modFlight e.1 (fun f => { f with pending := r.1 })) s
  s1.copies.foldl (fun s e => e.2.foldl (fun s c =>
    ((List.range c.words.length).zip c.words).foldl (fun s w => if hit w.2.src then s.landFrom e.1 c.id w.1 w.2.src else s) s) s) s1

/-- One word of a combining entry reaches its home, which consumes the word there: whether that has an uncorrectable error, and nothing is
then written (R206, R278). -/
def State.combWord (s : State) (e : CombEntry) (w : Nat) : Bool × State :=
  let pa := 128 * e.block + 4 * w
  let c := s.consume 128 pa 4 false
  if c.1 then (true, c.2)
  else
    let old := c.2.homeRead pa 4
    (false, old.2.homeWrite 128 pa 4 (redStep e.op (BitVec.ofNat 32 old.1) (Cells.get e.words w)).toNat)

/-- A combining entry leaves: its words reach their home (R278). An uncorrectable error there is recorded for every command that contributed,
and ends their gangs (R6, R293). -/
def State.combDepart (s : State) (e : CombEntry) : State :=
  let s1 := { s with combining := s.combining.filter (fun x => decide (x ≠ e)) }
  let r := thread (fun w s => let v := s.combWord e w; ((w, v.1), v.2)) ((List.range 32).filter (fun w => e.got.getLsbD w)) s1
  match r.1.find? (fun x => x.2) with
  | none => r.2
  | some x =>
    let d : Deny := { code := .ecc, va := e.at_.va / 128 * 128 + 4 * x.1, w := true, mal := false, handle := e.at_.handle }
    e.from_.foldl (fun s y => match (s.ctx y.1).cmds.find? (fun c => decide (c.num = y.2)) with
      | some c => (s.cmdRecord y.1 c d).cmdEcc c
      | none => s) r.2

/-- The combining entries for blocks of a page leave (step 4 of R271). -/
def State.combPage (s : State) (e : TlbEntry) : State :=
  (s.combining.filter (fun x => decide (e.pa ≤ 128 * x.block) && decide (128 * x.block < e.pa + e.size))).foldl
    (fun s x => s.combDepart x) s

/-- TLBI of a range of a context (R271). What was checked under a dropped entry and has not begun translates afresh (State.again). -/
def State.tlbi (s : State) (ctx lo hi : Nat) : State :=
  if hi ≤ lo then s
  else
    let drop (e : TlbEntry) : Bool := e.dropped ctx lo hi
    let s0 := s.finishReads ctx lo hi
    let s1 := (s0.tlb.filter drop).foldl (fun s e => s.combPage e) s0
    let s2 := s1.dropTlb drop
    let hit (b : L1Block) : Bool := decide (b.asid = ctx) && decide (128 * b.block < hi) && decide (lo < 128 * b.block + 128)
    let s3 := s2.writeBack (fun b => if hit b then BitVec.allOnes 32 else 0)
    { s3 with l1 := s3.l1.filter (fun b => !hit b), gather := [] }

/-- TLBI (R347). -/
def execTlbi (d a b : Reg) (s : State) : Outcome State :=
  issue (.tlbi d a b) s (fun p s =>
    match s.flight p.key with
    | none => .done s [] []
    | some f =>
      let l := lowLane p.act
      let ctx := (f.g l d).toNat
      if f.kind = .handler ∧ p.la.ctxs.contains (some ctx) = false then .done s (faultAll .priv p.act) []
      else .done (s.tlbi ctx (f.g64 l a).toNat (f.g64 l b).toNat) [] [])

/-- A slot whose records are acknowledged replays its instruction (R343). -/
def Slot.unpark (x : Slot) (head : Nat) : Slot :=
  if x.park ≠ 0 ∧ x.parkSeq ≤ head then { x with replay := some (x.park &&& x.mask), park := 0 } else x

/-- Both slots of a flight. -/
def Flight.unpark (f : Flight) (head : Nat) : Flight := { f with a := f.a.unpark head, b := f.b.unpark head }

/-- Acknowledges records of the fault ring; what is parked on them goes on, in the cores and in context images, and records that waited for
room are written (R303, R343, R347). -/
def State.ack (s : State) (n : Nat) : State :=
  let head := min (s.frHead + n) s.frTail
  let fl (e : Nat × Flight) : Nat × Flight := (e.1, e.2.unpark head)
  let later (q : Option Nat) : Option Nat := q.filter (fun q => decide (head < q))
  let copy (c : Copy) : Copy := { c with parkSeq := later c.parkSeq }
  let member (m : SavedMember) : SavedMember := { m with flights := m.flights.map fl, copies := m.copies.map copy }
  let cmd (c : Command) : Command := { c with parkSeq := later c.parkSeq }
  let t := { s with
    frHead := head
    flights := s.flights.map fl
    copies := s.copies.map (fun (e : Nat × List Copy) => (e.1, e.2.map copy))
    saved := s.saved.map (fun (g : SavedGang) => { g with members := g.members.map member })
    ctxs := s.ctxs.map (fun (e : Nat × EngineCtx) => (e.1, { e.2 with cmds := e.2.cmds.map cmd })) }
  State.ringFlush t.ringQueue t

/-- Acknowledges records; arrivals that waited for room in the ring take their faults (R157, R303). -/
def State.ackAll (s : State) (n : Nat) : State := (s.ack n).expans.foldl (fun s e => s.tryForm e.1) (s.ack n)

/-- FAULTACK (R347). -/
def execFaultack (a : Reg) (s : State) : Outcome State :=
  issue (.faultack a) s (fun p s =>
    match s.flight p.key with
    | none => .done s [] []
    | some f => .done (s.ackAll (f.g (lowLane p.act) a).toNat) [] [])

end Sys2Proof.Machine
end

