-- ==== Sys2Proof/Machine/Events.lean ====
section
/-! DEFINITION. What happens inside the cores by itself: clause decode (R39, R42, R55), ageing (R26), the completion of pending
instructions (R49, R286, R289), the start of spawned and handler flights (R21, R33, R34), the deadline (R328), evictions (R180,
R270), the merging of directory regions (R223) and the lapse of reservations (R252). -/

namespace Sys2Proof.Machine

/-! Fetch and clause decode. -/

/-- The PC of a word of a launch's code region; PCs hold the low 32 bits of an address (log entry 3). -/
def Launch.pcOf (la : Launch) (idx : Nat) : Word := BitVec.ofNat 32 (la.codeBase + 4 * idx)

/-- The number of the word that a PC names in a launch's code region; none outside it (R42). -/
def Launch.wordIdx (la : Launch) (pc : Word) : Option Nat :=
  let d := (pc - la.pcOf 0).toNat
  if d % 4 = 0 ∧ d / 4 < la.code.length then some (d / 4) else none

/-- The instruction at a PC of a launch, as the decoder reads it. -/
def Launch.instrAt (la : Launch) (pc : Word) : Option Instr :=
  match la.wordIdx pc with
  | none => none
  | some i =>
    match decode (la.code.getD i 0) (la.code.getD (i + 1) 0) with
    | .ok x => some x
    | .error _ => none

/-- The fault of each failing check of R55. -/
def Reject.code : Reject → FCode
  | .header => .clause
  | .pastEnd => .clause
  | .classF => .clause
  | .noFunction => .undef
  | .notAccepted => .undef
  | .wrongEngine => .clause
  | .lastWord => .clause
  | .badField => .undef
  | .badTransfer => .clause

/-- Whether a wait bit of a clause header names a pending instruction (R37, R39). -/
def hdrWaits (h : Word) (p : Pending) : Bool :=
  hdrWaitAll h ||
    match p.cls with
    | .mem => hdrWaitMem h
    | .mat => hdrWaitMat h
    | .asy => hdrWaitAsy h
    | .col => hdrWaitCol h
    | .other => false

/-- The fault of a clause: it is raised for every live lane of the slot; lanes in a region abort with cause 7 (R55, R249,
R344). back is the state before the decode, which stays while the fault ring is full (R303, log entry 15), or
aborting lanes must wait for pending instructions (R250). -/
def State.clauseFault (s back : State) (key : Nat) (slotB : Bool) (la : Launch) (code : FCode) (pc : Word) (hdrBad : Bool) (count : Nat)
    (va : Nat := 0) (mal : Bool := false) : State :=
  match s.flight key with
  | none => s
  | some f =>
    let x := f.slot slotB
    let fs := (lanesOf x.mask).map (fun l => { plainFault code l with va := va, mal := mal })
    let as_ := (lanesOf x.mask).filter (fun l => f.inRegion l)
    if s.ringRoom = 0 then back
    else if as_ ≠ [] ∧ f.undone slotB ≠ [] then back
    else
      let s1 := as_.foldl (fun s l => s.unreserve key l) (s.records key f slotB la.ctx0 pc fs)
      let groups := groupLanes (as_.map (fun l => (l, ((Tbl.find f.regions l).map (fun r => r.handler)).getD 0)))
      let f1 := as_.foldl (fun f l => f.abortRegion ⟨l, 7, 0⟩) f
      let rest := fs.filter (fun y => !as_.contains y.lane)
      match (if as_ = [] then some f1 else (f1.closeWindows slotB).placeAborted slotB groups) with
      | none =>
        let ds := as_.map (fun l => plainFault .divstack l)
        ((s1.putFlight key f1).records key f slotB la.ctx0 pc ds).deliver key slotB la pc true hdrBad count 0 (rest ++ ds)
      | some f2 =>
        let s2 := s1.putFlight key f2
        if rest = [] then s2.modFlight key (fun f => f.settle) else s2.deliver key slotB la pc true hdrBad count 0 rest

/-- Why the fetch of a word of a launch's code fails: its page is not mapped or malformed, or it is not one to fetch from (R263,
R264). -/
def State.fetchDeny (s : State) (la : Launch) (idx : Nat) : Option (FCode × Nat × Bool) × State :=
  let va := la.codeBase + 4 * idx
  match s.translate la.ctx0 va with
  | (.error mal, s1) => (some (.page, va, mal), s1)
  | (.ok e, s1) => (if e.x then none else some (.prot, va, false), s1)

/-- Decodes the clause at the PC of a slot, once its waits are over (R39, R42, R55). A fetch that fails, outside the code region or on a
page that is not to be fetched from, leaves no count to go by, as a bad header does (log entry 56); its record has the PC of the
clause (R303). From here on the slot's last clause, whose yield hint R25 asks for, is the clause decoded: the model's choice (log entry 80). -/
def execClauseDecode (fl : Nat) (slotB : Bool) (s : State) : Outcome State :=
  match s.flight fl with
  | none => .next s
  | some f =>
    match Tbl.find s.launches f.launch.toNat with
    | none => .next s
    | some la =>
      let x := f.slot slotB
      if !s.slotClear fl f slotB || x.clause.isSome then .next s
      else
        let s0 := s.modFlight fl (fun f => f.setSlot slotB { f.slot slotB with wait := .none, replay := none })
        match la.wordIdx x.pc with
        | none => endStep (s0.clauseFault s fl slotB la .prot x.pc true 0)
        | some idx =>
          let h := la.code.getD idx 0
          if (f.undone slotB).any (hdrWaits h) then .next s
          else
            match s0.fetchDeny la idx with
            | (some d, s1) => endStep (s1.clauseFault s fl slotB la d.1 x.pc true 0 d.2.1 d.2.2)
            | (none, s1) =>
              let last := min (idx + hdrCount h) (la.code.length - 1)
              match s1.fetchDeny la last with
              | (some d, s2) => endStep (s2.clauseFault s fl slotB la d.1 x.pc true 0 d.2.1 d.2.2)
              | (none, s2) =>
                match clauseCheck s.accepted la.code idx with
                | some (e, at_) =>
                  endStep (s2.clauseFault s fl slotB la (Reject.code e) (la.pcOf at_) (decide (e = .header)) (hdrCount h + 1))
                | none =>
                  endStep (s2.modFlight fl (fun f => f.setSlot slotB { f.slot slotB with
                    pc := x.pc + 4, clause := some { hdr := h, base := x.pc, guard := none }, hint := hdrYield h }))

/-! Ageing (R26). -/

/-- Whether the next thing of a slot, a clause to decode or an instruction to issue, could happen now (R27). A clause that keeps its layout
counts as its first instruction. -/
def State.slotReady (s : State) (key : Nat) (f : Flight) (slotB : Bool) : Bool :=
  let x := f.slot slotB
  match Tbl.find s.launches f.launch.toNat with
  | none => false
  | some la =>
    match x.clause with
    | none =>
      s.slotClear key f slotB && (match la.wordIdx x.pc with
        | none => true
        | some i => !(f.undone slotB).any (hdrWaits (la.code.getD i 0)) && ((clauseCheck s.accepted la.code i).isSome ||
            ((la.instrAt (x.pc + 4)).map (fun i => s.admits key f slotB i)).getD true))
    | some _ => ((la.instrAt x.pc).map (fun i => s.ready key f slotB i)).getD false

/-- A slot that has been passed over in 256 issues of another slot of its class becomes aged; the issues count it (State.ageing). A slot that
is not ready loses its count (R26). -/
def execSlotAged (fl : Nat) (slotB : Bool) (s : State) : Outcome State :=
  match s.flight fl with
  | none => .next s
  | some f =>
    let x := f.slot slotB
    if s.slotReady fl f slotB = false then .next (s.putFlight fl (f.setSlot slotB { x with aged := 0, old := false }))
    else if 256 ≤ x.aged then .next (s.putFlight fl (f.setSlot slotB { x with old := true }))
    else .next s

/-! Completion (R49). -/

/-- The register, predicate and flag writes with which a pending instruction completes, and what it adds to the idle counters of lanes
(R146). -/
structure Results where
  g     : List (Nat × Nat × Word)
  p     : List (Nat × Nat × Bool)
  flags : Word
  idle  : List (Nat × Nat) := []
deriving DecidableEq, Repr

/-- A pending instruction completes: it writes its results (R49), acquires if it is an acquiring event (R218), and lets the flight
go on or retire (R22, R50, R96), and slots whose trapped lanes only waited for it end them (R347). What its slot has read before it stays
read (R212, log entry 59). -/
def State.complete (s : State) (key seq : Nat) (r : Results) : State :=
  match s.flight key with
  | none => s
  | some f =>
    match f.pending.find? (fun p => decide (p.seq = seq)) with
    | none => s
    | some p =>
      let mark (q : Pending) : Pending := if q.seq = seq then { q with done := true } else q
      let stays (q : Pending) : Bool := decide (q.seq ≠ seq) || decide (0 < q.window)
      let g := f.pin p.slotB seq
      let f1 : Flight := { g with pending := (g.pending.map mark).filter stays }
      let f2 := ((((f1.setGs r.g).setPs r.p).raise r.flags).idleMore r.idle).settle
      let saw := match p.instr with
        | .fwait .. => r.p.any (fun w => w.2.2)
        | .ftest .. => r.p.any (fun w => w.2.2)
        | i => acquires i
      let s1 := if saw then s.acquire (keyCore key) else s
      let s2 := ((s1.putFlight key f2).endTrapped key false).endTrapped key true
      if f2.finished then s2.retireIf key else s2

/-- The flight and its pending instruction that an event names, unless it has completed. -/
def State.pendingAt (s : State) (key seq : Nat) : Option (Flight × Pending × Launch) :=
  match s.flight key with
  | none => none
  | some f =>
    match f.pending.find? (fun p => decide (p.seq = seq) && !p.done), Tbl.find s.launches f.launch.toNat with
    | some p, some la => some (f, p, la)
    | _, _ => none

/-- Whether every future of a wait is resolved (R289). -/
def State.allResolved (s : State) (la : Launch) (core : Nat) (atr : Bool) (futs : List (Nat × Word)) : Bool :=
  futs.all (fun x => (s.resolved la core atr x.2).getD true)

/-- Completes a wait for a tile with a tile, or with none, in the lanes that it acts for still (R286, R330). -/
def State.popWaiting (s : State) (key : Nat) (la : Launch) (p : Pending) (d pd atr win off : Nat) (t : Option AtrTile) : State :=
  let r := s.popTile la (keyCore key) atr d pd win off t
  r.2.complete key p.seq ⟨r.1.1.filter (fun w => p.mask.getLsbD w.2.1), r.1.2.filter (fun w => p.mask.getLsbD w.2.1), 0, []⟩

/-- Whether an instruction of a slot neither faults before it issues nor waits for pending instructions before it takes effect. -/
def Flight.runsOn (f : Flight) (slotB : Bool) (i : Instr) : Bool :=
  (i.use.gr ++ i.use.gw).all (fun r => decide (r < f.allot)) && i.allowed f.kind && !hazard f slotB i &&
    (match i.op with
      | some op => decide (op / 64 ∈ [0, 1, 3, 5]) || (decide (op / 64 = 2) && f.regions.isEmpty)
      | none => false)

/-- Whether an SWR FPSTAT stands among the next n instructions of a slot from a PC, in a clause that ends at stop or in those after it, with
nothing before it that may wait. fuel counts instructions and clauses. -/
def Flight.swrAhead (f : Flight) (la : Launch) (slotB : Bool) : Nat → Nat → Word → Word → Bool
  | 0, _, _, _ => false
  | fuel + 1, n, pc, stop =>
    if pc = stop then
      match la.wordIdx pc with
      | none => false
      | some k =>
        let h := la.code.getD k 0
        f.regions.isEmpty && !(f.undone slotB).any (hdrWaits h) &&
          f.swrAhead la slotB fuel n (pc + 4) (pc + BitVec.ofNat 32 (4 * (hdrCount h + 1)))
    else
      match n, la.instrAt pc with
      | m + 1, some i => f.runsOn slotB i && (match i with
          | .swr _ 14 => true
          | _ => f.swrAhead la slotB fuel m (pc + BitVec.ofNat 32 (4 * i.words)) stop)
      | _, _ => false

/-- Whether a CVT instruction still keeps its results back: while an SWR FPSTAT that its slot can go on to stands in its window. The flags of
a CVT instruction so come after an SWR FPSTAT that follows it in its window (R108, log entry 14). -/
def State.keepsBack (s : State) (fl : Nat) (f : Flight) (p : Pending) : Bool :=
  let x := f.slot p.slotB
  (match p.instr.op with
    | some op => decide (op / 64 = 3)
    | none => false) && decide (0 < p.window) && s.slotReady fl f p.slotB &&
    ((Tbl.find s.launches f.launch.toNat).map (fun la =>
      f.swrAhead la p.slotB (2 * p.window + 2) p.window x.pc (if x.clause.isSome then x.nextClause else x.pc))).getD false

/-- Whether a pending instruction is an acquire load that must wait for a load that its slot issued before, as FENCE.ACQ waits for it
(R217, R218). -/
def Flight.acqWaits (f : Flight) (p : Pending) : Bool :=
  (match p.instr with
    | .ld .. => acquires p.instr
    | _ => false) &&
  f.pending.any (fun q => decide (q.slotB = p.slotB) && decide (q.seq < p.seq) && !q.done && (match q.act with
    | .load _ _ _ _ => true
    | .reading _ _ => true
    | .bad _ _ _ _ _ => true
    | _ => q.anew))

/-- The fault of a lane whose load meets an uncorrectable error (R206). -/
def eccFault (x : LaneAddr) : LaneFault :=
  { lane := x.lane, code := .ecc, n := 0, va := x.va, w := false, mal := false, handle := x.handle }

/-- What an instruction that a resumption issues again gives: the faults of its lanes, the register writes of the others, what it adds to
idle counters, and what is left to be issued once more for the lanes that faulted. -/
structure Reread where
  fs    : List LaneFault
  g     : List (Nat × Nat × Word)
  idle  : List (Nat × Nat) := []
  left  : Again
  state : State

/-- Issues again what a resumption asks for (R142, R340), for the lanes that still stand in the slot. What an instruction for the whole flight
asks for is left whole when one of its lanes faults (R343). -/
def State.reread (s : State) (key : Nat) (f : Flight) (la : Launch) (p : Pending) (a : Again) : Reread :=
  let on := p.mask &&& (f.slot p.slotB).mask
  let pl : Place := { key := key, slotB := p.slotB, la := la, act := on, pc := p.pc }
  match a with
  | .mem d wd ord all =>
    let ls := all.filter (fun x => on.getLsbD x.lane)
    let r := thread (fun (x : LaneAddr) s => let v := s.again x .read; ((x.lane, v.1), v.2)) ls s
    let c := r.2.loadCheck (keyCore key) (decide (ord = .weak)) (Width.bytes wd) (passed r.1)
    let fs := denied r.1 ++ c.1.map eccFault
    let faulty (l : Nat) : Bool := fs.any (fun x => decide (x.lane = l))
    let v := c.2.loadNow (keyCore key) (decide (ord = .weak)) d wd ((passed r.1).filter (fun x => !faulty x.lane))
    { fs := fs, g := v.1, left := .mem d wd ord (ls.filter (fun x => faulty x.lane)), state := v.2 }
  | .priv d n all =>
    let xs := all.filter (fun x => on.getLsbD x.1)
    let r := thread (fun (u : Nat × Mask) s => s.privFetch key u) (privUses n xs) s
    let ecc := r.1.flatten
    let g := (r.2.flight key).getD f
    let bad := xs.filter (fun x => ecc.contains x.1)
    { fs := bad.map (privFault f .ecc false), g := g.privReads (BitVec.ofNat 7 d) n (xs.filter (fun x => !ecc.contains x.1)),
      left := .priv d n bad, state := r.2 }
  | .gather d t bm row col =>
    let tr := gatherTensor pl s t
    match tr.1 with
    | none => { fs := faultAll .tensor on, g := [], left := a, state := tr.2 }
    | some x =>
      let r := gatherAll pl x bm row col tr.2
      { fs := wholeFault on r.1, g := r.2.1.flatMap (fun e => runWrites (BitVec.ofNat 7 d) e.1 [e.2]), left := a, state := r.2.2 }
  | .product gpr unif =>
    let rs := p.instr.use.gr
    let f' := { f with gpr := gpr.foldl (fun c e => Cells.set c e.1 e.2) (f.gpr.filter (fun e => !rs.contains (e.1 / 32))), unif := unif }
    let r := matRes pl f' s p.instr
    { fs := r.fs, g := r.g, idle := r.idle, left := a, state := if r.fs = [] then r.state.matUse pl r.busy else r.state }

/-- Whether a slot's trapped lanes only wait for its pending instructions, to end then (R347). -/
def Wait.ends : Wait → Bool
  | .ending _ _ => true
  | _ => false

/-- Whether an instruction that a resumption issues again must wait: for the acknowledgement of its records, for those of its slot before it, for
the handler of its slot's trap, for room in the fault ring, or for the matrix unit (R139, R303, R342 to R344). -/
def State.replayWaits (s : State) (key : Nat) (f : Flight) (p : Pending) (a : Again) (after : Nat) : Bool :=
  let x := f.slot p.slotB
  decide (s.frHead < after) || s.ringHolds f.order p.slotB || (decide (x.trapped ≠ 0) && !x.wait.ends) ||
    f.pending.any (fun q => decide (q.slotB = p.slotB) && decide (q.seq < p.seq) && !q.done && q.anew) ||
    (match a with
     | .product _ _ => decide (s.cycle < (Tbl.find s.matBusy (4 * keyCore key + keyPart key)).getD 0)
     | _ => false)

/-- An instruction that a resumption issues again (R142, R340): it completes with what it gives now. Where lanes fault, the others have their
results and the faults are delivered as those of one instruction (R7): after PAGE alone it is issued once more for the faulty lanes when their
records are acknowledged, and after a user trap when its handler says so (log entry 59). -/
def State.replay (s : State) (key : Nat) (f : Flight) (la : Launch) (p : Pending) (a : Again) (after : Nat) : State :=
  if s.replayWaits key f p a after then s
  else
    let r := s.reread key f la p a
    if r.fs = [] then r.state.complete key p.seq ⟨r.g, [], 0, r.idle⟩
    else if s.ringRoom = 0 then s
    else
      let s1 := (r.state.records key (f.asOf p) p.slotB la.ctx0 p.pc r.fs).modFlight key (fun f => f.setGs r.g)
      match lowestCode r.fs with
      | none => s1.modFlight key (fun f => f.resolve p.seq (.again r.left s1.ringEnd))
      | some _ =>
        let x := f.slot p.slotB
        let stay := maskOf (r.fs.map (·.lane)) &&& x.mask &&& ~~~x.trapped
        (s1.modFlight key (fun f => f.resolve p.seq (if stay = 0 then .finished else .trapped r.left))).deliver key p.slotB la p.pc false
          false 0 0 r.fs (some (.load p.seq))

/-- The uncorrectable errors that a pending load has met are recorded, and the gang ends (R6, R206); a full fault ring makes it wait (R303). -/
def State.loadBad (s : State) (key : Nat) (f : Flight) (la : Launch) (p : Pending) (bad : List LaneAddr) : State :=
  if s.ringRoom = 0 then s
  else (s.records key (f.asOf p) p.slotB la.ctx0 p.pc (bad.map eccFault)).deliver key p.slotB la p.pc false false 0 0 (bad.map eccFault)
    (some (.load p.seq))

/-- A pending load reads memory and completes, or meets uncorrectable errors (R49, R206). -/
def State.endLoad (s : State) (key : Nat) (f : Flight) (la : Launch) (p : Pending) (d : Nat) (wd : Width) (ord : Order)
    (ls : List LaneAddr) : State :=
  let v := s.loadPending (keyCore key) d wd ord ls
  match v.1 with
  | .write g _ _ => v.2.complete key p.seq ⟨g, [], 0, []⟩
  | .bad _ _ _ bad _ => (v.2.modFlight key (fun f => f.resolve p.seq v.1)).loadBad key f la p bad
  | _ => v.2

/-- A pending instruction completes, if it can (R49): a load reads memory, a wait for futures ends when all are resolved, a
wait for a tile takes a full one. -/
def execLongLatencyCompletion (fl seq : Nat) (s : State) : Outcome State :=
  match s.pendingAt fl seq with
  | none => .next s
  | some (f, p, la) =>
    if s.keepsBack fl f p || f.acqWaits p then .next s else
    match p.act with
    | .write g pw flags => endStep (s.complete fl seq ⟨g, pw, flags, []⟩)
    | .reading g _ => endStep (s.complete fl seq ⟨g, [], 0, []⟩)
    | .again a after => endStep (s.replay fl f la p a after)
    | .product g idle _ => endStep (s.complete fl seq ⟨g, [], 0, idle⟩)
    | .load d wd ord lanes => endStep (s.endLoad fl f la p d wd ord lanes)
    | .bad _ _ _ bad _ => endStep (s.loadBad fl f la p bad)
    | .fwait pd atr futs _ =>
      if s.allResolved la (keyCore fl) atr futs then
        .next (s.complete fl seq ⟨[], futWrites s la (keyCore fl) pd atr futs, 0, []⟩)
      else .next s
    | .atrPop d pd atr win off _ =>
      match (s.atrium (keyCore fl) atr).tileFor false with
      | none => .next s
      | some t => .next (s.popWaiting fl la p d pd atr win off (some t))
    | .finished => .next (s.complete fl seq ⟨[], [], 0, []⟩)
    | .expand _ => .next s
    | .segred _ => .next s
    | .commands _ _ _ _ _ => .next s
    | .cancel => .next s
    | .trapped _ => .next s

/-- The timeout of an ATR.POP: it takes what there is (R286). -/
def execAtrPopTimeout (fl seq : Nat) (s : State) : Outcome State :=
  match s.pendingAt fl seq with
  | none => .next s
  | some (_, p, la) =>
    match p.act with
    | .atrPop d pd atr win off (some stop) =>
      if stop ≤ s.cycle then .next (s.popWaiting fl la p d pd atr win off ((s.atrium (keyCore fl) atr).tileFor true)) else .next s
    | _ => .next s

/-- The timeout of an FWAIT (R289). -/
def execFwaitTimeout (fl seq : Nat) (s : State) : Outcome State :=
  match s.pendingAt fl seq with
  | none => .next s
  | some (_, p, la) =>
    match p.act with
    | .fwait pd atr futs (some stop) =>
      if stop ≤ s.cycle then .next (s.complete fl seq ⟨[], futWrites s la (keyCore fl) pd atr futs, 0, []⟩) else .next s
    | _ => .next s

/-- The SLEEP count of a slot ends (R89). -/
def execSleepExpiry (fl : Nat) (slotB : Bool) (s : State) : Outcome State :=
  match s.flight fl with
  | none => .next s
  | some f =>
    match (f.slot slotB).wait with
    | .sleep stop => if stop ≤ s.cycle then .next (s.putFlight fl (f.wake slotB)) else .next s
    | _ => .next s

/-! Flights (R16, R21, R33, R34, R71). -/

/-- A flight of a role with some lanes live in slot A at the role's entry, its registers as R71 has them. -/
def newFlight (la : Launch) (kind : FlightKind) (n : Nat) (r : Role) (order : Nat) (lanes : Mask) : Flight :=
  { launch := la.word, kind := kind, role := n, allot := r.allot, order := order, threads := lanes,
    a := { Slot.free with pc := la.pcOf r.entry, mask := lanes }, b := Slot.free, stack := [], gpr := [], preds := [], unif := [],
    fmask := 0, fpstat := 0, seed := la.seed, own := [], iter := [], scope := [], astat := [], idle := [], regions := [],
    privs := [], pblocks := [], privErrs := [], privBase := 128 * (Config.privateBlock order).toNat, pending := [], nextSeq := 0, marks := 0, trap := none,
    deadlineEvent := false }

/-- Starts a flight at a place. -/
def State.startFlight (s : State) (key : Nat) (f : Flight) : State := { s.putFlight key f with flightSeq := s.flightSeq + 1 }

/-- The groups that a flight takes, in enqueue order, until the next would take the sum past 32 (R21). -/
def takeGroups : Nat → List ChildGroup → List ChildGroup
  | _, [] => []
  | n, c :: cs => if n + c.count ≤ 32 then c :: takeGroups (n + c.count) cs else []

/-- The threads of some groups in lane order: group and index within it. -/
def groupThreads (cs : List ChildGroup) : List (ChildGroup × Nat) := cs.flatMap (fun c => (List.range c.count).map (fun i => (c, i)))

/-- The launch and role that a core's task queue serves next, with the place of the flight (R21). A start leaves room for the
minimum that R17 and R18 keep for the other spawnable roles. -/
def State.nextSpawn (s : State) (core : Nat) : Option (Launch × Nat × Role × Nat) :=
  let q := (Tbl.find s.tasks core).getD []
  let cands := q.filterMap (fun c =>
    match Tbl.find s.launches c.launch.toNat with
    | none => none
    | some la =>
      match la.roles[c.role]? with
      | none => none
      | some r =>
        match (s.occ core).place r.allot with
        | none => none
        | some p =>
          let first := s.flights.all (fun e =>
            !(decide (e.1 / 64 = core) && decide (e.2.launch = la.word) && decide (e.2.role = c.role)))
          let keeps := if first then s.spawnMinimum core |>.erase r.allot else s.spawnMinimum core
          if (p.2.placeAll keeps).isSome then some (la, c.role, r, p.1) else none)
  cands.foldl (fun (b : Option (Launch × Nat × Role × Nat)) c => match b with
    | none => some c
    | some x => if x.2.2.1.priority < c.2.2.1.priority then some c else some x) none

/-- The task queue of a core starts a flight (R21, R71). The enqueues synchronise with it (R211). -/
def execTaskQueueFlightStart (core : Nat) (s : State) : Outcome State :=
  match s.nextSpawn core with
  | none => .next s
  | some (la, n, r, pos) =>
    let q := (Tbl.find s.tasks core).getD []
    let mine (c : ChildGroup) : Bool := decide (c.launch = la.word) && decide (c.role = n)
    let cs := takeGroups 0 (q.filter mine)
    let ts := groupThreads cs
    let lanes := maskOf (List.range ts.length)
    let f := newFlight la .spawned n r s.flightSeq lanes
    let numbered := (List.range ts.length).zip ts
    let f1 := f.setGs (numbered.flatMap (fun t =>
      [(0, t.1, t.2.1.arg), (1, t.1, BitVec.ofNat 32 t.2.2), (2, t.1, BitVec.ofNat 32 t.2.1.count)]))
    let f2 := numbered.foldl (fun (f : Flight) t => f.setScope [t.1] t.2.1.scope) f1
    let keep_ := (q.foldl (fun (acc : List ChildGroup × Nat) c =>
      if mine c then (if acc.2 < cs.length then (acc.1, acc.2 + 1) else (acc.1 ++ [c], acc.2)) else (acc.1 ++ [c], acc.2)) ([], 0)).1
    .next (({ s.startFlight (64 * core + pos) f2 with tasks := Tbl.put s.tasks core keep_ }).acquire core)

/-- The oldest held event of a workgroup starts its handler flight (R33, R34, R71). -/
def execHeldEventHandlerStart (launch : Word) (core : Nat) (s : State) : Outcome State :=
  match Tbl.find s.launches launch.toNat with
  | none => .next s
  | some la =>
    match la.wgAt core, ((List.range la.roles.length).zip la.roles).find? (fun r => r.2.handler) with
    | some w, some (n, r) =>
      match w.held, w.handlerPos with
      | e :: es, some pos =>
        if w.running || w.retired then .next s
        else
          let all : Mask := BitVec.allOnes 32
          let f := newFlight la .handler n r s.flightSeq all
          let s1 := s.modWg launch core (fun w => { w with held := es, running := true })
          match e with
          | .deadline => .next ((s1.startFlight (64 * core + pos) { f with deadlineEvent := true }).acquire core)
          | .trap t =>
            let g := (List.range 32).flatMap (fun l => [(0, l, (1 : Word)), (1, l, BitVec.ofNat 32 t.code)])
            .next (s1.startFlight (64 * core + pos) { (f.setGs g) with trap := some t })
      | _, _ => .next s
    | _, _ => .next s

/-- Whether the deadline of a launch is due (R328). -/
def State.deadlineDue (s : State) (la : Launch) : Bool := decide (la.deadline ≠ 0) && decide (la.deadline ≤ s.time) && !la.clearing

/-- The serving workgroup of a deadline event: the lowest WGID that has not retired (R33). -/
def Launch.serving (la : Launch) : Option Nat :=
  (sortNat ((la.wgs.filter (fun w => !w.retired)).map (fun w => w.wgid))).head?

/-- Global time reaches the deadline register: the cancellation of the anytime scopes begins, and the event is pending for the
serving workgroup when there is a handler role (R32, R33, R328, R330). Otherwise the cancellations that run go on, whose writes a reservation
may have held back (R252). -/
def execDeadlineFire (launch : Word) (s : State) : Outcome State :=
  match Tbl.find s.launches launch.toNat with
  | none => .next s
  | some la =>
    if s.deadlineDue la = false then (if la.cancels.isEmpty then .next s else endStep s.cancelAdvance)
    else
      let mark (w : Workgroup) : Workgroup :=
        if la.handlerRole.isSome ∧ la.serving = some w.wgid then { w with dlPending := true } else w
      let s1 := s.modLaunch launch.toNat (fun la => { la with wgs := la.wgs.map mark })
      let s2 := s1.sweepScopes launch
      let roots := ((Tbl.find s2.launches launch.toNat).map (fun la => (la.scopes.filter (fun e => e.2.anytime)).map (fun e => e.1))).getD []
      endStep (s2.cancelStart launch roots none none)

/-! Caches and directory. -/

/-- Evicts the private block of a core with a number, counted over its flights: its dirty words go to the flight's private memory (R189). -/
def State.evictPrivAt (s : State) (core idx : Nat) : State :=
  let held := s.flights.flatMap (fun e =>
    if e.1 / 64 = core then (List.range e.2.pblocks.length).map (fun i => (e.1, i)) else [])
  match held[idx]? with
  | none => s
  | some (key, i) =>
    s.modFlight key (fun f => Flight.evictPriv { f with pblocks := (f.pblocks.drop i).take 1 ++ (f.pblocks.take i ++ f.pblocks.drop (i + 1)) })

/-- A block of a core's L1 is evicted (R180, R189): its global blocks are numbered first, then those of its flights' private words. -/
def execL1Eviction (core idx : Nat) (s : State) : Outcome State :=
  let mine := s.l1.filter (fun b => decide (b.core = core))
  match mine[idx]? with
  | some b => .next (s.unlessHeld (s.evict b))
  | none => .next (s.evictPrivAt core (idx - mine.length))

/-- A cached translation is evicted (R270). -/
def execTranslationEviction (idx : Nat) (s : State) : Outcome State :=
  match s.tlb[idx]? with
  | none => .next s
  | some e => .next (s.dropTlb (fun x => decide (x = e)))

/-- A fine region with no recall for 4,096 cycles merges back to coarse: every owned word is recalled (R223). -/
def execRegionMerge (region : Nat) (s : State) : Outcome State :=
  match Tbl.find s.dir region with
  | none => .next s
  | some d =>
    if d.fine && decide (d.lastRecall + 4096 ≤ s.cycle) then
      let mine (b : L1Block) : BitVec 32 :=
        (List.range 32).foldl (fun m w =>
          if b.owned.getLsbD w && decide (regionKey s (b.page + 4 * w) = region) then m ||| BitVec.twoPow 32 w else m) 0
      let s1 := s.writeBack mine
      .next { s1 with
        dir := Tbl.put s1.dir region { d with holder := none, fine := false }
        telemetry := { s1.telemetry with merges := countUp s1.telemetry.merges (region % 64) } }
    else .next s

/-- The reservation of a word lapses (R252). -/
def execPriorityReservationExpiry (addr : Nat) (s : State) : Outcome State :=
  .next { s with reserved := s.reserved.filter (fun r => decide (r.pa ≠ addr) || decide (s.cycle < r.cycle + 4096)) }

end Sys2Proof.Machine
end

