-- ==== Sys2Proof/Machine/Engines.lean ====
section
/-! DEFINITION. The engines at work: copies, fills and reductions (R278, R291 to R293), collision queries (R294 to R296),
dynamics steps (R297, R298), restripes (R227, R268), and the completion of commands in number order (R224). -/

namespace Sys2Proof.Machine

/-! Commands at work (R278, R293). -/

/-- Whether a command is a REDUCE-COPY (R291). -/
def Command.reduces (c : Command) : Bool :=
  match c.kind with
  | .chain ws => decide ((fld (ws.getD 0 0) 0 8).toNat = 3)
  | _ => false

/-- The command with a number that an engine may work on: those before it are done with, and it waits for no page. Commands
of a context are worked on one after the other (log entry 33); the words that a REDUCE-COPY has sent may still stand in combining
entries when another follows it, so that they can combine (R278). -/
def State.workable (s : State) (cx num : Nat) : Option Command :=
  let cmds := (s.ctx cx).cmds
  match cmds.find? (fun c => decide (c.num = num)) with
  | none => none
  | some c =>
    let before := cmds.filter (fun d => decide (d.num < num))
    if c.finished = false ∧ c.parkSeq = none ∧ before.all (fun d => d.finished) = true ∧
        (c.reduces || !s.combining.any (fun e => before.any (fun d => e.from_.contains (cx, d.num)))) = true then some c
    else none

/-- The error of a descriptor that breaks its layout: no access is to blame. -/
def layoutDeny : Deny := { code := .engine, va := 0, w := false, mal := false, handle := 0 }

/-- Takes the accesses of a command to be denied as some context allows: a run of n bytes at offset o of a handle. -/
def State.engRun (s : State) (ctx idx : Nat) (o : Int) (n align : Nat) (need : Need) : Except Deny (List LaneAddr) × State :=
  let hd := s.handle 128 ctx idx
  hd.2.checkRun 128 ctx idx 0 hd.1 o n align need

/-! COPY, FILL, REDUCE-COPY and NOP (R291, R292). -/

/-- A command descriptor taken apart (R291). -/
structure Desc where
  op   : Nat
  rop  : RedOp
  src  : Nat
  soff : Nat
  dst  : Nat
  doff : Nat
  len  : Nat
  fill : Word
deriving DecidableEq, Repr

/-- Two words as one number. -/
def twoWords (ws : List Word) (i : Nat) : Nat := (ws.getD i 0).toNat + (ws.getD (i + 1) 0).toNat * 2 ^ 32

/-- Reads a descriptor; none when it breaks its layout (R291). -/
def descOf (ws : List Word) : Option Desc :=
  let w (i : Nat) : Word := ws.getD i 0
  let op := (fld (w 0) 0 8).toNat
  let len := (w 7).toNat
  if zf (w 0) 11 21 && decide (1 ≤ op) && decide (op ≤ 4) && zf (w 1) 10 22 && zf (w 3) 16 16 && zf (w 4) 10 22 && zf (w 6) 16 16 &&
      decide (4 ≤ len) && decide (len % 4 = 0) && (ws.drop 9).all (fun x => decide (x = 0)) then
    some { op := op, rop := RedOp.ofCode (fld (w 0) 8 3), src := (fld (w 1) 0 10).toNat, soff := twoWords ws 2,
           dst := (fld (w 4) 0 10).toNat, doff := twoWords ws 5, len := len, fill := w 8 }
  else none

/-- Why a descriptor is an error before any access: an invalid handle, or a range outside a handle (R292). -/
def State.descDeny (s : State) (ctx : Nat) (d : Desc) : Option Deny × State :=
  let dst := s.handle 128 ctx d.dst
  let bad (idx : Nat) (hd : Option Handle) (o : Nat) (w : Bool) : Option Deny :=
    match reach idx hd (o : Int) d.len 4 w with
    | .error e => some e
    | .ok _ => none
  if d.op = 4 then (none, s)
  else if d.op = 2 then (bad d.dst dst.1 d.doff true, dst.2)
  else
    let src := dst.2.handle 128 ctx d.src
    (match bad d.src src.1 d.soff false with
     | some e => some e
     | none => bad d.dst dst.1 d.doff true, src.2)

/-- Bytes of the next block of a command: up to the end of a 128-byte block of the destination (R302). -/
def Desc.chunk (d : Desc) (pos : Nat) : Nat := min (d.len - pos) (128 - (d.doff + pos) % 128)

/-- The hall whose switch takes the contributions of a command: that of its issuing core. -/
def State.cmdHall (s : State) (c : Command) : Nat :=
  match c.launch.bind (fun w => Tbl.find s.launches w.toNat) with
  | some la => ((la.wgs.find? (fun g => decide (g.wgid = c.issuer))).map (fun g => g.core / 4)).getD 0
  | none => 0

/-- Whether a REDUCE-COPY has words still to send to a block of device memory, where its destination translates now (R278). -/
def State.sends (s : State) (cx : Nat) (c : Command) (block : Nat) : Bool :=
  match c.kind with
  | .chain ws =>
    match descOf ws with
    | none => false
    | some d =>
      let ctx := s.cmdCtx cx c
      match reach d.dst (s.handle 128 ctx d.dst).1 ((d.doff + c.pos : Nat) : Int) (d.len - c.pos) 4 true with
      | .error _ => false
      | .ok (h, va) => !h.host && (spans va (d.len - c.pos)).any (fun x =>
          (s.peek ctx x.1).any (fun e =>
            let pa := e.pa + (x.1 - e.base)
            decide (128 * block < pa + x.2) && decide (pa < 128 * block + 128)))
  | _ => false

/-- Whether a contribution to an entry's block, routed through its switch, has not arrived: one of a REDUCE-COPY that is at work, or that
only other such commands of its context stand before (R278, log entry 35). -/
def State.awaited (s : State) (e : CombEntry) : Bool :=
  s.ctxs.any (fun x => x.2.cmds.any (fun c =>
    c.reduces && !c.finished && decide (s.cmdHall c = e.hall) &&
      x.2.cmds.all (fun d => decide (c.num ≤ d.num) || d.finished || d.reduces) && s.sends x.1 c e.block))

/-- The combining entries leave whose contributions have all arrived (R278). -/
def State.combSettle (s : State) : State :=
  (s.combining.filter (fun e => !s.awaited e)).foldl (fun s e => s.combDepart e) s

/-- A combining entry after a word has been combined into it. -/
def CombEntry.add (e : CombEntry) (w : Nat) (v : Word) : CombEntry :=
  { e with
    words := Cells.set e.words w (if e.got.getLsbD w then redStep e.op (Cells.get e.words w) v else v)
    got := e.got ||| BitVec.twoPow 32 w }

/-- Applies contributions at their homes, uncombined (R278). -/
def State.deliverWords (s : State) (op : RedOp) (ws : List (LaneAddr × Word)) : State :=
  ws.foldl (fun s x => let old := s.engRead x.1 4; old.2.engWrite x.1 4 (redStep op (BitVec.ofNat 32 old.1) x.2).toNat) s

/-- The contributions of a command to words of one destination block: into the entry for the block, into a free entry, or
uncombined to the home (R278). An entry combines one operation: a contribution of another goes to the home (log entry 35). -/
def State.contribute (s : State) (hall cx num : Nat) (op : RedOp) (ws : List (LaneAddr × Word)) : State :=
  match ws with
  | [] => s
  | (a, _) :: _ =>
    let block := a.pa / 128
    let into (e : CombEntry) : CombEntry :=
      ws.foldl (fun (e : CombEntry) x => e.add (x.1.pa % 128 / 4) x.2)
        { e with from_ := if e.from_.contains (cx, num) then e.from_ else e.from_ ++ [(cx, num)] }
    let mine (e : CombEntry) : Bool := decide (e.hall = hall) && decide (e.block = block)
    let alone (s : State) : State :=
      let s1 := s.deliverWords op ws
      { s1 with telemetry := { s1.telemetry with uncombined := countUp s1.telemetry.uncombined hall } }
    if a.host then s.deliverWords op ws
    else
      match s.combining.find? mine with
      | some e =>
        if e.op = op then { s with combining := s.combining.map (fun (e : CombEntry) => if mine e then into e else e) } else alone s
      | none =>
        if (s.combining.filter (fun e => decide (e.hall = hall))).length < 16 then
          { s with combining := s.combining ++ [into { hall := hall, block := block, at_ := a, op := op, from_ := [], words := [], got := 0 }] }
        else alone s

/-- A REDUCE-COPY consumes the words of its destination: the first with an uncorrectable error (R206, R293). -/
def State.consumeWords (s : State) (as : List LaneAddr) : Option LaneAddr × State :=
  as.foldl (fun (acc : Option LaneAddr × State) a =>
    if a.host then acc
    else
      let v := acc.2.consume 128 a.pa 4 false
      (if v.1 && acc.1.isNone then some a else acc.1, v.2)) (none, s)

/-- The next step of a command of a chain: the checks of its descriptor first, then one block after the other, each with its
own checks (R292, R293). -/
def State.chainWork (s : State) (cx : Nat) (c : Command) (d : Desc) : State :=
  let ctx := s.cmdCtx cx c
  let n := d.chunk c.pos
  let begun (s : State) : State := s.modCmd cx c.num (fun x => { x with started := true })
  let next (s : State) : State :=
    (s.modCmd cx c.num (fun x =>
      { x with started := true, pos := c.pos + n, finished := x.finished || decide (d.len ≤ c.pos + n) })).combSettle
  let first := if c.started then (none, s) else s.descDeny ctx d
  match first with
  | (some e, s1) => s1.cmdDeny cx c e []
  | (none, s1) =>
    if d.op = 4 then s1.modCmd cx c.num (fun x => { x with started := true, finished := true })
    else
      let src : Except Deny (List LaneAddr) × State :=
        if d.op = 2 then (.ok [], s1) else s1.engRun ctx d.src ((d.soff + c.pos : Nat) : Int) n 4 .read
      match src with
      | (.error e, s2) => (begun s2).cmdDeny cx c e []
      | (.ok as, s2) =>
        match s2.engRun ctx d.dst ((d.doff + c.pos : Nat) : Int) n 4 .write with
        | (.error e, s3) => (begun s3).cmdDeny cx c e []
        | (.ok bs, s3) =>
          if d.op = 2 then next (s3.runWrite bs (List.replicate bs.length d.fill))
          else if d.op = 1 then
            let v := s3.runRead as
            next (v.2.runWrite bs v.1)
          else
            match s3.consumeWords bs with
            | (some a, s4) =>
              (begun s4).cmdDeny cx c { code := .ecc, va := a.va, w := true, mal := false, handle := d.dst } []
            | (none, s4) =>
              let v := s4.runRead as
              next (v.2.contribute (v.2.cmdHall c) cx c.num d.rop (bs.zip v.1))

/-- A step of a command of a chain whose operation is op; a descriptor that breaks its layout is an error, whichever of the
four events meets it. -/
def chainEvent (op cx num : Nat) (s : State) : Outcome State :=
  match s.workable cx num with
  | none => .next s
  | some c =>
    match c.kind with
    | .chain ws =>
      match descOf ws with
      | none => endStep (s.cmdDeny cx c layoutDeny [])
      | some d => if d.op = op then endStep (s.unlessHeld (s.chainWork cx c d)) else .next s
    | _ => .next s

/-- COPY (R292). -/
def execCopyCmd (ctx num : Nat) (s : State) : Outcome State := chainEvent 1 ctx num s

/-- FILL (R292). -/
def execFillCmd (ctx num : Nat) (s : State) : Outcome State := chainEvent 2 ctx num s

/-- REDUCE-COPY (R278, R292). -/
def execReduceCopyCmd (ctx num : Nat) (s : State) : Outcome State := chainEvent 3 ctx num s

/-- NOP (R292). -/
def execNopCmd (ctx num : Nat) (s : State) : Outcome State := chainEvent 4 ctx num s

/-! Arithmetic of the engines: every step rounds with rne32. -/

def fAdd (x y : Word) : Word := (rneAdd x y).word
def fMul (x y : Word) : Word := (rneMul x y).word
def fNeg (x : Word) : Word := x ^^^ 0x80000000
def fSub (x y : Word) : Word := (fp32.add .rne (Fp.ofWord x) (Fp.ofWord y).neg).word
def fHalf : Word := 0x3F000000
def fOne : Word := 0x3F800000

/-- x < y and x ≤ y; false with a NaN. -/
def fLt (x y : Word) : Bool := fcmpHolds .lt (Fp.ofWord x) (Fp.ofWord y)
def fLe (x y : Word) : Bool := fcmpHolds .le (Fp.ofWord x) (Fp.ofWord y)

/-- Division rounded to nearest even. -/
def fDiv (x y : Word) : Word :=
  let neg := decide ((Fp.ofWord x).isNeg ≠ (Fp.ofWord y).isNeg)
  match Fp.ofWord x, Fp.ofWord y with
  | .fin _ m1 e1, .fin _ m2 e2 =>
    if m2 = 0 then (if m1 = 0 then BitVec.ofNat 32 fp32.qnan else BitVec.ofNat 32 (fp32.infBits neg))
    else
      let k := 64 + Nat.log2 m2
      (roundSticky neg (m1 * 2 ^ k / m2) (e1 - e2 - (k : Int)) (decide (m1 * 2 ^ k % m2 ≠ 0))).word
  | .inf _, .fin _ _ _ => BitVec.ofNat 32 (fp32.infBits neg)
  | .fin _ _ _, .inf _ => if neg then 0x80000000 else 0
  | _, _ => BitVec.ofNat 32 fp32.qnan

/-- The components of a vector in words i to i + 2. -/
def vec3 (ws : List Word) (i : Nat) : List Word := (ws.drop i).take 3

/-- Componentwise operation. -/
def zipV (g : Word → Word → Word) (x y : List Word) : List Word := (x.zip y).map (fun e => g e.1 e.2)

/-- A sum from left to right, one rounding a step. -/
def fSum : List Word → Word
  | [] => 0
  | x :: xs => xs.foldl fAdd x

/-- dot of R295. -/
def fDot (x y : List Word) : Word := fSum (zipV fMul x y)

/-! The collision engine. -/

/-- The sphere test of R295. -/
def sphereHits (q : List Word) (r : Word) (lo hi : List Word) : Bool :=
  let e (i : Nat) : Word :=
    let x := q.getD i 0
    if fLt x (lo.getD i 0) then fSub (lo.getD i 0) x else if fLt (hi.getD i 0) x then fSub x (hi.getD i 0) else 0
  fLe (fSum ((List.range 3).map (fun i => fMul (e i) (e i)))) (fMul r r)

/-- A quotient clamped to 0 to 1; for a NaN a free value (log entry 7). -/
def clampUnit (x : Word) : Word :=
  if (Fp.ofWord x).isNan then Config.clampNan x else if fLt x 0 then 0 else if fLt fOne x then fOne else x

/-- The capsule test of R295; h is the edge of the box. -/
def capsuleHits (p0 p1 : List Word) (r : Word) (lo hi : List Word) (h : Word) : Bool :=
  let u := zipV fSub p1 p0
  let w := zipV fSub (lo.map (fun x => fAdd x (fMul h fHalf))) p0
  let uu := fDot u u
  let t := if fcmpHolds .eq (Fp.ofWord uu) (Fp.ofWord 0) then 0 else clampUnit (fDiv (fDot w u) uu)
  sphereHits (zipV fAdd p0 (u.map (fMul t))) r lo hi

/-- Whether a query's shape overlaps a box of an edge. -/
def queryHits (qw : List Word) (lo hi : List Word) (h : Word) : Bool :=
  if bit (qw.getD 0 0) 0 then capsuleHits (vec3 qw 8) (vec3 qw 11) (qw.getD 14 0) lo hi h
  else sphereHits (vec3 qw 8) (qw.getD 14 0) lo hi

/-- Whether a query record keeps its layout (R294, R296). -/
def queryOk (qw : List Word) : Bool :=
  let w (i : Nat) : Word := qw.getD i 0
  let edge := Fp.ofWord (w 7)
  let rad := Fp.ofWord (w 14)
  zf (w 0) 1 31 && zf (w 1) 10 22 && decide ((w 3).toNat ≤ 15) && decide ((w 15).toNat % 16 = 0) &&
    (match edge with
     | .fin neg m _ => !neg && decide (m ≠ 0)
     | _ => false) &&
    (!rad.isNan && (!bit (w 14) 31 || decide ((w 14).toNat % 2 ^ 31 = 0))) &&
    (bit (w 0) 0 || (decide (w 11 = 0) && decide (w 12 = 0) && decide (w 13 = 0)))

/-- The state of octant c of a node: 0 empty, 1 full, 2 mixed, 3 unknown. -/
def octState (occ : Word) (c : Nat) : Nat := (fld occ (2 * c) 2).toNat

/-- The words of the result record of a query (R296). -/
def resultWords (c : Command) (status depth octant node : Nat) : List Word :=
  [BitVec.ofNat 32 (status + 256 * octant + 65536 * depth), BitVec.ofNat 32 node, c.version, BitVec.ofNat 32 c.visited]

/-- Ends a query with the words of its result record (R296). -/
def State.queryEnd (s : State) (cx : Nat) (c : Command) (status depth octant node : Nat) : State :=
  s.cmdEnd cx c (resultWords c status depth octant node)

/-- Reads a node of the octree and goes down to it; the error cases of R296 end the query as soon as the node is read, before any octant of
it is looked at, which is the model's choice for a mixed octant at level 0 (R295, log entry 91). -/
def State.queryNode (s : State) (cx : Nat) (c : Command) (qw : List Word) (node level : Nat) (lo : List Word) (edge : Word) : State :=
  match s.engRun (s.cmdCtx cx c) (fld (qw.getD 1 0) 0 10).toNat ((16 * node : Nat) : Int) 16 16 .read with
  | (.error d, s1) => s1.cmdDeny cx c d (resultWords c 3 0 0 0)
  | (.ok as, s1) =>
    let v := s1.runRead as
    let w (i : Nat) : Word := v.1.getD i 0
    let c1 : Command := { c with started := true, visited := c.visited + 1, version := if c.visited = 0 then w 2 else c.version }
    let mixed := (List.range 8).any (fun k => decide (octState (w 0) k = 2))
    if zf (w 0) 24 8 = false ∨ w 3 ≠ 0 ∨ (fld (w 0) 16 8).toNat ≠ level ∨ (level = 0 ∧ mixed = true) then
      v.2.queryEnd cx c1 3 0 0 0
    else
      let fr : WalkFrame := { node := node, level := level, lo := lo, edge := edge, occ := w 0, base := w 1, octant := 0 }
      v.2.modCmd cx c.num (fun x => { x with started := true, visited := c1.visited, version := c1.version, walk := c.walk ++ [fr] })

/-- The next step of a collision query: its record and its root, then one octant after the other, depth first (R295). A cancelled one has
only its status to write (R302). -/
def execCollisionQuery (ctx num : Nat) (s : State) : Outcome State :=
  match s.workable ctx num with
  | none => .next s
  | some c =>
    match c.kind with
    | .query qw _ =>
      if c.cancelled then endStep (s.unlessHeld (s.cmdEnd ctx c c.cancelWords))
      else if c.walk = [] then
        if queryOk qw = false then endStep (s.unlessHeld (s.queryEnd ctx c 3 0 0 0))
        else endStep (s.unlessHeld (s.queryNode ctx c qw (qw.getD 2 0).toNat (qw.getD 3 0).toNat (vec3 qw 4) (qw.getD 7 0)))
      else
        match c.walk.getLast? with
        | none => .next s
        | some fr =>
          let k := fr.octant
          if 8 ≤ k then
            if c.walk.length = 1 then endStep (s.unlessHeld (s.queryEnd ctx c 0 0 0 0))
            else .next (s.modCmd ctx num (fun x => { x with walk := x.walk.dropLast }))
          else
            let h := fMul fr.edge fHalf
            let lo := ((List.range 3).zip fr.lo).map (fun e => if k / 2 ^ e.1 % 2 = 1 then fAdd e.2 h else e.2)
            let hi := lo.map (fun x => fAdd x h)
            let oct := octState fr.occ k
            let walk := c.walk.dropLast ++ [{ fr with octant := k + 1 }]
            if oct = 0 ∨ queryHits qw lo hi h = false then .next (s.modCmd ctx num (fun x => { x with walk := walk }))
            else if oct ≠ 2 then endStep (s.unlessHeld (s.queryEnd ctx c 1 (c.walk.length - 1) k fr.node))
            else
              let below := ((List.range k).filter (fun j => decide (octState fr.occ j = 2))).length
              endStep (s.unlessHeld (s.queryNode ctx { c with walk := walk } qw (fr.base.toNat + below) (fr.level - 1) lo h))
    | _ => .next s

/-! The dynamics engine. -/

/-- One body of a step: what is written back, none for a static body (R298). -/
def stepBody (b k : List Word) (dt : Word) (g : List Word) : Option (List Word) :=
  if bit (b.getD 14 0) 0 then none
  else
    let v := zipV (fun v a => fAdd v (fMul dt a)) (vec3 b 7) (zipV fAdd ((vec3 k 4).map (fMul (b.getD 13 0))) g)
    let om := zipV (fun w a => fAdd w (fMul dt a)) (vec3 b 10) (zipV fMul (vec3 k 0) (vec3 k 8))
    let p := zipV (fun p v => fAdd p (fMul dt v)) (vec3 b 0) v
    let h := fMul fHalf dt
    let qw := b.getD 3 0
    let qx := b.getD 4 0
    let qy := b.getD 5 0
    let qz := b.getD 6 0
    let ox := om.getD 0 0
    let oy := om.getD 1 0
    let oz := om.getD 2 0
    let d := [fSub (fSub (fNeg (fMul qx ox)) (fMul qy oy)) (fMul qz oz),
              fSub (fAdd (fMul qw ox) (fMul qy oz)) (fMul qz oy),
              fSub (fAdd (fMul qw oy) (fMul qz ox)) (fMul qx oz),
              fSub (fAdd (fMul qw oz) (fMul qx oy)) (fMul qy ox)]
    let q := zipV (fun q x => fAdd q (fMul h x)) [qw, qx, qy, qz] d
    let n := fSum (q.map (fun x => fMul x x))
    let e := (fld n 23 8).toNat
    if e = 0 ∨ e = 255 then some (p ++ q ++ v ++ om ++ [b.getD 13 0, b.getD 14 0 ||| 2, b.getD 15 0])
    else
      let s := (specialFn .rsq (Fp.ofWord n)).word
      some (p ++ q.map (fun x => fMul x s) ++ v ++ om ++ [b.getD 13 0, b.getD 14 0, b.getD 15 0])

/-- Whether a step record keeps its layout (R297, R298). -/
def stepOk (sw : List Word) : Bool :=
  let w (i : Nat) : Word := sw.getD i 0
  zf (w 0) 10 22 && zf (w 1) 10 22 && decide (w 10 = 0) && decide (w 11 = 0) && decide (1 ≤ (w 3).toNat) && decide ((w 3).toNat ≤ 65536)

/-- Reads a body, and its companion entry when the body is not static: only then is the body written (R298). -/
def State.stepRead (s : State) (ctx : Nat) (sw : List Word) (i : Nat) : Except Deny (List LaneAddr × List Word × List Word) × State :=
  let idx (j : Nat) : Nat := (fld (sw.getD j 0) 0 10).toNat
  match s.engRun ctx (idx 0) ((64 * i : Nat) : Int) 64 16 .read with
  | (.error d, s1) => (.error d, s1)
  | (.ok as, s1) =>
    let b := s1.runRead as
    if bit (b.1.getD 14 0) 0 then (.ok (as, b.1, []), b.2)
    else
      match b.2.engRun ctx (idx 0) ((64 * i : Nat) : Int) 64 16 .write with
      | (.error d, s2) => (.error d, s2)
      | (.ok _, s2) =>
        match s2.engRun ctx (idx 1) ((48 * i : Nat) : Int) 48 16 .read with
        | (.error d, s3) => (.error d, s3)
        | (.ok bs, s3) =>
          let k := s3.runRead bs
          (.ok (as, b.1, k.1), k.2)

/-- Whether a body and its companion entry keep their layouts (R297). -/
def bodyOk (b k : List Word) : Bool :=
  zf (b.getD 14 0) 2 30 && decide (b.getD 15 0 = 0) && decide (k.getD 3 0 = 0) && decide (k.getD 7 0 = 0) && decide (k.getD 11 0 = 0)

/-- Looks at every body before any is stepped (R298): whether all keep their layouts, or the body or companion that lies outside its
handle. A body whose page is missing may keep its layout or not: the command waits before it steps anything. One whose reading is denied
otherwise is denied when its step comes (R293). -/
def State.stepProbe (s : State) (ctx : Nat) (sw : List Word) : Except Deny Bool × State :=
  let outside (j : Nat) (hd : Option Handle) (o n : Nat) : Option Deny :=
    match reach (fld (sw.getD j 0) 0 10).toNat hd (o : Int) n 16 (decide (j = 0)) with
    | .error d => some d
    | .ok _ => none
  (List.range (sw.getD 3 0).toNat).foldl (fun (acc : Except Deny Bool × State) k =>
    match acc.1 with
    | .error _ => acc
    | .ok false => acc
    | .ok true =>
      let i := (sw.getD 2 0).toNat + k
      let hb := acc.2.handle 128 ctx (fld (sw.getD 0 0) 0 10).toNat
      let hc := hb.2.handle 128 ctx (fld (sw.getD 1 0) 0 10).toNat
      match (outside 0 hb.1 (64 * i) 64).or (outside 1 hc.1 (48 * i) 48) with
      | some d => (.error d, hc.2)
      | none =>
        match hc.2.stepRead ctx sw i with
        | (.error d, s') => (if d.code = .page then .error d else .ok true, s')
        | (.ok r, s') => (.ok (bodyOk r.2.1 r.2.2), s')) (.ok true, s)

/-- The words that a dynamics step puts into its record (R297). -/
def stepWords (status pos : Nat) : List Word := [BitVec.ofNat 32 status, BitVec.ofNat 32 pos]

/-- Ends a dynamics step with its status (R297). -/
def State.stepEnd (s : State) (cx : Nat) (c : Command) (status pos : Nat) : State := s.cmdEnd cx c (stepWords status pos)

/-- A dynamics step goes on: its record and all bodies are looked at, then one body after the other; the last one ends it (R298). -/
def State.stepWork (s : State) (ctx : Nat) (c : Command) (sw : List Word) : State :=
  let hctx := s.cmdCtx ctx c
  if c.started = false then
    if stepOk sw = false then s.stepEnd ctx c 3 0
    else
      match s.stepProbe hctx sw with
      | (.error d, s1) => s1.cmdDeny ctx c d (stepWords 3 0)
      | (.ok false, s1) => s1.stepEnd ctx c 3 0
      | (.ok true, s1) => s1.modCmd ctx c.num (fun x => { x with started := true })
  else if (sw.getD 3 0).toNat ≤ c.pos then s.stepEnd ctx c 1 c.pos
  else
    match s.stepRead hctx sw ((sw.getD 2 0).toNat + c.pos) with
    | (.error d, s1) => s1.cmdDeny ctx c d (stepWords 3 c.pos)
    | (.ok r, s1) =>
      let s2 := match stepBody r.2.1 r.2.2 (sw.getD 4 0) (vec3 sw 5) with
        | none => s1
        | some ws => s1.runWrite r.1 ws
      let s3 := s2.modCmd ctx c.num (fun x => { x with pos := c.pos + 1 })
      if (sw.getD 3 0).toNat ≤ c.pos + 1 then s3.stepEnd ctx c 1 (c.pos + 1) else s3

/-- The next step of a dynamics step (R298). A cancelled one has only its status to write (R302). -/
def execDynamicsStep (ctx num : Nat) (s : State) : Outcome State :=
  match s.workable ctx num with
  | none => .next s
  | some c =>
    match c.kind with
    | .dyn sw _ => endStep (s.unlessHeld (if c.cancelled then s.cmdEnd ctx c c.cancelWords else s.stepWork ctx c sw))
    | _ => .next s

/-! Restripes (R227, R268). -/

/-- The entries of a page's leaf: the sixteen of a group for a 64 KiB page (R262). -/
def leafEntries (e : TlbEntry) : List Nat :=
  if e.size = 65536 then (List.range 16).map (fun i => e.leaf / 256 * 256 + 16 * i) else [e.leaf]

/-- Hands a page over to a placement: the leaf's word 2, cached translations and recorded placements follow; owned words are
recalled before and the tokens of its regions go back to their homes. -/
def State.handoverPage (s : State) (e : TlbEntry) (place : Word) : State :=
  let inside (pa : Nat) : Bool := decide (e.pa ≤ pa) && decide (pa < e.pa + e.size)
  let s1 := s.writeBack (fun b => if inside b.page then b.owned else 0)
  let spans := (List.range (e.size / 4096)).map (fun i => e.pa / 4096 + i)
  { s1 with
    mem := (leafEntries e).foldl (fun m a => putValue m (a + 8) 4 place.toNat) s1.mem
    tlb := s1.tlb.map (fun (x : TlbEntry) => if x.leaf = e.leaf ∨ (leafEntries e).contains x.leaf then { x with place := place } else x)
    placed := spans.foldl (fun t k => Cells.set t k place) s1.placed
    dir := s1.dir.filter (fun d => !spans.contains (d.1 / 64)) }

/-- Whether a restripe that was accepted before still has a page to hand over that lies where this page lies (R313). -/
def State.restripedBefore (s : State) (order : Nat) (e : TlbEntry) : Bool :=
  s.ctxs.any (fun x => x.2.cmds.any (fun c =>
    !c.finished && decide (c.order < order) &&
      (match c.kind with
       | .restripe va pages size _ =>
         (List.range (pages - c.pos)).any (fun i =>
           match walkFrom s x.1 (va + size * (c.pos + i)) 4 0 x.2.root with
           | .page _ => false
           | .leaf d => decide (d.pa < e.pa + e.size) && decide (e.pa < d.pa + d.size))
       | _ => false)))

/-- The next page of a restripe is handed over (R227), after every earlier restripe of the page (R313). A page that is not mapped any
longer makes the command wait, one of another size is an error (R293). -/
def execRestripeHandover (ctx num : Nat) (s : State) : Outcome State :=
  match s.workable ctx num with
  | none => .next s
  | some c =>
    match c.kind with
    | .restripe va pages size place =>
      let at_ := va + size * c.pos
      match walkFrom s ctx at_ 4 0 (s.ctx ctx).root with
      | .page mal => endStep (s.cmdDeny ctx c { code := .page, va := at_, w := false, mal := mal, handle := 0 } [])
      | .leaf e =>
        if e.size ≠ size then endStep (s.cmdDeny ctx c { layoutDeny with va := at_ } [])
        else if s.restripedBefore c.order e then .next s
        else
          endStep ((s.handoverPage e place).modCmd ctx num (fun x =>
            { x with started := true, pos := c.pos + 1, finished := decide (pages ≤ c.pos + 1) }))
    | _ => .next s

/-! Completion (R224). -/

/-- The first command of a context completes, when no combining entry holds words of it any longer: the timeline becomes its number
(R224, R278); instructions that wait for room in the queue go on, and so do cancellations that wait for commands (R290, R330). -/
def execEngineCommandCompletion (ctx : Nat) (s : State) : Outcome State :=
  match (s.ctx ctx).cmds with
  | [] => .next s
  | c :: _ =>
    if c.finished = false then .next s
    else
      let s0 := s.unlessHeld s.combSettle
      if s0.combining.any (fun e => e.from_.contains (ctx, c.num)) then endStep s0
      else
        let s1 := s0.modCtx ctx (fun x => { x with timeline := c.num, cmds := x.cmds.drop 1 })
        endStep ((s1.feedWaiters ctx).cancelAdvance)

end Sys2Proof.Machine
end

