-- ==== Sys2Proof/Machine/Launch.lean ====
section
/-! DEFINITION. Launches: the image and its checks (R57 to R62), the LAUNCH packet's own checks (R12, R24, R30, R315), room and
placement (R16 to R18, R59, R192), the start of a launch (R13, R18, R61), and its completion with the record of R316. -/

namespace Sys2Proof.Machine

/-! Reading through a context, as the firmware core and the launch unit do. -/

/-- Recalls every owned word in a run of bytes (R222). -/
def State.recallRun (s : State) (pa n : Nat) : State :=
  s.writeBack (fun b => if b.page < pa + n ∧ pa < b.page + 128 then b.owned else 0)

/-- Where n bytes at a virtual address of a context lie, page by page, as physical address and bytes; none when a page is not
mapped, malformed, or lacks the permission. -/
def State.ctxSpans (s : State) (ctx va n : Nat) (need : Need) : Option (List (Nat × Nat)) × State :=
  if 2 ^ 48 < va + n then (none, s)
  else
    (spans va n).foldl (fun (acc : Option (List (Nat × Nat)) × State) x =>
      match acc.1 with
      | none => acc
      | some as =>
        match acc.2.translate ctx x.1 with
        | (.error _, s1) => (none, s1)
        | (.ok e, s1) =>
          if e.allows need then
            let pa := e.pa + (x.1 - e.base)
            (some (as ++ [(pa, x.2)]), s1.place pa e.place e.size)
          else (none, s1)) (some [], s)

/-- Reads words at a virtual address of a context; none when they cannot be read. -/
def State.ctxRead (s : State) (ctx va n : Nat) : Option (List Word) × State :=
  if n = 0 then (some [], s)
  else
    match s.ctxSpans ctx va (4 * n) .read with
    | (none, s1) => (none, s1)
    | (some as, s1) =>
      as.foldl (fun (acc : Option (List Word) × State) x =>
        match acc.1 with
        | none => acc
        | some ws =>
          let s2 := (acc.2.recallRun x.1 x.2).inside x.1 x.2
          let bad := s2.consume 128 x.1 x.2 false
          if bad.1 then (none, bad.2) else (some (ws ++ wordsAt bad.2.mem x.1 (x.2 / 4)), bad.2)) (some [], s1)

/-- Writes words at a virtual address of a context with release stores; none when they cannot be written. -/
def State.ctxWrite (s : State) (ctx va : Nat) (ws : List Word) : Option State :=
  match s.ctxSpans ctx va (4 * ws.length) .write with
  | (none, _) => none
  | (some as, s1) =>
    some ((as.foldl (fun (acc : List Word × State) x =>
      let k := x.2 / 4
      (acc.1.drop k, ((List.range k).zip acc.1).foldl (fun s w =>
        s.homeWrite 128 (x.1 + 4 * w.1) 4 w.2.toNat) acc.2)) (ws, s1)).2)

/-! Burum images (R57 to R62). -/

/-- The fixed part of an image header (R57). -/
structure ImageHdr where
  roles    : Nat
  gang     : Nat
  code     : Nat
  words    : Nat
  pbytes   : Nat
  windows  : Nat
  patches  : Nat
  winList  : Nat
  patList  : Nat
  features : BitVec 64
  size     : Nat
deriving DecidableEq, Repr

/-- Reads the header's first sixteen words; none when they break R57, or a list or the code region reaches past the end or overlaps another
(R62). A list of no entries that would begin past the end reaches past it too (log entry 67). -/
def imageHdr (ws : List Word) : Option ImageHdr :=
  let w (i : Nat) : Word := ws.getD i 0
  let h : ImageHdr :=
    { roles := (fld (w 1) 16 8).toNat, gang := (fld (w 1) 24 8).toNat, code := (w 2).toNat, words := (w 3).toNat,
      pbytes := (w 4).toNat, windows := (fld (w 5) 0 16).toNat, patches := (fld (w 5) 16 16).toNat, winList := (w 6).toNat,
      patList := (w 7).toNat, features := BitVec.ofNat 64 (twoWords ws 8), size := (w 10).toNat }
  let clear (a n b m : Nat) : Bool := decide (n = 0) || decide (m = 0) || decide (a + n ≤ b) || decide (b + m ≤ a)
  if w 0 = 0x4D525542 ∧ (fld (w 1) 0 16).toNat = 1 ∧ (ws.drop 11).all (fun x => decide (x = 0)) = true ∧
      1 ≤ h.roles ∧ h.roles ≤ 4 ∧ h.gang ∈ [0, 1, 2, 4] ∧ h.code % 64 = 0 ∧ 1 ≤ h.words ∧ h.words ≤ 2 ^ 24 ∧
      h.pbytes ≤ 4096 ∧ h.pbytes % 4 = 0 ∧ h.windows ≤ 16 ∧ h.patches ≤ 1024 ∧ h.winList % 8 = 0 ∧ h.patList % 8 = 0 ∧
      h.size % 8 = 0 ∧ 192 ≤ h.size ∧ h.code + 4 * h.words ≤ h.size ∧ h.winList + 8 * h.windows ≤ h.size ∧
      h.patList + 8 * h.patches ≤ h.size ∧ clear 0 192 h.code (4 * h.words) ∧ clear 0 192 h.winList (8 * h.windows) ∧
      clear 0 192 h.patList (8 * h.patches) ∧ clear h.code (4 * h.words) h.winList (8 * h.windows) ∧
      clear h.code (4 * h.words) h.patList (8 * h.patches) ∧ clear h.winList (8 * h.windows) h.patList (8 * h.patches) then
    some h
  else none

/-- Reads a role entry of eight words; none when it breaks R15 or R58. -/
def roleOf (ws code : List Word) : Option Role :=
  let w (i : Nat) : Word := ws.getD i 0
  let fl : BitVec 8 := fld (w 1) 24 8
  let r : Role :=
    { entry := (w 0).toNat, allot := (fld (w 1) 0 8).toNat, flights := (fld (w 1) 8 8).toNat, priority := (fld (w 1) 16 8).toNat,
      handler := fl.getLsbD 0, spawnable := fl.getLsbD 1, traps := fl.getLsbD 2, privWords := (w 2).toNat }
  if (ws.drop 3).all (fun x => decide (x = 0)) = true ∧ fl.toNat < 8 ∧ r.entry < code.length ∧
      (fld (code.getD r.entry 0) 28 4).toNat = 15 ∧ 8 ≤ r.allot ∧ r.allot ≤ 128 ∧ r.allot % 8 = 0 ∧ r.flights ≤ 64 ∧
      r.priority ≤ 3 ∧ r.privWords ≤ 65536 ∧ !(r.handler && r.spawnable) ∧ (r.traps = true → r.handler = true) ∧
      ((r.handler || r.spawnable) = true → r.flights = 0) then
    some r
  else none

/-- Reads a window entry of two words; none when it breaks R59. -/
def windowOf (w0 w1 : Word) : Option Window :=
  let w : Window := { num := (fld w0 0 8).toNat, ring := bit w0 8, size := w1.toNat }
  if zf w0 9 23 = true ∧ w.num ≤ 15 ∧ (w.ring = true → 12 ≤ w.num) ∧ 128 ≤ w.size ∧ w.size ≤ 131072 ∧ w.size % 128 = 0 then some w
  else none

/-- Functions of the immediate instructions whose X word holds data (R60): IADD32I, FADDI, FMULI, MOV32I, UMOV32I. -/
def dataX : List Nat := [0x21, 0x40 + 0x25, 0x40 + 0x26, 0x140 + 0x20, 0x140 + 0x21]

/-- Classes and functions of the one-word instructions of format I (R52, R60). -/
def formatI : List Nat :=
  [0x15, 0x16, 0x17, 0x18, 0x19, 0x1A, 0x1B, 0x106, 0x107, 0x108, 0x141, 0x142, 0x143, 0x14A, 0x240, 0x244, 0x245,
   0x2C0, 0x2C1, 0x2C2, 0x2C3, 0x2C4, 0x2C5, 0x301, 0x302, 0x303]

/-- Reads a patch entry of two words as kind, word and parameter offset; none when it breaks R60. -/
def patchOf (w0 w1 : Word) (pbytes : Nat) (code : List Word) : Option (Nat × Nat × Nat) :=
  let kind := (fld w0 30 2).toNat
  let at_ := (fld w0 0 24).toNat
  let po := w1.toNat
  let opAt (i : Nat) : Nat := (fld (code.getD i 0) 22 10).toNat
  if zf w0 24 6 = false ∨ 2 ^ 16 ≤ po ∨ code.length ≤ at_ then none
  else if kind = 0 ∧ 1 ≤ at_ ∧ opAt (at_ - 1) ∈ dataX ∧ po % 4 = 0 ∧ po + 4 ≤ pbytes then some (0, at_, po)
  else if kind = 1 ∧ opAt at_ ∈ formatI ∧ po < pbytes then some (1, at_, po)
  else none

/-- The entries of a list taken k words at a time. -/
def entries (k : Nat) (ws : List Word) (n : Nat) : List (List Word) := (List.range n).map (fun i => (ws.drop (k * i)).take k)

/-- All results, or none when one is missing. -/
def allSome {α : Type} (xs : List (Option α)) : Option (List α) :=
  xs.foldr (fun x acc => match x, acc with
    | some a, some as => some (a :: as)
    | _, _ => none) (some [])

/-- No number occurs twice. -/
def noRepeat (ns : List Nat) : Bool := decide (ns.eraseDups.length = ns.length)

/-- What an image gives a launch. -/
structure Image where
  hdr     : ImageHdr
  roles   : List Role
  windows : List Window
  patches : List (Nat × Nat × Nat)
  code    : List Word
deriving DecidableEq, Repr

/-- Reads an image through a context; none when it breaks R57 to R60 (R62). -/
def State.readImage (s : State) (ctx va : Nat) : Option Image × State :=
  if va % 256 ≠ 0 then (none, s)
  else
    match s.ctxRead ctx va 16 with
    | (none, s1) => (none, s1)
    | (some ws, s1) =>
      match imageHdr ws with
      | none => (none, s1)
      | some h =>
        let rr := s1.ctxRead ctx (va + 64) 32
        let wr := rr.2.ctxRead ctx (va + h.winList) (2 * h.windows)
        let pr := wr.2.ctxRead ctx (va + h.patList) (2 * h.patches)
        let cr := pr.2.ctxRead ctx (va + h.code) h.words
        match rr.1, wr.1, pr.1, cr.1 with
        | some rw, some ww, some pw, some code =>
          let roles := allSome ((entries 8 rw h.roles).map (fun e => roleOf e code))
          let wins := allSome ((entries 2 ww h.windows).map (fun e => windowOf (e.getD 0 0) (e.getD 1 0)))
          let pats := allSome ((entries 2 pw h.patches).map (fun e => patchOf (e.getD 0 0) (e.getD 1 0) h.pbytes code))
          match roles, wins, pats with
          | some rs, some wn, some ps =>
            if (rw.drop (8 * h.roles)).all (fun x => decide (x = 0)) && decide ((rs.filter (fun r => r.handler)).length ≤ 1) &&
                noRepeat (wn.map (fun w => w.num)) && noRepeat (ps.map (fun p => p.2.1)) then
              (some { hdr := h, roles := rs, windows := wn, patches := ps, code := code }, cr.2)
            else (none, cr.2)
          | _, _, _ => (none, cr.2)
        | _, _, _, _ => (none, cr.2)

/-- The code with the patched words of a launch (R61). -/
def patchCode (code : List Word) (patches : List (Nat × Nat × Nat)) (params : List Word) : List Word :=
  patches.foldl (fun c p =>
    let v := params.getD (p.2.2 / 4) 0
    let old := c.getD p.2.1 0
    c.set p.2.1 (if p.1 = 0 then v
      else (old &&& 0xFFFFFF00) ||| ((v >>> (8 * (p.2.2 % 4))) &&& 0xFF))) code

/-! Room (R16 to R18, R192). -/

/-- The bytes that a window takes, and the alignment it needs (R59, R192). -/
def Window.space (w : Window) : Nat := if w.ring then pow2Ceil w.size else w.size
def Window.align (w : Window) : Nat := if w.ring then pow2Ceil w.size else 128

/-- Puts a window before the first of smaller key. -/
def insWin (key : Window → Nat) (w : Window) : List Window → List Window
  | [] => [w]
  | x :: xs => if key x < key w then w :: x :: xs else x :: insWin key w xs

/-- The order in which windows are placed: rings by descending rounded size, then the plain ones by number (R17). -/
def placeOrder (ws : List Window) : List Window :=
  let byNum := ws.foldl (fun acc w => insWin (fun x => 16 - x.num) w acc) []
  (byNum.filter (fun w => w.ring)).foldl (fun acc w => insWin (fun x => x.space) w acc) [] ++ byNum.filter (fun w => !w.ring)

/-- The lowest offset of an aligned free stretch of a scratchpad, given the stretches taken as start and bytes. -/
def freeOffset (taken : List (Nat × Nat)) (n al : Nat) : Option Nat :=
  let ends := 0 :: taken.map (fun t => (t.1 + t.2 + al - 1) / al * al)
  (sortNat ends).find? (fun o => decide (o + n ≤ 131072) && taken.all (fun t => decide (o + n ≤ t.1) || decide (t.1 + t.2 ≤ o)))

/-- Places windows in a scratchpad: the offset of each by number; none when one does not fit (R17, R192). -/
def placeWindows (taken : List (Nat × Nat)) (ws : List Window) : Option (Tbl Nat) :=
  ((placeOrder ws).foldl (fun (acc : Option (Tbl Nat × List (Nat × Nat))) w =>
    match acc with
    | none => none
    | some a => (freeOffset a.2 w.space w.align).map (fun o => (Tbl.put a.1 w.num o, (o, w.space) :: a.2))) (some ([], taken))).map
    (fun a => a.1)

/-- The stretches of a core's scratchpad that resident launches hold. -/
def State.takenWindows (s : State) (core : Nat) : List (Nat × Nat) :=
  (s.resident core).flatMap (fun x => x.1.windows.filterMap (fun w => (Tbl.find x.2.wins w.num).map (fun o => (o, w.space))))

/-- Where a launch's workgroup finds its place on a core: the FLIGHT numbers of its resident flights with their roles, the
position reserved for the handler, and the windows. -/
structure Spot where
  flights : List (Nat × Nat)
  handler : Option Nat
  wins    : Tbl Nat
deriving DecidableEq, Repr

/-- The roles of the resident flights of a workgroup, in role order (R16). -/
def residentRoles (rs : List Role) : List (Nat × Role) :=
  ((List.range rs.length).zip rs).flatMap (fun r => List.replicate r.2.flights r)

/-- Finds the place of a workgroup (R16, R17): what is free, the minimum to keep for other launches, and the windows taken. One flight of
each spawnable role fits beside those of the others, all at once (log entry 50). -/
def findSpot (roles : List Role) (windows : List Window) (o : Occ) (keeps : List Nat) (taken : List (Nat × Nat)) : Option Spot :=
  let rs := residentRoles roles
  match o.placeAll (rs.map (fun r => r.2.allot)), placeWindows taken windows with
  | some (ps, o1), some wins =>
    let spawn := (roles.filter (fun r => r.spawnable)).map (fun r => r.allot)
    let done (h : Option Nat) (o2 : Occ) : Option Spot :=
      if (o2.placeAll (spawn ++ keeps)).isSome then
        some { flights := ps.zip (rs.map (fun r => r.1)), handler := h, wins := wins }
      else none
    match roles.find? (fun r => r.handler) with
    | none => done none o1
    | some r => match o1.place r.allot with
      | none => none
      | some (p, o2) => done (some p) o2
  | _, _ => none

/-- The place of a launch's workgroup on a core as it is occupied now (R17). -/
def State.spotOn (s : State) (la : Launch) (core : Nat) : Option Spot :=
  findSpot la.roles la.windows (s.occ core) (s.spawnMinimum core) (s.takenWindows core)

/-- The places on all cores of a launch. -/
def State.spots (s : State) (la : Launch) : Option (List Spot) := allSome (la.wgs.map (fun w => s.spotOn la w.core))

/-! The checks of a LAUNCH packet (R315, R316). -/

/-- The cores of a mask, ascending. -/
def coresOf (m : BitVec 128) : List Nat := (List.range 128).filter (fun c => m.getLsbD c)

/-- Whether a set of cores divides into aligned gangs of a size (R12). Several gangs of size 1 or 2 in one hall are accepted, one for each
aligned block (log entry 49). -/
def gangsOk (m : BitVec 128) (g : Nat) : Bool :=
  (decide (g = 1) || decide (g = 2) || decide (g = 4)) && decide (m ≠ 0) &&
    (coresOf m).all (fun c => (List.range g).all (fun i => m.getLsbD (c / g * g + i)))

/-- The context slots of a LAUNCH body (R315). -/
def bodyCtxs (b : LaunchBody) : List (Option Nat) :=
  (List.range 4).map (fun i => let x := (b.ctxs.extractLsb' (8 * i) 8).toNat; if x = 255 then none else some x)

/-- Whether the dispenser fields keep R23. -/
def dispenserOk (b : LaunchBody) : Bool :=
  let ext (v : Word) : Bool := decide (1 ≤ v.toNat) && decide (v.toNat ≤ 2 ^ 24)
  decide (1 ≤ b.chunk.toNat) && decide (b.chunk.toNat ≤ 2 ^ 16) &&
    (if b.flags.getLsbD 1 then true
     else ext b.x && ext b.y && ext b.z && decide (b.x.toNat * b.y.toNat * b.z.toNat < 2 ^ 32) && decide (b.groups = 0))

/-- Whether a core lies in a reserve hall (R28). -/
def State.inReserve (s : State) (core : Nat) : Bool := s.reflex.halls.getLsbD (core / 4)

/-- The dispenser of a launch as its body gives it; a group table is read at the start (R23, R277). -/
def bodyDispenser (b : LaunchBody) : Dispenser :=
  { grouped := b.flags.getLsbD 1, x := b.x.toNat, y := b.y.toNat, z := b.z.toNat, chunk := b.chunk.toNat, groups := [], group := 0,
    cursor := 0 }

/-- A workgroup that has not started. -/
def newWg (core wgid gang : Nat) : Workgroup :=
  { core := core, wgid := wgid, gang := gang, retired := false, saved := false, wins := [], fmask := 0, held := [], running := false,
    dlPending := false, handlerPos := none, spec := none }

/-- The workgroups of a launch: WGID in ascending core, gangs in ascending lowest core (R14). -/
def bodyWgs (b : LaunchBody) : List Workgroup :=
  let cs := coresOf b.cores
  let g := b.gang.toNat
  let blocks := (cs.map (fun c => c / g)).eraseDups
  ((List.range cs.length).zip cs).map (fun e => newWg e.2 e.1 (blocks.findIdx (fun x => decide (x = e.2 / g))))

/-- A launch as its packet and image give it, before it starts (R13). -/
def bodyLaunch (word : Word) (q : Nat) (b : LaunchBody) (m : Image) : Launch :=
  { word := word, queue := q, cls := if q = 0 then 0 else b.cls.toNat, gang := b.gang.toNat,
    irq := if b.flags.getLsbD 2 then some b.vector.toNat else none, ctxs := bodyCtxs b, record := b.record.toNat,
    codeBase := b.image.toNat + m.hdr.code, code := m.code, roles := m.roles, windows := m.windows, seed := b.seed,
    deadline := b.deadline.toNat, disp := bodyDispenser b,
    best := { offers := [], latched := none, stale := false, gen := 0 },
    scopes := [(0, { parent := 0, anytime := b.flags.getLsbD 0, cancelled := false, head := none, nodes := [], lost := [] })],
    cancels := [], dlWrites := [], wgs := bodyWgs b, ended := [], fault := 0, lost := 0, overrun := false, start := 0 }

/-- Why a launch is refused before its image is read, as the reason of R316; 0 when it is not (R12, R24, R28, R30, R315). -/
def State.bodyReason (s : State) (q : Nat) (b : LaunchBody) : Nat :=
  let cs := bodyCtxs b
  if cs.any (fun c => c.any (fun x => !(s.ctx x).valid)) || !gangsOk b.cores b.gang.toNat || !dispenserOk b || b.rsv ||
      decide (8 ≤ b.flags.toNat) || (b.flags.getLsbD 2 && decide (31 < b.vector.toNat)) || decide (3 < b.cls.toNat) ||
      decide (b.param.toNat % 4 ≠ 0) then 4
  else if q ≠ 0 ∧ b.cls = 0 then 3
  else if q = 0 ∧ ((coresOf b.cores).any (fun c => !s.inReserve c) ∨
      cs.any (fun c => c.any (fun x => !s.reflex.contexts.getLsbD x))) then 3
  else 0

/-- A refusal, or the launch that waits for its start (R17, R54, R62). The words of the code region are those that stand in memory now, and a
later change of them is not seen by this launch (log entry 68). -/
def State.judge (s : State) (word : Word) (q : Nat) (fence : BitVec 3) (b : LaunchBody) : Except Nat Waiting × State :=
  let r := s.bodyReason q b
  if r ≠ 0 then (.error r, s)
  else if s.accepted.getLsbD 0 = false then (.error 5, s)
  else
    match s.readImage (((bodyCtxs b).headD none).getD 0) b.image.toNat with
    | (none, s1) => (.error 2, s1)
    | (some m, s1) =>
      if m.hdr.gang ≠ 0 ∧ m.hdr.gang ≠ b.gang.toNat then (.error 2, s1)
      else if m.hdr.features &&& ~~~s.accepted ≠ 0 then (.error 5, s1)
      else if (findSpot m.roles m.windows Occ.empty [] []).isNone then (.error 1, s1)
      else
        (.ok { launch := bodyLaunch word q b m, patches := m.patches, param := b.param.toNat, pbytes := m.hdr.pbytes,
               groups := b.groups.toNat, fence := fence, since := s1.time }, s1)

/-! Completion records (R316). -/

/-- The words of a completion record. -/
def recordWords (reason fault status : Nat) (la : Word) (fmask : Word) (overrun : Bool) (lost start stop : Nat) : List Word :=
  [BitVec.ofNat 32 (reason * 65536 + fault * 256 + status), la, fmask, BitVec.ofNat 32 overrun.toNat, BitVec.ofNat 32 lost, 0,
   loWord start, hiWord start, loWord stop, hiWord stop, 0, 0, 0, 0, 0, 0]

/-- Raises an MSI-X vector. -/
def State.raise (s : State) (v : Option Nat) : State :=
  match v with
  | none => s
  | some n => { s with irqs := s.irqs ++ [n] }

/-- Writes a record through a context and raises the vector; a record whose page is gone by then is not written. -/
def State.putRecord (s : State) (ctx va : Nat) (ws : List Word) (irq : Option Nat) : State :=
  ((s.ctxWrite ctx va ws).getD s).raise irq

/-- Whether the completion record of a LAUNCH can be written (R310, code 7). -/
def State.recordOk (s : State) (b : LaunchBody) : Bool :=
  match (bodyCtxs b).headD none with
  | none => false
  | some c => (s.ctx c).valid && decide (b.record.toNat % 64 = 0) && (s.ctxSpans c b.record.toNat 64 .write).1.isSome

/-- Refuses a launch with a reason (R316). -/
def State.refuseLaunch (s : State) (word : Word) (ctx record : Nat) (irq : Option Nat) (reason : Nat) : State :=
  s.putRecord ctx record (recordWords reason 0 1 word 0 false 0 0 s.time) irq

/-! The start of a launch (R13, R16, R18, R61, R192). -/

/-- The lengths of a group table; none when it breaks R277. -/
def State.readGroups (s : State) (ctx va : Nat) : Option (List Nat) × State :=
  match s.ctxRead ctx va 2 with
  | (some [g, z], s1) =>
    if z ≠ 0 ∨ 2 ^ 20 < g.toNat then (none, s1)
    else
      match s1.ctxRead ctx (va + 8) g.toNat with
      | (none, s2) => (none, s2)
      | (some ws, s2) =>
        let ns := ws.map (fun w => w.toNat)
        if ns.all (fun n => decide (n ≤ 2 ^ 24)) && decide (ns.foldl (fun a n => a + n) 0 < 2 ^ 32) then (some ns, s2) else (none, s2)
  | (_, s1) => (none, s1)

/-- The launch with its parameters and group table read; a reason when it must be refused after all (R61, R277, R315). -/
def State.prepare (s : State) (w : Waiting) : Except Nat Launch × State :=
  let la := w.launch
  if la.ctxs.any (fun c => c.any (fun x => !(s.ctx x).valid)) then (.error 4, s)
  else
    match s.ctxRead la.ctx0 w.param (w.pbytes / 4) with
    | (none, s1) => (.error 2, s1)
    | (some ps, s1) =>
      let la1 := { la with code := patchCode la.code w.patches ps, start := s1.time }
      if la.disp.grouped then
        match s1.readGroups la.ctx0 w.groups with
        | (none, s2) => (.error 4, s2)
        | (some ns, s2) => (.ok { la1 with disp := { la.disp with groups := ns } }, s2)
      else (.ok la1, s1)

/-- Clears the windows of a workgroup in a scratchpad (R192). -/
def clearWindows (c : Cells 8) (windows : List Window) (wins : Tbl Nat) : Cells 8 :=
  windows.foldl (fun c w => match Tbl.find wins w.num with
    | none => c
    | some o => Cells.keep c (fun a => decide (a < o) || decide (o + w.space ≤ a))) c

/-- Starts the workgroup of a launch on its core: windows cleared, descriptors dropped, resident flights started (R16, R192,
R257). -/
def State.startWg (s : State) (la : Launch) (core : Nat) (sp : Spot) : State :=
  let s1 := { s.setScr core (clearWindows (s.scr core) la.windows sp.wins) with
    descs := s.descs.filter (fun d => decide (d.core ≠ core) || !la.ctxs.contains (some d.ctx)) }
  sp.flights.foldl (fun s x =>
    match la.roles[x.2]? with
    | none => s
    | some r => s.startFlight (64 * core + x.1) (newFlight la .resident x.2 r s.flightSeq (BitVec.allOnes 32))) s1

/-- Starts a launch in the places found for its workgroups. -/
def State.startLaunch (s : State) (la : Launch) (fence : BitVec 3) (sps : List Spot) : State :=
  let wgs := (la.wgs.zip sps).map (fun (e : Workgroup × Spot) => { e.1 with wins := e.2.wins, handlerPos := e.2.handler })
  let la1 := { la with wgs := wgs, start := s.time }
  let s1 := { s with launches := Tbl.put s.launches la.word.toNat la1 }
  let s2 := if fence.getLsbD 0 then la.wgs.foldl (fun s w => s.acquire w.core) s1 else s1
  ((la.wgs.zip sps).foldl (fun s e => s.startWg la1 e.1.core e.2) s2).tidyLaunch la.word

/-! Completion (R22, R316). -/

/-- Whether every gang of a launch has retired and every engine command that it issued has completed (R22). A cancelled command counts
once it has come to its turn and left its queue (log entry 53). -/
def State.launchDone (s : State) (la : Launch) : Bool :=
  la.wgs.all (fun w => w.retired) && la.cancels.isEmpty &&
    s.ctxs.all (fun e => e.2.cmds.all (fun c => decide (c.launch ≠ some la.word)))

/-- Writes back every dirty word that the cores of a launch hold for its contexts (R189, R312). -/
def State.writeBackLaunch (s : State) (la : Launch) (cores : List Nat) : State :=
  s.writeBack (fun b => if cores.contains b.core ∧ la.ctxs.contains (some b.asid) then BitVec.allOnes 32 else 0)

/-- The fence bits of a running LAUNCH packet (R312). -/
def State.launchFence (s : State) (la : Launch) : BitVec 3 :=
  match (s.queue la.queue).active.find? (fun a => decide (a.cond = .launch la.word)) with
  | some a => (match a.pkt with
    | .launchPkt h _ => h.fence
    | _ => 0)
  | none => 0

/-- A launch completes: its record is written with a release store, then its vector is raised (R22, R316). -/
def execLaunchCompletion (launch : Word) (s : State) : Outcome State :=
  match Tbl.find s.launches launch.toNat with
  | none => .next s
  | some la =>
    if s.launchDone la = false then .next s
    else
      let s1 := if (s.launchFence la).getLsbD 1 then s.writeBackLaunch la (la.wgs.map (fun w => w.core)) else s
      let fmask := la.wgs.foldl (fun m w => m ||| w.fmask) 0
      let s2 := { s1 with launches := Tbl.del s1.launches launch.toNat }
      endStep (s.unlessHeld (s2.putRecord la.ctx0 la.record
        (recordWords 0 la.fault (if la.ended = [] then 0 else 2) la.word fmask la.overrun la.lost la.start s.time) la.irq))

end Sys2Proof.Machine
end

