-- ==== Sys2Proof/Machine/Context.lean ====
section
/-! DEFINITION. The layout of a flight record (R339) and of a context image (R338), pre-emption and resumption of gangs (R101, R142, R162, R205, R253, R338 to
R342), the start of waiting launches (R18), and the reflex reserve (R28 to R31). -/

namespace Sys2Proof.Machine

/-! The layout of a flight record (R339) and of an image (R338), for the words whose place the manual gives. State holds an image as data,
which resumption reads, and the save writes the words that it stands for to device memory (log entry 13). -/

/-- A reference to a stack entry as seven bits; 127 is none (R94). -/
def refBits (r : Option Nat) : Nat := r.getD 127

/-- The code of a kind of stack entry (R94). -/
def EntKind.code : EntKind → Nat
  | .path => 0
  | .join => 1
  | .wait => 2
  | .frame => 3

/-- The four words of a divergence stack entry (R94). -/
def StackEnt.words (e : StackEnt) : List Word := [e.pc, e.mask, BitVec.ofNat 32 (e.kind.code * 2 ^ 30 + refBits e.ref), 0]

/-- Whether a slot waits in GROW. -/
def Slot.inGrow (x : Slot) : Bool :=
  match x.wait with
  | .grow _ _ _ => true
  | _ => false

/-- The four words of a slot of a flight record (R339). A trapped slot is not live there (R357). -/
def Flight.slotWords (f : Flight) (b : Bool) : List Word :=
  let x := f.slot b
  let last := ((f.pending.filter (fun p => decide (p.slotB = b))).getLast?.map (fun p => p.window)).getD 0
  [x.pc, x.mask, BitVec.ofNat 32 (refBits x.ref),
   BitVec.ofNat 32 ((decide (x.mask ≠ 0) && decide (x.trapped = 0)).toNat + 2 * (decide (x.join = .waiting)).toNat + 4 * (decide (x.park ≠ 0)).toNat +
     8 * (decide (x.trapped ≠ 0)).toNat + 16 * x.inGrow.toNat + 256 * last)]

/-- The flight word of a record: role, allotment, stack depth, position and partition (R339). -/
def Flight.recordHead (f : Flight) (fl : Nat) : Word :=
  BitVec.ofNat 32 (f.role * 2 ^ 24 + f.allot * 2 ^ 16 + f.stack.length * 2 ^ 9 + fl % 16 * 2 ^ 5 + fl / 16 % 4 * 2 ^ 3)

/-- The predicates of a lane as one word, predicate n in bit n, pt among them (R339). -/
def Flight.laneBits (f : Flight) (l : Nat) : Word :=
  (List.range 15).foldl (fun v n => if (Cells.get f.preds n).getLsbD l then v ||| BitVec.twoPow 32 n else v) 0x8000

/-- The kind with which a pending instruction is recorded (R340); 0 for one that is recorded as waiting (R341), and for an arrival at a forming
expansion, which stands in the expansion's state (R162). -/
def Pending.kind (p : Pending) : Nat :=
  match p.act, p.instr with
  | .load _ _ _ _, _ => 2
  | .bad _ _ _ _ _, _ => 2
  | .reading _ _, _ => 2
  | .again (.product _ _) _, _ => 3
  | .again _ _, _ => 2
  | .trapped (.product _ _), _ => 3
  | .trapped _, _ => 2
  | .fwait _ _ _ _, _ => 0
  | .atrPop _ _ _ _ _ _, _ => 0
  | .commands _ _ _ _ _, _ => 0
  | .expand _, _ => 0
  | _, .enext .. => 4
  | _, .segred .. => 4
  | _, _ => 1

/-- The kinds of the entries in the record of a flight, in their order (R339, R340). -/
def Flight.entryKinds (f : Flight) : List Nat := ((f.pending.filter (fun p => !p.done)).map Pending.kind).filter (fun k => decide (k ≠ 0))

/-- The word at a byte offset of the record of a flight (R339), rank being its start among the flights of its core; none for the
words of pending entries whose place the manual does not give, and beyond the record. The other bits of the word that holds the kind of
an entry are written as zero here (log entry 13). -/
def Flight.recordWord (f : Flight) (fl rank o : Nat) : Option Word :=
  let i := o / 4
  if o < 0x10 then (f.slotWords false)[i]?
  else if o < 0x20 then (f.slotWords true)[i - 4]?
  else if o < 0x24 then some (f.recordHead fl)
  else if o < 0x28 then some (BitVec.ofNat 32 rank)
  else if o < 0x38 then [f.fmask, f.fpstat, f.seed.setWidth 32, (f.seed >>> 32).setWidth 32][i - 10]?
  else if o < 0x40 then [f.a.park ||| f.a.trapped, f.b.park ||| f.b.trapped][i - 14]?
  else if o < 0xC0 then some (Cells.get f.own (i - 16))
  else if o < 0x140 then some (Cells.get f.iter (i - 48))
  else if o < 0x1C0 then some (Cells.get f.scope (i - 80))
  else if o < 0x240 then some (Cells.get f.astat (i - 112))
  else if o < 0x2C0 then some (Cells.get f.idle (i - 144))
  else if o < 0x340 then some (f.laneBits (i - 176))
  else if o < 0x43C then some (Cells.get f.unif (i - 208))
  else if o < 0x440 then some 0
  else if o < 0x640 then
    if (o - 0x440) % 32 < 4 then some (BitVec.ofNat 32 (f.entryKinds.getD ((o - 0x440) / 32) 0)) else none
  else if o < 0xA40 then some ((f.stack.flatMap StackEnt.words).getD (i - 400) 0)
  else if o < 0xA40 + 128 * f.allot then some (Cells.get f.gpr (i - 656))
  else none

/-- The word at a byte offset of the record of a flight in a context image (R338, R339). -/
def SavedMember.recordWord (m : SavedMember) (fl o : Nat) : Option Word :=
  (Tbl.find m.flights fl).bind (fun f =>
    f.recordWord fl ((m.flights.filter (fun e => decide (e.2.order < f.order))).length) o)

/-- The sections of a context image (R338): the header, and for each member those of its core. -/
inductive ImageSection where
  | header | core | flight (allot : Nat) | expansions | barriers | copies | tasks | atria | held | scratch (bytes : Nat)
deriving DecidableEq, Repr

/-- The bytes of a section (R338, R339): 48 barriers of 16 bytes with a membership bit for each of the 64 × 32 threads of a core; the manual gives
none for the expansion state, which the model keeps below 1 MiB (log entry 13). -/
def ImageSection.bytes : ImageSection → Nat
  | .header => 256
  | .core => 256
  | .flight a => 0xA40 + 128 * a
  | .expansions => Config.expansionBytes % 2 ^ 20
  | .barriers => 48 * 16 + 48 * (64 * 32 / 8)
  | .copies => 64 * 64
  | .tasks => 1024 * 8
  | .atria => 4 * 72 * 1024
  | .held => 129 * 16
  | .scratch n => n

/-- What a core header holds, in the order of R338: the flight count, for each partition its free registers and the numbers of the
expansion slots in use as a mask, and the count of held handler events. -/
def SavedMember.header (m : SavedMember) : List Word :=
  let used (p : Nat) : Nat := (m.expans.filter (fun e => decide (e.1 / 4 = p))).foldl (fun v e => v + 2 ^ (e.1 % 4)) 0
  [BitVec.ofNat 32 m.flights.length] ++
    (List.range 4).flatMap (fun p => [BitVec.ofNat 32 (m.free.getD p 0), BitVec.ofNat 32 (used p)]) ++ [BitVec.ofNat 32 m.held.length]

/-- The sections of one member, in the order of R338, each with its words by their byte offset, where the manual gives them (log entry 13). -/
def SavedMember.contents (m : SavedMember) : List (ImageSection × (Nat → Option Word)) :=
  [(.core, fun o => m.header[o / 4]?)] ++ m.flights.map (fun e => (.flight e.2.allot, m.recordWord e.1)) ++
    [.expansions, .barriers, .copies, .tasks, .atria, .held].map (fun (k : ImageSection) => (k, fun _ => none)) ++
    m.windows.map (fun e => (.scratch e.2.1, fun o => some (wordAt e.2.2 o)))

/-- The sections of one member, in the order of R338. -/
def SavedMember.sections (m : SavedMember) : List ImageSection := m.contents.map (fun e => e.1)

/-- The sections of an image, the members in ascending CORE (R338). -/
def SavedGang.sections (g : SavedGang) : List ImageSection := .header :: g.members.flatMap SavedMember.sections

/-- Where sections start, each on a 256-byte boundary (R338). -/
def sectionStarts : Nat → List ImageSection → List Nat
  | _, [] => []
  | o, x :: xs => o :: sectionStarts ((o + x.bytes + 255) / 256 * 256) xs

/-- The byte offsets of the core sections of an image (R338). -/
def SavedGang.coreOffsets (g : SavedGang) : List Nat :=
  ((g.sections.zip (sectionStarts 0 g.sections)).filter (fun e => decide (e.1 = .core))).map (fun e => e.2)

/-- What the header of an image holds, in the order of R338: magic, version, gang size, LAUNCH, the members' CORE values, the global time of the
halt, and the offsets of the core sections. -/
def SavedGang.header (g : SavedGang) (size : Nat) : List Word :=
  [0x49584354, 1, BitVec.ofNat 32 size, g.launch] ++ g.members.map (fun m => BitVec.ofNat 32 m.core) ++ [loWord g.time, hiWord g.time] ++
    g.coreOffsets.map (BitVec.ofNat 32)

/-- The words of an image with their byte offsets, the header first (R338); none for a word that the manual does not give (log entry 13). -/
def SavedGang.words (g : SavedGang) (size : Nat) : List (Nat × Option Word) :=
  let xs : List (ImageSection × (Nat → Option Word)) := (.header, fun o => (g.header size)[o / 4]?) :: g.members.flatMap SavedMember.contents
  (xs.zip (sectionStarts 0 g.sections)).flatMap (fun e =>
    (List.range (e.1.1.bytes / 4)).map (fun i => (e.2 + 4 * i, e.1.2 (4 * i))))

/-- The bytes from the start of an image to its end, up to a 256-byte boundary. -/
def SavedGang.extent (g : SavedGang) : Nat :=
  ((g.sections.zip (sectionStarts 0 g.sections)).map (fun e => (e.2 + e.1.bytes + 255) / 256 * 256)).foldl max 0

/-- Where firmware places an image of some bytes, in the LPDDR-6 range on a 256-byte boundary: a free value (R338, log entry 13). -/
def imageBase (extent n : Nat) : Nat :=
  let room := (Config.lpddrBytes - extent) / 256
  256 * (room - Config.imagePlace n % (room + 1))

/-- Firmware writes an image to device memory that it maps into no engine context (R338): its given words, and free values in its other
bytes (log entry 13). -/
def State.writeImage (s : State) (g : SavedGang) (size : Nat) : State :=
  let d := s.draw
  let base := imageBase g.extent d.1
  let leaves := s.leaves
  let mine (o : Nat) : Bool := decide (o < g.extent) && decide (base + o < Config.lpddrBytes) && !leaves.any (fun e => e.holds (base + o))
  let rest := (Config.imageRest d.1).foldl (fun m x => if mine x.1 then Cells.set m (base + x.1) x.2 else m)
    (Cells.keep s.mem (fun a => decide (a < base) || !mine (a - base)))
  { d.2 with mem := (g.words size).foldl (fun m x => match x.2 with
      | some w => if mine x.1 then putValue m (base + x.1) 4 w.toNat else m
      | none => m) rest }

/-! Saving a gang. -/

/-- Completes the pending instructions of a flight that pass a test and can complete at once: their results are ready, or they are
loads. -/
def State.flush (s : State) (key : Nat) (q : Pending → Bool) : State :=
  match s.flight key with
  | none => s
  | some f =>
    (f.pending.filter (fun p => !p.done && q p)).foldl (fun s p =>
      match p.act with
      | .write g pw flags => s.complete key p.seq ⟨g, pw, flags, []⟩
      | .reading g _ => s.complete key p.seq ⟨g, [], 0, []⟩
      | .product g idle _ => s.complete key p.seq ⟨g, [], 0, idle⟩
      | .load d wd ord lanes =>
        match s.flight key, Tbl.find s.launches f.launch.toNat with
        | some f, some la => s.endLoad key f la p d wd ord lanes
        | _, _ => s
      | .finished => s.complete key p.seq ⟨[], [], 0, []⟩
      | _ => s) s

/-- Whether a pending matrix instruction is abandoned at a halt, one that has not finished fetching its operands, is an entry of the choices
tape: such an instruction is replayed whole from what it read at issue (R142, log entry 26). -/
def Pending.abandon (p : Pending) (s : State) : Pending × State :=
  match p.act with
  | .product _ _ (some a) =>
    if p.done then (p, s) else let c := s.choose; (if c.1 then { p with act := .again a 0 } else p, c.2)
  | _ => (p, s)

/-- Abandons matrix instructions of a flight, which its partition's matrix unit still works on (R139, R142). -/
def State.abandon (s : State) (key : Nat) : State :=
  match s.flight key with
  | none => s
  | some f =>
    if (Tbl.find s.matBusy (4 * keyCore key + keyPart key)).getD 0 ≤ s.cycle then s
    else
    let r := thread (fun (p : Pending) s => p.abandon s) f.pending s
    r.2.modFlight key (fun f => { f with pending := r.1 })

/-- What completes before a core halts: matrix instructions whose compute has started write their rows (R142), stores end (R340),
and the results of what has left the core are filled in. -/
def State.haltFlight (s : State) (key : Nat) : State := (s.abandon key).flush key (fun p => decide (p.kind = 1))

/-- Aborts the open regions of a slot's lanes with cause 7: the lanes go to their handler PCs (R249, R250, R253). -/
def State.abortOpen (s0 : State) (key : Nat) (slotB : Bool) : State :=
  match s0.flight key with
  | none => s0
  | some f0 =>
    if ((lanesOf (f0.slot slotB).mask).filter (fun l => f0.inRegion l)).isEmpty then s0
    else
      let s := s0.flush key (fun p => decide (p.slotB = slotB))
      match s.flight key, Tbl.find s.launches f0.launch.toNat with
      | some f, some la =>
        let ls := (lanesOf (f.slot slotB).mask).filter (fun l => f.inRegion l)
        let groups := groupLanes (ls.map (fun l => (l, ((Tbl.find f.regions l).map (fun r => r.handler)).getD 0)))
        let f1 := (ls.foldl (fun f l => f.abortRegion ⟨l, 7, 0⟩) f).closeWindows slotB
        let s1 := ls.foldl (fun s l => s.unreserve key l) s
        match f1.placeAborted slotB groups with
        | some f2 => s1.putFlight key f2.settle
        | none =>
          let ds := ls.map (plainFault .divstack)
          ((s1.putFlight key f1).records key f slotB la.ctx0 (f.slot slotB).pc ds).deliver key slotB la (f.slot slotB).pc false false 0 0 ds
      | _, _ => s

/-- The lanes of a stack entry that have an open region. -/
def Flight.openIn (f : Flight) (t : StackEnt) : List Nat :=
  if t.kind = .path ∨ t.kind = .wait then (lanesOf t.mask).filter (fun l => f.inRegion l) else []

/-- What stands in place of a stack entry whose lanes with an open region go to their handler PCs: the entry with its other lanes, then a
PATH for each handler PC, with the entry's reference (R250, log entry 61). -/
def Flight.openSplit (f : Flight) (t : StackEnt) : List StackEnt :=
  let ls := f.openIn t
  let rest := t.mask &&& ~~~(maskOf ls)
  let groups := groupLanes (ls.map (fun l => (l, ((Tbl.find f.regions l).map (fun r => r.handler)).getD 0)))
  if ls = [] then [t]
  else (if rest = 0 then [] else [{ t with mask := rest }]) ++ groups.map (fun g => { kind := .path, pc := g.1, mask := g.2, ref := t.ref })

/-- A flight whose lanes on the stack with open regions go to their handler PCs, the entries numbered anew; none when the stack cannot
take them. -/
def Flight.restack (f : Flight) : Option Flight :=
  let stack := f.stack.flatMap f.openSplit
  let moved (r : Option Nat) : Option Nat := r.map (fun e => ((f.stack.take e).flatMap f.openSplit).length)
  if 64 < stack.length then none
  else some { f with a := { f.a with ref := moved f.a.ref }, b := { f.b with ref := moved f.b.ref },
                     stack := stack.map (fun (t : StackEnt) => { t with ref := moved t.ref }) }

/-- Aborts the open regions of the lanes on a flight's stack with cause 7 (R253). Where the stack cannot take their PATH entries,
DIVSTACK ends the gang, since no slot holds these lanes (log entry 61). -/
def State.abortHeld (s : State) (key : Nat) : State :=
  match s.flight key with
  | none => s
  | some f =>
    let ls := f.stack.flatMap f.openIn
    if ls = [] then s
    else
      let close (f : Flight) : Flight := ls.foldl (fun f l => f.abortRegion ⟨l, 7, 0⟩) f
      let s1 := ls.foldl (fun s l => s.unreserve key l) s
      match f.restack with
      | some g => s1.putFlight key (close g).settle
      | none =>
        match Tbl.find s.launches f.launch.toNat with
        | none => s1.putFlight key (close f)
        | some la =>
          ((s1.putFlight key (close f)).records key f false la.ctx0 f.a.pc (ls.map (plainFault .divstack))).endGang f.launch
            (((la.wgAt (keyCore key)).map (fun w => w.gang)).getD 0) .divstack

/-- The bytes that a listed copy has landed are taken back from the count of its landing word, as far as its generation still counts
them (R205). Landings that an earlier generation has counted are not counted again. -/
def State.takeBack (s : State) (core : Nat) (c : Copy) : State :=
  let sc := s.scr c.dstCore
  let gen := wordAt sc (c.land + 8)
  let live := (((Tbl.find s.launches c.launch.toNat).bind (fun la => la.wgAt c.dstCore)).map (fun g => !g.retired)).getD false
  let r := c.words.foldl (fun (acc : Nat × List CopyWord) w =>
    if w.landed && decide (w.counted = some gen) && decide (4 ≤ acc.1) then
      (acc.1 - 4, acc.2 ++ [{ w with landed := false, counted := none, val := none }])
    else (acc.1, acc.2 ++ [{ w with landed := false, val := none }])) ((wordAt sc (c.land + 4)).toNat, [])
  let s1 := { s with copies := Tbl.modify s.copies core (fun cs => cs.map (fun (x : Copy) => if x.id = c.id then { x with words := r.2 } else x)) }
  if live then s1.setScr c.dstCore (putWords sc (c.land + 4) [BitVec.ofNat 32 r.1]) else s1

/-- The expansion slots of a core that hold flights of a launch; a participant that has retired is none of those that stand in its position
now (R162). -/
def State.expansOf (s : State) (launch : Word) (core : Nat) : Tbl Expansion :=
  let mine (k : Nat) : Bool := ((s.flight (64 * core + k)).map (fun f => decide (f.launch = launch))).getD false
  s.expans.filter (fun e => decide (e.1 / 16 = core) &&
    ((e.2.arrivals.map (fun a => a.flight)) ++ ((e.2.flights.filter (fun x => !x.2.gone)).map (fun x => x.1))).any mine)

/-- A table with its numbers counted from a base. -/
def rebase {α : Type} (t : Tbl α) (base : Nat) : Tbl α := t.map (fun e => (e.1 - base, e.2))

/-- A table with a base added to its numbers. -/
def shiftUp {α : Type} (t : Tbl α) (base : Nat) : Tbl α := t.map (fun e => (e.1 + base, e.2))

/-- Lists all records of a table in another. -/
def putAll {α : Type} (t new : Tbl α) : Tbl α := new.foldl (fun t e => Tbl.put t e.1 e.2) t

/-- A flight as its record has it: its private blocks are written to its private memory (R189), and its slots, which are ready no longer,
have lost their ageing (R26). -/
def Flight.rested (f0 : Flight) : Flight :=
  let f := f0.savePriv
  { f with a := { f.a with aged := 0, old := false }, b := { f.b with aged := 0, old := false } }

/-- What the image of a gang holds of one member (R338). -/
def State.saveMember (s : State) (la : Launch) (w : Workgroup) : SavedMember :=
  let c := w.core
  let off (x : Window) : Nat := (Tbl.find w.wins x.num).getD 0
  { core := c, index := c % la.gang, wgid := w.wgid, free := (s.occ c).map (fun x => x.1)
    flights := (rebase (s.flights.filter (fun e => decide (e.1 / 64 = c) && decide (e.2.launch = la.word))) (64 * c)).map
      (fun (e : Nat × Flight) => (e.1, e.2.rested))
    barriers := rebase (s.barriers.filter (fun e => decide (e.1 / 64 = c) && decide (e.2.bound = some la.word))) (64 * c)
    expans := rebase (s.expansOf la.word c) (16 * c)
    copies := ((Tbl.find s.copies c).getD []).filter (fun x => decide (x.launch = la.word))
    tasks := ((Tbl.find s.tasks c).getD []).filter (fun x => decide (x.launch = la.word))
    atria := rebase (s.atria.filter (fun e => decide (e.1 / 4 = c) && decide (e.2.bound = some la.word))) (4 * c)
    held := w.held
    windows := la.windows.map (fun x =>
      (x.num, x.space, rebase ((s.scr c).filter (fun e => decide (off x ≤ e.1) && decide (e.1 < off x + x.space))) (off x))) }

/-- Takes a saved member off its core (R341). -/
def State.clearMember (s : State) (la : Launch) (w : Workgroup) : State :=
  let c := w.core
  let here (k : Nat) : Bool := decide (k / 64 = c) && ((s.flight k).map (fun f => decide (f.launch = la.word))).getD false
  let gone := s.expansOf la.word c
  let grow (e : Nat × List Cur) : Nat × List Cur := (e.1, e.2.filter (fun (x : Cur) => !here x.flight))
  let s1 := { s with
    flights := s.flights.filter (fun e => !here e.1)
    expans := s.expans.filter (fun e => !gone.any (fun x => decide (x.1 = e.1)))
    copies := Tbl.modify s.copies c (fun cs => cs.filter (fun x => decide (x.launch ≠ la.word)))
    growers := s.growers.map grow
    reserved := s.reserved.filter (fun r => !here r.flight)
    lastIssue := s.lastIssue.filter (fun e => !here e.2.flight) }
  (s1.clearWg la.word c).setScr c (clearWindows (s1.scr c) la.windows w.wins)

/-- Stopped threads of a cancellation that still waits for engine commands leave their galleries before the save (R322,
R330). -/
def State.leaveStopped (s : State) (la : Launch) (cores : List Nat) : State :=
  la.cancels.foldl (fun s c => (c.stopped.filter (fun x => cores.contains (x.1 / 64))).foldl (fun s x =>
    if ((s.flight x.1).map (fun f => decide (f.order = x.2.1))).getD false then s.leaveAll x.1 x.2.2 else s) s) s

/-- The members of a gang that run. -/
def Launch.runningGang (la : Launch) (gang : Nat) : List Workgroup :=
  la.wgs.filter (fun w => decide (w.gang = gang) && !w.retired && !w.saved)

/-- Pre-empts a gang: every member core halts, what has started ends, open regions abort, copies are cancelled, dirty words of the launch
are written back, and the image is written to device memory and kept (R142, R338, R341). -/
def State.preempt (s : State) (launch : Word) (gang : Nat) : State :=
  match Tbl.find s.launches launch.toNat with
  | none => s
  | some la0 =>
    let cores := (la0.runningGang gang).map (fun w => w.core)
    if cores.isEmpty then s
    else
      let keys := (s.flights.filter (fun e => decide (e.2.launch = launch) && cores.contains (e.1 / 64))).map (fun e => e.1)
      let s1 := keys.foldl (fun s k => (((s.haltFlight k).abortOpen k false).abortOpen k true).abortHeld k) s
      match Tbl.find s1.launches launch.toNat with
      | none => s1
      | some la =>
        let ws := la.runningGang gang
        let cores := ws.map (fun w => w.core)
        let s2 := s1.leaveStopped la cores
        let s3 := cores.foldl (fun s c =>
          (((Tbl.find s.copies c).getD []).filter (fun x => decide (x.launch = launch))).foldl (fun s x => s.takeBack c x) s) s2
        let s4 := s3.writeBackLaunch la cores
        let ms := ws.map (fun w => s4.saveMember la w)
        let s5 := ws.foldl (fun s w => s.clearMember la w) s4
        if ws.isEmpty then s5
        else
          let image : SavedGang := { launch := launch, gang := gang, time := s.time, members := ms }
          let s6 := s5.writeImage image la.gang
          let mark (w : Workgroup) : Workgroup := if w.gang = gang ∧ w.retired = false then { w with saved := true, held := [] } else w
          { (s6.modLaunch launch.toNat (fun la => { la with wgs := la.wgs.map mark })) with saved := s6.saved ++ [image] }

/-- The firmware core requests pre-emption of a gang (R341). -/
def execPreemptionRequest (launch : Word) (gang : Nat) (s : State) : Outcome State := endStep (s.preempt launch gang)

/-! Resuming a gang (R342). -/

/-- A pending load of a restored flight is issued again, and reads afresh (R340); so is an abandoned matrix instruction (R142). -/
def Pending.reissue (p : Pending) : Pending :=
  match p.act with
  | .load d wd ord ls => { p with act := .again (.mem d wd ord ls) 0 }
  | .bad d wd ord _ ls => { p with act := .again (.mem d wd ord ls) 0 }
  | .reading _ a => { p with act := .again a 0 }
  | _ => p

/-- Moves a scratchpad offset from one placement of windows to another. -/
def moveOffset (windows : List Window) (old new : Tbl Nat) (o : Nat) : Nat :=
  match windows.find? (fun w => match Tbl.find old w.num with
    | some b => decide (b ≤ o) && decide (o < b + w.space)
    | none => false) with
  | some w => o - (Tbl.find old w.num).getD 0 + (Tbl.find new w.num).getD 0
  | none => o

/-- What a flight reads of the place of its trap, moved to another core. -/
def TrapInfo.move (t : TrapInfo) (core : Nat) : TrapInfo := { t with flight := 64 * core + t.flight % 64 }

/-- Whether one member of a gang can resume on a core, and where its windows go there (R342). -/
def State.memberFits (s : State) (la : Launch) (m : SavedMember) (core : Nat) : Option (Tbl Nat) :=
  let w := (la.wgs.find? (fun w => decide (w.wgid = m.wgid))).getD (newWg core 0 0)
  let o := s.occ core
  let free (o : Occ) (pos n : Nat) : Bool :=
    let p := o.getD (pos / 16) (0, [])
    decide (32 * n ≤ p.1) && p.2.contains (pos % 16)
  let rest := match w.handlerPos, la.handlerRole with
    | some p, some r => if m.flights.any (fun e => decide (e.1 = p)) then [] else [(p, r.allot)]
    | _, _ => []
  let want := m.flights.map (fun e => (e.1, e.2.allot)) ++ rest
  let after := want.foldl (fun (acc : Option Occ) x => match acc with
    | none => none
    | some o => if free o x.1 x.2 then some (o.use (x.1 / 16) (x.1 % 16) (32 * x.2)) else none) (some o)
  let room := (after.map (fun o => (o.placeAll (s.spawnMinimum core)).isSome)).getD false
  let clear := m.expans.all (fun e => (Tbl.find s.expans (16 * core + e.1)).isNone) &&
    m.atria.all (fun e => ((Tbl.find s.atria (4 * core + e.1)).bind (fun a => a.bound)).isNone) &&
    m.barriers.all (fun e => (s.bar core e.1).bound.isNone) &&
    decide (((Tbl.find s.tasks core).getD []).length + m.tasks.length ≤ taskCap) &&
    decide (((Tbl.find s.copies core).getD []).length + m.copies.length ≤ 64) &&
    la.wgs.all (fun x => decide (x.core ≠ core) || x.saved || x.retired)
  if room && clear && (!s.reflex.windowOpen || !s.inReserve core || decide (la.cls = 0)) then placeWindows (s.takenWindows core) la.windows
  else none

/-- Restores one member on its core, which acquires, so that no thread reads what its own stores or acquires have hidden (R212, R342), and
drops the descriptors that it has cached (R257). Its
child groups take their place behind those that the core's task queue holds (R21, log entry 52). Its GROW requests are made again by flight
number, slot A before slot B: the model's choice (R101, log entry 84). -/
def State.restoreMember (s : State) (la : Launch) (m : SavedMember) (core : Nat) (wins : Tbl Nat)
    (peers : List (SavedMember × Nat × Tbl Nat)) : State :=
  let old (x : SavedMember) : Tbl Nat := ((la.wgs.find? (fun w => decide (w.wgid = x.wgid))).map (fun w => w.wins)).getD []
  let back (e : Nat × Flight) : Nat × Flight :=
    (64 * core + e.1, { e.2 with trap := e.2.trap.map (fun (t : TrapInfo) => t.move core), pending := e.2.pending.map Pending.reissue })
  let fl := m.flights.map back
  let growing := fl.flatMap (fun e => ([false, true].filter (fun b => (e.2.growWant b).isSome)).map (fun b => ({ flight := e.1, slotB := b } : Cur)))
  let copy (x : Copy) : Copy :=
    let there := (peers.find? (fun p => decide (p.1.core = x.dstCore))).getD (m, core, wins)
    let mv := moveOffset la.windows (old there.1) there.2.2
    { x with dstCore := there.2.1, land := mv x.land, words := x.words.map (fun (y : CopyWord) => { y with dst := mv y.dst }) }
  let s0 := s.acquire core
  let s1 := { s0 with
    descs := s0.descs.filter (fun d => decide (d.core ≠ core))
    flights := putAll s0.flights fl
    barriers := putAll s0.barriers (shiftUp m.barriers (64 * core))
    expans := putAll s0.expans (shiftUp m.expans (16 * core))
    atria := putAll s0.atria (shiftUp m.atria (4 * core))
    tasks := Tbl.put s0.tasks core ((Tbl.find s0.tasks core).getD [] ++ m.tasks)
    copies := Tbl.put s0.copies core ((Tbl.find s0.copies core).getD [] ++ m.copies.map copy) }
  let s2 := growing.foldl (fun s c => s.setGrowing c.flight (s.growing c.flight ++ [c])) s1
  let bytes := m.windows.foldl (fun (c : Cells 8) e =>
    e.2.2.foldl (fun c x => Cells.set c ((Tbl.find wins e.1).getD 0 + x.1) x.2) c)
    (clearWindows (s2.scr core) la.windows wins)
  let cut (h : HeldEvent) : HeldEvent := match h with
    | .trap t => .trap (t.move core)
    | .deadline => .deadline
  let more (w : Workgroup) : List HeldEvent := w.held.filter (fun h => !m.held.contains h)
  let run (w : Workgroup) : Workgroup :=
    if w.wgid = m.wgid then { w with core := core, saved := false, wins := wins, held := m.held.map cut ++ more w } else w
  let issuer (i : Nat × Nat × Nat) : Nat × Nat × Nat :=
    match fl.find? (fun e => decide (e.2.order = i.2.1)) with
    | some e => (e.1, i.2)
    | none => i
  (s2.setScr core bytes).modLaunch la.word.toNat (fun la =>
    { la with
      wgs := la.wgs.map run
      cancels := la.cancels.map (fun (c : CancelSeq) =>
        { c with issuer := c.issuer.map issuer }) })

/-- A CANCEL whose sequence ended while its flight was saved completes (R301). -/
def Flight.cancelOver (f : Flight) (live : List CancelSeq) : Flight :=
  { f with pending := f.pending.map (fun (p : Pending) =>
      if p.act = .cancel ∧ live.all (fun c => c.issuer.all (fun i => decide (i.2 ≠ (f.order, p.seq)))) then { p with act := .finished } else p) }

/-- Whether a result slot of a saved gang is still to be filled: a CANCEL whose sequence is not over (R340). -/
def SavedGang.unfilled (g : SavedGang) (la : Launch) : Bool :=
  g.members.any (fun m => m.flights.any (fun e => e.2.pending.any (fun p =>
    decide (p.act = .cancel) && la.cancels.any (fun c => c.issuer.any (fun i => decide (i.2 = (e.2.order, p.seq)))))))

/-- Resumes a gang on an aligned set of cores, when it fits there and its result slots are filled (R340, R342). Instructions that wait
for room in a command queue go on (R290). -/
def State.resume (s : State) (launch : Word) (gang first : Nat) : State :=
  match Tbl.find s.launches launch.toNat, s.saved.find? (fun g => decide (g.launch = launch) && decide (g.gang = gang)) with
  | some la, some g =>
    let places := g.members.map (fun m => (m, first + m.index, s.memberFits la m (first + m.index)))
    if la.gang = 0 ∨ first % la.gang ≠ 0 ∨ 128 < first + la.gang ∨ g.unfilled la = true ∨ places.any (fun p => p.2.2.isNone) then s
    else
      let peers := places.map (fun p => (p.1, p.2.1, p.2.2.getD []))
      let s1 := { s with saved := s.saved.filter (fun x => decide (x ≠ g)) }
      let s2 := peers.foldl (fun s p => s.restoreMember la p.1 p.2.1 p.2.2 peers) s1
      let live := ((Tbl.find s2.launches launch.toNat).map (fun la => la.cancels)).getD []
      let keys := peers.flatMap (fun p => p.1.flights.map (fun e => 64 * p.2.1 + e.1))
      let s3 := (keys.foldl (fun s k => (s.modFlight k (fun f => f.cancelOver live)).retireIf k) s2).tidyLaunch launch
      s3.ctxs.foldl (fun s e => s.feedWaiters e.1) s3
  | _, _ => s

/-- A saved gang resumes on the cores from a first one on (R342). -/
def execGangResume (launch : Word) (gang firstCore : Nat) (s : State) : Outcome State := endStep (s.resume launch gang firstCore)

/-! The start of waiting launches (R18, R28 to R31). -/

/-- The gangs of lower class that run on some cores, as launch and gang (R18). -/
def State.lowerGangs (s : State) (cores : List Nat) (cls : Nat) : List (Word × Nat) :=
  s.launches.flatMap (fun e =>
    if cls < e.2.cls then
      (((e.2.wgs.filter (fun w => !w.retired && !w.saved && cores.contains w.core)).map (fun w => w.gang)).eraseDups).map
        (fun g => (e.2.word, g))
    else [])

/-- Gives a waiting LAUNCH packet up: the queue goes on. -/
def State.launchGone (s : State) (q : Nat) (keepActive : Bool) : State :=
  let x := s.queue q
  match x.waiting with
  | none => s
  | some w =>
    s.setQueue q { x with
      waiting := none
      active := if keepActive then x.active else x.active.filter (fun a => decide (a.cond ≠ .launch w.launch.word)) }

/-- Starts the waiting launch of a queue if it can: it fits now, or fits once all the lower-class gangs on its cores are pre-empted
(R18, log entry 51). While the reflex window is open only reflex launches start on reserve halls (R29). A launch whose LAUNCH value a running
launch still has, after its queue was reopened, waits for that launch. -/
def State.startWaiting (s : State) (q : Nat) : State :=
  match (s.queue q).waiting with
  | none => s
  | some w =>
    let cores := w.launch.wgs.map (fun g => g.core)
    if (Tbl.find s.launches w.launch.word.toNat).isSome then s
    else if s.reflex.windowOpen && decide (w.launch.cls ≠ 0) && cores.any (fun c => s.inReserve c) then s
    else
      match s.prepare w with
      | (.error r, s1) => (s1.refuseLaunch w.launch.word w.launch.ctx0 w.launch.record w.launch.irq r).launchGone q false
      | (.ok la, s1) =>
        match s1.spots la with
        | some sps => (s1.startLaunch la w.fence sps).launchGone q true
        | none =>
          let s2 := (s1.lowerGangs cores la.cls).foldl (fun s g => s.preempt g.1 g.2) s1
          match s2.spots la with
          | some sps => (s2.startLaunch la w.fence sps).launchGone q true
          | none => s

/-- A waiting launch starts (R18). The launches of queue 0 start at boundaries (R30). -/
def execLaunchStart (q : Nat) (s : State) : Outcome State := if q = 0 then .next s else endStep (s.startWaiting q)

/-- The reflex period in nanoseconds (R28). -/
def Reflex.ns (r : Reflex) : Nat := r.period * 1000000

/-- The number of boundaries that global time has reached (R28). -/
def Reflex.reached (r : Reflex) (time : Nat) : Nat := if time < r.phase then 0 else (time - r.phase) / r.ns + 1

/-- The global time of the n-th boundary that is reached, counted from 1. -/
def Reflex.at_ (r : Reflex) (n : Nat) : Nat := r.phase + (n - 1) * r.ns

/-- Whether a reflex reserve stands and queues may run (R28, R348). -/
def State.reserveStands (s : State) : Bool := decide (s.reflex.halls ≠ 0) && s.acceptedW && !s.security.halted

/-- Whether the previous reflex launch still runs: it retires when its last gang has retired (R22, R29, R31, log entry 54). -/
def State.reflexRuns (s : State) : Bool :=
  s.reflex.running.any (fun w => (Tbl.find s.launches w.toNat).any (fun la => la.wgs.any (fun g => !g.retired)))

/-- Whether the window is due to open: 20 µs before the next boundary (R29). -/
def State.windowDue (s : State) : Bool :=
  let n := s.reflex.reached s.time
  s.reserveStands && !s.reflex.windowOpen && decide (n ≤ s.reflex.lastBoundary) &&
    decide (s.reflex.at_ (n + 1) ≤ s.time + 20000)

/-- The window opens: every gang on a reserve hall is pre-empted, but for a reflex launch that overruns (R29, R31). -/
def execReflexWindowOpen (s : State) : Outcome State :=
  if s.windowDue then
    let cores := (List.range 128).filter (fun c => s.inReserve c)
    let s1 := (s.lowerGangs cores 0).foldl (fun s g => s.preempt g.1 g.2) s
    endStep { s1 with reflex := { s1.reflex with windowOpen := true, openedAt := s1.time } }
  else .next s

/-- A boundary passes: the reflex launch that has stood at the head of queue 0 for a microsecond starts (R30); a launch that
still runs is an overrun (R31). -/
def execReflexBoundary (s : State) : Outcome State :=
  let n := s.reflex.reached s.time
  if s.reserveStands && decide (s.reflex.lastBoundary < n) then
    let s1 := { s with reflex := { s.reflex with lastBoundary := n, windowOpen := true } }
    if s.reflexRuns then
      let w := (s.reflex.running.getD 0).toNat
      endStep ({ s1 with reflex := { s1.reflex with overruns := s1.reflex.overruns + 1 } }.modLaunch w (fun la => { la with overrun := true }))
    else
      let ready := ((s.queue 0).waiting.map (fun w => decide (w.since + 1000 ≤ s.reflex.at_ n))).getD false
      if ready then
        let word := ((s.queue 0).waiting.map (fun w => w.launch.word)).getD 0
        let s2 := s1.startWaiting 0
        let ran := (s2.queue 0).waiting.isNone && (s2.queue 0).active.any (fun a => decide (a.cond = .launch word))
        endStep { s2 with reflex := { s2.reflex with running := if ran then some word else none } }
      else endStep { s1 with reflex := { s1.reflex with running := none } }
  else .next s

/-- Whether the window is due to close (R29). -/
def State.closeDue (s : State) : Bool :=
  s.reflex.windowOpen && decide (s.reflex.openedAt ≤ s.reflex.at_ s.reflex.lastBoundary) && decide (1 ≤ s.reflex.lastBoundary) &&
    (match s.reflex.running with
     | some _ => !s.reflexRuns
     | none => decide (s.reflex.at_ s.reflex.lastBoundary + 2000 ≤ s.time))

/-- The window closes (R29). -/
def execReflexWindowClose (s : State) : Outcome State :=
  if s.closeDue then .next { s with reflex := { s.reflex with windowOpen := false, running := none } } else .next s

end Sys2Proof.Machine
end

