-- ==== Sys2Proof/Machine/Control.lean ====
section
/-! DEFINITION. Control transfer (R89 to R93, R98, R99). -/

namespace Sys2Proof.Machine

/-- The slot of a place. -/
def State.slotAt (s : State) (p : Place) : Slot := ((s.flight p.key).map (fun f => f.slot p.slotB)).getD Slot.free

/-- Whether the slot has pending instructions that it must wait for before lanes part or meet (R50). -/
def State.mustDrain (s : State) (p : Place) : Bool := ((s.flight p.key).map (fun f => !(f.undone p.slotB).isEmpty)).getD false

/-- Moves the whole slot to a PC. -/
def State.gotoPc (s : State) (p : Place) (pc : Word) : State := s.modFlight p.key (fun f => (f.goto p.slotB pc).settle)

/-- JMP (R89). -/
def execJmp (off : BitVec 22) (s : State) : Outcome State :=
  issue (.jmp off) s (fun p s => .moved (s.gotoPc p (target p.pc 1 (off.signExtend 32))))

/-- CALL (R98). -/
def execCall (off : BitVec 22) (s : State) : Outcome State :=
  issue (.call off) s (fun p s =>
    if s.mustDrain p then .stall
    else
      match (s.flight p.key).bind (fun f => (f.closeWindows p.slotB).call p.slotB (p.pc + 4) (target p.pc 1 (off.signExtend 32))) with
      | some f => .moved (s.putFlight p.key f.settle)
      | none => .done s (faultAll .divstack (s.slotAt p).mask) [])

/-- The active lanes end their threads (R91). -/
def endLanes (p : Place) (s : State) : Body :=
  if s.mustDrain p then .stall
  else .ended ((s.modFlight p.key (fun f => (f.closeWindows p.slotB).exitLanes p.slotB p.act)).leaveAll p.key p.act)

/-- RET (R99): with no frame it acts as EXIT. Inside a region too, where R241 admits it: the threads end, and their regions end with them
without an abort (log entry 64). -/
def execRet (s : State) : Outcome State :=
  issue .ret s (fun p s =>
    if s.mustDrain p then .stall
    else
      match (s.flight p.key).bind (fun f => (f.closeWindows p.slotB).ret p.slotB) with
      | some f => .moved (s.putFlight p.key f.settle)
      | none => endLanes p s)

/-- EXIT (R91). -/
def execExit (s : State) : Outcome State := issue .exit s endLanes

/-- NOP (R89). -/
def execNop (s : State) : Outcome State := localOp .nop s (fun _ f => f)

/-- YIELD (R89): the slot gives way in the next cycle. -/
def execYield (s : State) : Outcome State :=
  localOp .yield s (fun p f => f.setSlot p.slotB { f.slot p.slotB with wait := .yielded (s.cycle + 1) })

/-- SLEEP (R89): the slot is not ready for 16 × n cycles. -/
def execSleep (n : BitVec 8) (s : State) : Outcome State :=
  localOp (.sleep n) s (fun p f =>
    if n = 0 then f else f.setSlot p.slotB { f.slot p.slotB with wait := .sleep (s.cycle + 1 + 16 * n.toNat) })

/-- BRK (R90). -/
def execBrk (n : BitVec 8) (s : State) : Outcome State :=
  issue (.brk n) s (fun p s => .done s ((faultAll .brk p.act).map (fun x => { x with n := n.toNat })) [])

/-- TRAP (R90). -/
def execTrap (n : BitVec 8) (s : State) : Outcome State :=
  issue (.trap n) s (fun p s => .done s ((faultAll .trap p.act).map (fun x => { x with n := n.toNat })) [])

/-- Splits the slot into sides, or faults (R95). -/
def splitSides (p : Place) (s : State) (sides : List (Word × Mask)) (join : Word) : Body :=
  if s.mustDrain p then .stall
  else
    match (s.flight p.key).bind (fun f => (f.closeWindows p.slotB).split p.slotB sides join) with
    | some f => .moved (s.putFlight p.key f.settle)
    | none => .done s (faultAll .divstack (s.slotAt p).mask) []

/-- BRA (R92). -/
def execBra (p : PReg) (neg : Bool) (off : BitVec 17) (join : Word) (s : State) : Outcome State :=
  issue (.bra p neg off join) s (fun pl s =>
    match s.flight pl.key with
    | none => .done s [] []
    | some f =>
      let x := f.slot pl.slotB
      let taken := if neg then ~~~(f.pMask p.toNat) else f.pMask p.toNat
      let mt := x.mask &&& taken
      let mn := x.mask &&& ~~~taken
      let tgt := target pl.pc 2 (off.signExtend 32)
      if mn = 0 then .moved (s.gotoPc pl tgt)
      else if mt = 0 then .done s [] []
      else
        let first := (f.slot (!pl.slotB)).live && decide (countLanes mn < countLanes mt)
        splitSides pl s (if first then [(tgt, mt), (x.nextClause, mn)] else [(x.nextClause, mn), (tgt, mt)])
          (target pl.pc 2 join))

/-- BRX (R93). A misaligned target traps the lanes that have one; when the trap ends or skips them, the slot's other lanes go on at the next
clause (log entry 57). -/
def execBrx (a : Reg) (join : Word) (s : State) : Outcome State :=
  issue (.brx a join) s (fun p s =>
    match s.flight p.key with
    | none => .done s [] []
    | some f =>
      let m := (f.slot p.slotB).mask
      let bad := (lanesOf m).filter (fun l => decide ((f.g l a).toNat % 4 ≠ 0))
      if bad ≠ [] then .done s (bad.map (plainFault .align)) []
      else
        match groupLanes ((lanesOf m).map (fun l => (l, f.g l a))) with
        | [(pc, _)] => .moved (s.gotoPc p pc)
        | sides => splitSides p s sides (target p.pc 2 join))

end Sys2Proof.Machine
end

