-- ==== Sys2Proof/Machine/Convert.lean ====
section
/-! DEFINITION. Conversion instructions and special functions (R118 to R126), all of them long-latency. -/

namespace Sys2Proof.Machine

/-- FRCP (R120). -/
def execFrcp (d a : Reg) (la : BitVec 4) (s : State) : Outcome State :=
  longOp (.frcp d a la) d (flagged (fun f l => specialFn .rcp (Fp.ofWord (f.g l a)))) s

/-- FRSQ (R120). -/
def execFrsq (d a : Reg) (la : BitVec 4) (s : State) : Outcome State :=
  longOp (.frsq d a la) d (flagged (fun f l => specialFn .rsq (Fp.ofWord (f.g l a)))) s

/-- FSQRT (R120). -/
def execFsqrt (d a : Reg) (la : BitVec 4) (s : State) : Outcome State :=
  longOp (.fsqrt d a la) d (flagged (fun f l => specialFn .sqrt (Fp.ofWord (f.g l a)))) s

/-- FEXP2 (R120). -/
def execFexp2 (d a : Reg) (la : BitVec 4) (s : State) : Outcome State :=
  longOp (.fexp2 d a la) d (flagged (fun f l => specialFn .exp2 (Fp.ofWord (f.g l a)))) s

/-- FLOG2 (R120). -/
def execFlog2 (d a : Reg) (la : BitVec 4) (s : State) : Outcome State :=
  longOp (.flog2 d a la) d (flagged (fun f l => specialFn .log2 (Fp.ofWord (f.g l a)))) s

/-- FSINR (R120). -/
def execFsinr (d a : Reg) (la : BitVec 4) (s : State) : Outcome State :=
  longOp (.fsinr d a la) d (flagged (fun f l => specialFn .sin (Fp.ofWord (f.g l a)))) s

/-- FCOSR (R120). -/
def execFcosr (d a : Reg) (la : BitVec 4) (s : State) : Outcome State :=
  longOp (.fcosr d a la) d (flagged (fun f l => specialFn .cos (Fp.ofWord (f.g l a)))) s

/-- FRND (R119). -/
def execFrnd (d a : Reg) (mode : RMode) (la : BitVec 4) (s : State) : Outcome State :=
  longOp (.frnd d a mode la) d (flagged (fun f l => frndRes mode (Fp.ofWord (f.g l a)))) s

/-- FCLASS (R122). -/
def execFclass (d a : Reg) (la : BitVec 4) (s : State) : Outcome State :=
  longOp (.fclass d a la) d (flagged (fun f l => { bits := fclassBits (f.g l a), flags := 0 })) s

/-- F2I.i32 (R123). -/
def execF2iI (d a : Reg) (la : BitVec 4) (s : State) : Outcome State :=
  longOp (.f2iI d a la) d (flagged (fun f l => f2iRes .rne false (Fp.ofWord (f.g l a)))) s

/-- F2I.n32 (R123). -/
def execF2iN (d a : Reg) (la : BitVec 4) (s : State) : Outcome State :=
  longOp (.f2iN d a la) d (flagged (fun f l => f2iRes .rne true (Fp.ofWord (f.g l a)))) s

/-- I2F.i32 (R119). -/
def execI2fI (d a : Reg) (la : BitVec 4) (s : State) : Outcome State :=
  longOp (.i2fI d a la) d (flagged (fun f l => fp32.ofInt .rne (f.g l a).toInt)) s

/-- I2F.n32 (R119). -/
def execI2fN (d a : Reg) (la : BitVec 4) (s : State) : Outcome State :=
  longOp (.i2fN d a la) d (flagged (fun f l => fp32.ofInt .rne ((f.g l a).toNat : Int))) s

/-- F2BF (R119). -/
def execF2bf (d a : Reg) (la : BitVec 4) (s : State) : Outcome State :=
  longOp (.f2bf d a la) d (flagged (fun f l => bf16.convert .rne (Fp.ofWord (f.g l a)))) s

/-- BF2F (R119). -/
def execBf2f (d a : Reg) (la : BitVec 4) (s : State) : Outcome State :=
  longOp (.bf2f d a la) d (flagged (fun f l => fp32.convert .rne (bf16.read ((f.g l a).toNat % 65536)))) s

/-- F2HF (R119). -/
def execF2hf (d a : Reg) (la : BitVec 4) (s : State) : Outcome State :=
  longOp (.f2hf d a la) d (flagged (fun f l => fp16.convert .rne (Fp.ofWord (f.g l a)))) s

/-- HF2F (R119). -/
def execHf2f (d a : Reg) (la : BitVec 4) (s : State) : Outcome State :=
  longOp (.hf2f d a la) d (flagged (fun f l => fp32.convert .rne (fp16.read ((f.g l a).toNat % 65536)))) s

/-- F2I.M (R124). -/
def execF2iM (d a : Reg) (la : BitVec 4) (uns : Bool) (mode : RMode) (s : State) : Outcome State :=
  longOp (.f2iM d a la uns mode) d (flagged (fun f l => f2iRes mode uns (Fp.ofWord (f.g l a)))) s

/-- The scale code of CVTN and UNPN: gz stands for 2^0 (R125, R126). -/
def scaleOf (f : Flight) (l : Nat) (c : Reg) : Nat := if c.toNat = 127 then 127 else (f.g l c).toNat % 256

/-- What CVTN computes in a lane (R125). -/
def cvtnLane (a c : Reg) (pack : Bool) (fmt : BitVec 16) : LaneFn := fun f l =>
  let n := if pack then 8 else 4
  let r := cvtnWord (NFmt.ofDesc fmt) (if pack then 4 else 8) (scaleOf f l c) ((List.range n).map (fun i => f.gAt l a i)) 0
  ([BitVec.ofNat 32 r.1], r.2)

/-- What UNPN computes in a lane (R126). -/
def unpnLane (a c : Reg) (pack : Bool) (fmt : BitVec 16) : LaneFn := fun f l =>
  let n := if pack then 8 else 4
  let nf := NFmt.ofDesc fmt
  let rs := (List.range n).map (fun i => nf.widen (packedCode nf (if pack then 4 else 8) i (f.g l a)) (scaleOf f l c))
  (rs.map (fun r => r.word), rs.foldl (fun w r => w ||| r.flags) 0)

/-- CVTN (R125). -/
def execCvtn (d a : Reg) (la : BitVec 4) (c : Reg) (pack : Bool) (fmt : BitVec 16) (s : State) : Outcome State :=
  longOp (.cvtn d a la c pack fmt) d (cvtnLane a c pack fmt) s

/-- UNPN (R126). -/
def execUnpn (d a : Reg) (la : BitVec 4) (c : Reg) (pack : Bool) (fmt : BitVec 16) (s : State) : Outcome State :=
  longOp (.unpn d a la c pack fmt) d (unpnLane a c pack fmt) s

end Sys2Proof.Machine
end

