-- ==== Sys2Proof/Machine/Cross.lean ====
section
/-! DEFINITION. Cross-lane instructions (R164 to R170), the expand unit (R156 to R161), sorted lists across lanes (R171, R172)
and block scales (R173). -/

namespace Sys2Proof.Machine

/-- A source lane's value if that lane is active, else the lane's own (R165, R166). -/
def pickLane (act : Mask) (f : Flight) (a : Reg) (l m : Nat) : Word := if act.getLsbD m then f.g m a else f.g l a

/-- SWZ (R165). -/
def execSwz (d a : Reg) (x : BitVec 5) (s : State) : Outcome State :=
  localOp (.swz d a x) s (fun p f => f.alu p.act d (plain (fun f l => pickLane p.act f a l (l ^^^ x.toNat))))

/-- SHFL (R166). -/
def execShfl (d a b : Reg) (r : Bool) (s : State) : Outcome State :=
  localOp (.shfl d a b r) s (fun p f => f.alu p.act d (plain (fun f l => pickLane p.act f a l ((f.g l b).toNat % 32))))

/-- The value of VOTE, the same in every active lane (R167). -/
def voteValue (op : VoteOp) (act : Mask) (v : Nat → Bool) : Bool :=
  let ls := lanesOf act
  match op with
  | .all => ls.all v
  | .any => ls.any v
  | .uni => ls.all v || ls.all (fun l => !v l)

/-- VOTE (R167). -/
def execVote (pd : PReg) (op : VoteOp) (na : Bool) (pa : PReg) (s : State) : Outcome State :=
  localOp (.vote pd op na pa) s (fun p f => f.cmp p.act pd (fun f _ => (voteValue op p.act (fun m => f.p m pa != na), 0)))

/-- BALLOT (R168). -/
def execBallot (d : Reg) (na : Bool) (pa : PReg) (s : State) : Outcome State :=
  localOp (.ballot d na pa) s (fun p f => f.alu p.act d (plain (fun f _ =>
    maskOf ((lanesOf p.act).filter (fun m => f.p m pa != na)))))

/-- MATCH (R168). -/
def execMatchLanes (d a : Reg) (s : State) : Outcome State :=
  localOp (.matchLanes d a) s (fun p f => f.alu p.act d (plain (fun f l =>
    maskOf ((lanesOf p.act).filter (fun m => decide (f.g m a = f.g l a))))))

/-- The identity of a reduction operation (R170). -/
def redIdentity (op : RedOp) : Word :=
  match op with
  | .add => 0
  | .minI => 0x7FFFFFFF
  | .minN => 0xFFFFFFFF
  | .maxI => 0x80000000
  | .maxN => 0
  | .fadd => 0x80000000
  | .fmin => 0x7F800000
  | .fmax => 0xFF800000

/-- The running values r(0), r(1), … of a reduction (R169). -/
def runs (op : RedOp) : Option Word → List Word → List Word
  | _, [] => []
  | none, x :: xs => redFirst op x :: runs op (some (redFirst op x)) xs
  | some r, x :: xs => redStep op r x :: runs op (some (redStep op r x)) xs

/-- The running values over the active lanes. -/
def scanRuns (op : RedOp) (act : Mask) (f : Flight) (a : Reg) : List Word := runs op none ((lanesOf act).map (fun l => f.g l a))

/-- SCAN (R169). -/
def execScan (d a : Reg) (ex : Bool) (op : RedOp) (s : State) : Outcome State :=
  localOp (.scan d a ex op) s (fun p f => f.alu p.act d (plain (fun f l =>
    let rs := scanRuns op p.act f a
    let i := ((lanesOf p.act).filter (fun m => decide (m < l))).length
    if ex then (if i = 0 then redIdentity op else rs.getD (i - 1) 0) else rs.getD i 0)))

/-- REDUCE (R169). -/
def execReduce (d a : Reg) (op : RedOp) (s : State) : Outcome State :=
  localOp (.reduce d a op) s (fun p f => f.alu p.act d (plain (fun f _ => (scanRuns op p.act f a).getLastD 0)))

/-! The expand unit. -/

/-- Clears the released-deal mark of a slot (R161). -/
def Flight.clearMark (f : Flight) (e : Nat) : Flight := { f with marks := f.marks &&& ~~~(BitVec.twoPow 4 e) }

/-- Sets the released-deal mark of a slot (R161). -/
def Flight.setMark (f : Flight) (e : Nat) : Flight := { f with marks := f.marks ||| BitVec.twoPow 4 e }

/-- Whether an EXPAND may not arrive (R158). -/
def expandBad (s : State) (p : Place) (g : Bool) (gal : Nat) (slot : Nat) : Bool :=
  match Tbl.find s.expans slot with
  | some x => x.isOpen || decide (x.gallery ≠ (if g then some gal else none)) ||
      x.arrivals.any (fun a => decide (a.flight = p.key % 64))
  | none => false

/-- Whether a gallery does not allow a gallery-mode expansion of these lanes on a partition (R158). -/
def galleryBad (s : State) (p : Place) (gal : Nat) : Bool :=
  let m := s.members p.core gal
  decide (p.act &&& ~~~(Cells.get m (p.key % 64)) ≠ 0) || m.any (fun e => decide (e.1 / 16 ≠ p.part)) || decide (4 < m.length) ||
    decide (128 < maskCount m)

/-- EXPAND (R156 to R158). Naming a slot clears the flight's mark for it, also when the instruction then faults (R161). Of a gallery
bound to another workgroup no lane is a member, so that it raises EXPAND (R158, R174), where R320 has other instructions raise GALLERY (log
entry 78). -/
def execExpand (d a : Reg) (g : Bool) (e : BitVec 2) (la : BitVec 4) (c : Reg) (gal : BitVec 6) (s : State) : Outcome State :=
  let i := Instr.expand d a g e la c gal
  issue i s (fun p s =>
    match s.flight p.key with
    | none => .done s [] []
    | some f =>
      let slot := xslot p.key e.toNat
      let lanes := (lanesOf p.act).map (fun l => (l, f.g l a, f.g l c))
      let s := s.modFlight p.key (fun f => f.clearMark e.toNat)
      if expandBad s p g gal.toNat slot || (g && ((s.bar p.core gal.toNat).foreign p || galleryBad s p gal.toNat)) then
        .done s (faultAll .expand p.act) []
      else if g then
        let x := (Tbl.find s.expans slot).getD
          { gallery := some gal.toNat, isOpen := false, arrivals := [], parts := [], total := 0, flights := [], reds := [] }
        let arr : Arrival := { flight := p.key % 64, seq := f.nextSeq, d := d.toNat, clause := (f.slot p.slotB).clause, lanes := lanes }
        let s1 := { s with expans := Tbl.put s.expans slot { x with arrivals := x.arrivals ++ [arr] } }
        let s2 := s1.modFlight p.key (fun f => f.addPending p.slotB i p.pc p.act false (.expand e.toNat))
        .done (s2.tryForm slot) [] []
      else
        let r := gatherParts (lanes.map (fun l => (p.key % 64, l)))
        if 2 ^ 32 - 1 < r.2 then .done s (faultAll .expand p.act) []
        else
          let s1 := { s with expans := Tbl.put s.expans slot (formed none r.1 r.2) }
          .done (s1.later p i p.act
            (.write ((lanesOf p.act).flatMap (fun l => runWrites d l [BitVec.ofNat 32 r.2])) [] 0)) [] [])

/-- The word of OWN for an owner (R154). -/
def ownWord (o : Nat) (q : Participant) : Word :=
  BitVec.ofNat 32 (2147483648 + q.flight * 65536 + q.lane * 256 + o)

/-- What ENEXT deals to a lane: its iteration, owner number, owner and offset; none when its share is empty (R159). -/
def Expansion.dealTo (x : Expansion) (key n l : Nat) : Option (Nat × Nat × Participant × Nat) :=
  match ((List.range x.parts.length).zip x.parts).find? (fun p => decide (p.2.flight = key % 64) && decide (p.2.lane = l)) with
  | none => none
  | some me =>
    let t := n * x.parts.length + me.1
    if t < x.total then (x.owner t).map (fun o => (t, o.1, o.2, t - o.2.pfx)) else none

/-- The open expansion in which a flight takes part, unreleased if so asked, with exactly these lanes active; none where R159 and R161 raise
EXPAND. -/
def openFor (s : State) (p : Place) (f : Flight) (slot : Nat) (fresh : Bool) : Option (Expansion × XFlight) :=
  match Tbl.find s.expans slot with
  | none => none
  | some x =>
    match Tbl.find x.flights (p.key % 64) with
    | none => none
    | some xf =>
      if x.isOpen ∧ xf.gone = false ∧ (fresh = true → xf.released = false) ∧ x.maskOf p.key f = p.act then some (x, xf) else none

/-- ENEXT (R159, R160). Naming a slot clears the flight's mark for it, also when the instruction then faults (R161). OWN and
ITER change as it issues, while its results wait: the model's choice (R48, log entry 87). -/
def execEnext (d : Reg) (fin : Bool) (e : BitVec 2) (la : BitVec 4) (pd : PReg) (s : State) : Outcome State :=
  let i := Instr.enext d fin e la pd
  issue i s (fun p s =>
    match s.flight p.key with
    | none => .done s [] []
    | some f =>
      let slot := xslot p.key e.toNat
      let s := s.modFlight p.key (fun f => f.clearMark e.toNat)
      match openFor s p f slot true with
      | none => .done s (faultAll .expand p.act) []
      | some (x, xf) =>
        let put (s : State) (y : XFlight) : State :=
          { s with expans := Tbl.put s.expans slot { x with flights := Tbl.put x.flights (p.key % 64) y } }
        if fin then .done (((put s { xf with released := true }).expanUpdate slot).later p i p.act .finished) [] []
        else
          let n := xf.cursor
          let ds := (lanesOf p.act).map (fun l => (l, x.dealTo p.key n l))
          let spent := decide (x.total ≤ n * x.parts.length)
          let gw := ds.flatMap (fun e => match e.2 with
            | some (_, _, q, j) => runWrites d e.1 [q.start + BitVec.ofNat 32 j]
            | none => [])
          let pw := ds.map (fun e => (pd.toNat, e.1, e.2.isSome))
          let s1 := put s { cursor := n + 1, released := spent, gone := false, deal := ds.filterMap (fun e => e.2.map (fun q => (e.1, q.1))) }
          let s2 := s1.modFlight p.key (fun f =>
            let f1 := ds.foldl (fun f e => match e.2 with
              | some (_, o, q, j) => { f with own := Cells.set f.own e.1 (ownWord o q), iter := Cells.set f.iter e.1 (BitVec.ofNat 32 j) }
              | none => { f with own := Cells.set f.own e.1 0, iter := Cells.set f.iter e.1 0 }) f
            (if spent then f1.setMark e.toNat else f1).addPending p.slotB i p.pc p.act false (.write gw pw 0))
          .done (s2.expanUpdate slot) [] [])

/-- SEGRED (R161). One that completes through the released-deal mark is not kept as issued for its deal, so that a further one is taken as
an empty contribution while the slot is open: the model's choice (log entry 86). -/
def execSegred (d a : Reg) (e : BitVec 2) (la : BitVec 4) (pd : PReg) (op : RedOp) (s : State) : Outcome State :=
  let i := Instr.segred d a e la pd op
  issue i s (fun p s =>
    match s.flight p.key with
    | none => .done s [] []
    | some f =>
      let slot := xslot p.key e.toNat
      if f.marks.getLsbD e.toNat then
        .done ((s.modFlight p.key (fun f => f.clearMark e.toNat)).later p i p.act
          (.write [] ((lanesOf p.act).map (fun l => (pd.toNat, l, false))) 0)) [] []
      else
        match openFor s p f slot false with
        | none => .done s (faultAll .expand p.act) []
        | some (x, xf) =>
          let n := xf.cursor - 1
          if xf.cursor = 0 ∨ x.reds.any (fun r => decide (r.flight = p.key % 64) && decide (r.deal = n)) then
            .done s (faultAll .expand p.act) []
          else
            let r : RedRec :=
              { flight := p.key % 64, deal := n, op := op, d := d.toNat, pd := pd.toNat, mask := p.act,
                vals := xf.deal.filterMap (fun q => if p.act.getLsbD q.1 then some (q.1, q.2, f.g q.1 a) else none),
                seq := f.nextSeq, done := false }
            let s1 := { s with expans := Tbl.put s.expans slot { x with reds := x.reds ++ [r] } }
            .done ((s1.later p i p.act (.segred e.toNat)).expanUpdate slot) [] [])

/-! Sorted lists across lanes (R171, R172). -/

/-- An output of the merge: the value, the lanes in A and B, and whether it is in both. -/
structure MergeOut where
  v    : Word
  inA  : Option Nat
  inB  : Option Nat
deriving DecidableEq, Repr

/-- The merge of R172 over lists of (lane, value): the rest of A and B, the room left, and the outputs and advances so far.
The fuel is the number of elements. -/
def mergeLoop (lt : Word → Word → Bool) (top : Word) (dupOnly : Bool) :
    Nat → List (Nat × Word) → List (Nat × Word) → Nat → Nat × Nat × List MergeOut → Nat × Nat × List MergeOut
  | 0, _, _, _, r => r
  | fuel + 1, as, bs, room, (i, j, out) =>
    if room = 0 then (i, j, out)
    else
      let cut (xs : List (Nat × Word)) : List (Nat × Word) := match xs with
        | x :: xs => if lt top x.2 then [] else x :: xs
        | [] => []
      match cut as, cut bs with
      | a :: as', b :: bs' =>
        if a.2 = b.2 then
          mergeLoop lt top dupOnly fuel as' bs' (if dupOnly then room else room - 1) (i + 1, j + 1, out ++ [⟨a.2, some a.1, some b.1⟩])
        else if lt a.2 b.2 then
          mergeLoop lt top dupOnly fuel as' bs (if dupOnly then room else room - 1)
            (i + 1, j, if dupOnly then out else out ++ [⟨a.2, some a.1, none⟩])
        else
          mergeLoop lt top dupOnly fuel as bs' (if dupOnly then room else room - 1)
            (i, j + 1, if dupOnly then out else out ++ [⟨b.2, none, some b.1⟩])
      | a :: as', [] =>
        mergeLoop lt top dupOnly fuel as' bs (if dupOnly then room else room - 1)
          (i + 1, j, if dupOnly then out else out ++ [⟨a.2, some a.1, none⟩])
      | [], b :: bs' =>
        mergeLoop lt top dupOnly fuel as bs' (if dupOnly then room else room - 1)
          (i, j + 1, if dupOnly then out else out ++ [⟨b.2, none, some b.1⟩])
      | [], [] => (i, j, out)

/-- The merge of R172: advances of A and B, and the outputs. -/
def mergeLists (sgn dupOnly : Bool) (as bs : List (Nat × Word)) (room : Nat) : Nat × Nat × List MergeOut :=
  let lt (x y : Word) : Bool := if sgn then x.slt y else x.ult y
  match as.getLast?, bs.getLast? with
  | some a, some b => mergeLoop lt (if lt b.2 a.2 then b.2 else a.2) dupOnly (as.length + bs.length) as bs room (0, 0, [])
  | _, _ => (0, 0, [])

/-- The list that the lanes with a predicate hold (R171). -/
def laneList (act : Mask) (f : Flight) (a : Reg) (q : PReg) : List (Nat × Word) :=
  ((lanesOf act).filter (fun l => f.p l q)).map (fun l => (l, f.g l a))

/-- The summary word of R172. -/
def mergeSummary (r : Nat × Nat × List MergeOut) : Word := BitVec.ofNat 32 (r.1 + r.2.1 * 256 + r.2.2.length * 65536)

/-- A lane byte of R172: 0xFF for none. -/
def laneByte (l : Option Nat) : Nat := l.getD 0xFF

/-- The words that each active lane receives (R172). -/
def mergeWords (full : Bool) (r : Nat × Nat × List MergeOut) (o : Option MergeOut) : List Word :=
  match o with
  | none => if full then [0, 0, mergeSummary r] else [0, mergeSummary r]
  | some x =>
    if full then
      [x.v, BitVec.ofNat 32 (laneByte x.inA + laneByte x.inB * 256 + (x.inA.isSome && x.inB.isSome).toNat * 65536), mergeSummary r]
    else [BitVec.ofNat 32 (laneByte x.inA + laneByte x.inB * 256), mergeSummary r]

/-- The register and predicate writes of a set instruction. -/
def mergeAct (full sgn : Bool) (act : Mask) (f : Flight) (d a c : Reg) (pd qa qb : PReg) : PendAct :=
  let r := mergeLists sgn (!full) (laneList act f a qa) (laneList act f c qb) (countLanes act)
  let ls := (List.range (countLanes act)).zip (lanesOf act)
  .write (ls.flatMap (fun e => runWrites d e.2 (mergeWords full r r.2.2[e.1]?)))
    (ls.map (fun e => (pd.toNat, e.2, (r.2.2[e.1]?).isSome))) 0

/-- XSECT (R171, R172). -/
def execXsect (d a : Reg) (sgn : Bool) (la : BitVec 4) (c : Reg) (pd qa qb : PReg) (s : State) : Outcome State :=
  localOp (.xsect d a sgn la c pd qa qb) s (fun p f =>
    f.later p (.xsect d a sgn la c pd qa qb) (mergeAct false sgn p.act f d a c pd qa qb))

/-- XMERGE (R171, R172). -/
def execXmerge (d a : Reg) (sgn : Bool) (la : BitVec 4) (c : Reg) (pd qa qb : PReg) (s : State) : Outcome State :=
  localOp (.xmerge d a sgn la c pd qa qb) s (fun p f =>
    f.later p (.xmerge d a sgn la c pd qa qb) (mergeAct true sgn p.act f d a c pd qa qb))

/-- SCALEQ (R173). -/
def execScaleq (d a : Reg) (q : Bool) (la : BitVec 4) (fmt : BitVec 16) (s : State) : Outcome State :=
  localOp (.scaleq d a q la fmt) s (fun p f =>
    let nf := NFmt.ofDesc fmt
    let k := nf.scaleCode ((lanesOf p.act).map (fun l => Fp.ofWord (f.g l a)))
    f.later p (.scaleq d a q la fmt) (.write ((lanesOf p.act).flatMap (fun l =>
      runWrites d l (if q then [BitVec.ofNat 32 k, BitVec.ofNat 32 (nf.quant k (Fp.ofWord (f.g l a)))] else [BitVec.ofNat 32 k]))) [] 0))

end Sys2Proof.Machine
end

