-- ==== Sys2Proof/Machine/HostQueue.lean ====
section
/-! DEFINITION. The host queues (R305 to R314): the fetch of slots, the rounds of the firmware core, the packets with their
classes, fence bits and halt codes, and the queue registers. -/

namespace Sys2Proof.Machine

/-! Order (R311, R314). -/

/-- Whether the completion point of a started packet is reached (R311, R314). -/
def State.pktDone (s : State) (x : Queue) (a : Active) : Bool :=
  match a.cond with
  | .now => true
  | .timeline ctx v => decide (v ≤ (s.ctx ctx).timeline)
  | .launch w => (Tbl.find s.launches w.toNat).isNone && !(x.waiting.any (fun y => decide (y.launch.word = w)))
  | .indirect => false
  | .packet k => decide (k < x.nextId) && x.active.all (fun b => decide (b.id ≠ k))

/-- Takes the packets that have completed off a queue; an INDIRECT may follow the packet of its last slot, five deep. -/
def State.pruneQueue (s : State) : Nat → Queue → Queue
  | 0, x => x
  | n + 1, x => s.pruneQueue n { x with active := x.active.filter (fun a => !s.pktDone x a) }

/-- Takes the packets that have completed off every queue. -/
def State.prune (s : State) : State := { s with queues := s.queues.map (fun (e : Nat × Queue) => (e.1, s.pruneQueue 6 e.2)) }

/-- The trailer fields and queue of a packet. -/
def pktHdr : Instr → Option PktHdr
  | .stopPkt h => some h
  | .waitTimelinePkt h _ _ => some h
  | .signalPkt h _ _ _ _ _ => some h
  | .fencePkt h => some h
  | .restripePkt h _ _ _ _ => some h
  | .launchPkt h _ => some h
  | .chainPkt h _ _ _ => some h
  | .indirectPkt h _ _ _ => some h
  | .setDeadlinePkt h _ _ => some h
  | .nopPkt h => some h
  | .contextPkt h _ _ _ _ _ _ => some h
  | _ => none

/-- The rank of a packet's type; 1 is highest (R310). -/
def pktRank : Instr → Nat
  | .stopPkt _ => 1
  | .waitTimelinePkt _ _ _ => 2
  | .signalPkt _ _ _ _ _ _ => 3
  | .fencePkt _ => 4
  | .restripePkt _ _ _ _ _ => 5
  | .launchPkt _ _ => 6
  | .chainPkt _ _ _ _ => 7
  | .indirectPkt _ _ _ _ => 8
  | .setDeadlinePkt _ _ _ => 9
  | .nopPkt _ => 10
  | _ => 11

/-- The class by which a packet is ordered: FENCE acts as class 2, and STOP waits for every earlier packet (R310, R311). -/
def pktClass (i : Instr) : Nat :=
  match i with
  | .fencePkt _ => 2
  | .stopPkt h => max 1 h.cls.toNat
  | i => ((pktHdr i).map (fun h => h.cls.toNat)).getD 0

/-- Whether the class of the next packet of a queue lets it start (R311). The INDIRECT packets in whose buffers it stands are
not earlier packets for it. -/
def Queue.classStarts (x : Queue) (i : Instr) : Bool :=
  let before := x.active.filter (fun a => !x.indirect.any (fun b => decide (b.pkt = a.id)))
  if pktClass i = 0 then before.all (fun a => decide (pktClass a.pkt ≠ 2)) else before.isEmpty

/-- Whether a running launch names a context, or a context has commands that have not completed (R310). -/
def State.ctxBusy (s : State) (ctx : Nat) : Bool :=
  s.launches.any (fun e => e.2.ctxs.contains (some ctx)) || !(s.ctx ctx).cmds.isEmpty

/-- Whether a packet waits for something beside its class: a context to be idle, or room in a command queue (R290, R310). -/
def State.pktWaits (s : State) (i : Instr) : Bool :=
  match i with
  | .contextPkt _ c _ _ _ _ _ => s.ctxBusy c.toNat
  | .chainPkt _ c n _ => decide (cmdCap < (s.ctx c.toNat).cmds.length + n.toNat)
  | .restripePkt _ c _ _ _ => decide (cmdCap < (s.ctx c.toNat).cmds.length + 1)
  | _ => false

/-- Whether the firmware core may serve a packet that a queue holds (R311, R313). -/
def State.mayServe (s : State) (q : Nat) (i : Instr) : Bool :=
  let x := s.queue q
  x.opened && !x.halt && !s.security.halted && decide (x.held = some i) && x.waiting.isNone && x.classStarts i && !s.pktWaits i

/-- A packet has started: it completes under a condition. -/
def State.served (s : State) (q : Nat) (i : Instr) (c : DoneWhen) : State :=
  let x := s.queue q
  s.setQueue q { x with held := none, age := 0, nextId := x.nextId + 1,
                        active := if c = .now then x.active else x.active ++ [{ id := x.nextId, pkt := i, cond := c }] }

/-- A packet that halts its queue with a code (R310). -/
def State.badPkt (s : State) (q : Nat) (i : Instr) (code : Nat) : State := (s.served q i .now).haltQueue q code

/-! The packets (R310 to R315). -/

/-- STOP: every earlier packet has completed; the queue halts without an error code. -/
def State.serveStop (s : State) (h : PktHdr) : State := (s.served h.q (.stopPkt h) .now).haltQueue h.q 0

/-- WAIT-TIMELINE. -/
def State.serveWaitTimeline (s : State) (h : PktHdr) (ctx : BitVec 8) (value : BitVec 64) : State :=
  s.served h.q (.waitTimelinePkt h ctx value) (.timeline ctx.toNat value.toNat)

/-- SIGNAL: the store as a release, then the vector. An address that cannot be stored to is a field outside its limit. -/
def State.serveSignal (s : State) (h : PktHdr) (ctx : BitVec 8) (irq : Bool) (vector : BitVec 8) (va value : BitVec 64) : State :=
  let i := Instr.signalPkt h ctx irq vector va value
  if (s.ctx ctx.toNat).valid = false then s.badPkt h.q i 5
  else
    match s.ctxWrite ctx.toNat va.toNat [loWord value.toNat, hiWord value.toNat] with
    | none => s.badPkt h.q i 5
    | some s1 => (s1.raise (if irq then some vector.toNat else none)).served h.q i .now

/-- FENCE: its acquire acts for every core (R312). -/
def State.serveFence (s : State) (h : PktHdr) : State :=
  (if h.fence.getLsbD 0 then (List.range Config.cores).foldl (fun s c => s.acquire c) s else s).served h.q (.fencePkt h) .now

/-- The size of the pages of a restripe, when all are mapped and of one size, and the placement may be given (R267, R310). -/
def State.restripeSize (s : State) (ctx va pages : Nat) (place : Word) : Option Nat :=
  let root := (s.ctx ctx).root
  match walkFrom s ctx va 4 0 root with
  | .page _ => none
  | .leaf e =>
    if (s.ctx ctx).valid && placeValid place && (s.reflex.contexts.getLsbD ctx || !placeReserved s.reflex place) &&
        decide (va % e.size = 0) && decide (va + pages * e.size ≤ 2 ^ 48) &&
        (List.range pages).all (fun k => match walkFrom s ctx (va + e.size * k) 4 0 root with
          | .page _ => false
          | .leaf x => decide (x.size = e.size)) then some e.size
    else none

/-- RESTRIPE: a command on the context's timeline (R227, R268). -/
def State.serveRestripe (s : State) (h : PktHdr) (ctx : BitVec 8) (pages : BitVec 32) (va : BitVec 64) (place : Word) : State :=
  let i := Instr.restripePkt h ctx pages va place
  match s.restripeSize ctx.toNat va.toNat pages.toNat place with
  | none => s.badPkt h.q i 5
  | some n =>
    let r := s.accept ctx.toNat none 0 0 (.restripe va.toNat pages.toNat n place)
    r.2.served h.q i (.timeline ctx.toNat r.1)

/-- The LAUNCH value of the LAUNCH packet that a queue holds (R14). -/
def State.launchWord (s : State) (q : Nat) : Word := BitVec.ofNat 32 (q * 2 ^ 27 + ((s.queue q).launches - 1) % 2 ^ 27)

/-- LAUNCH: a halt, a refusal, or a launch that waits for its start (R18, R30, R310, R315, R316). -/
def State.serveLaunch (s : State) (h : PktHdr) (b : LaunchBody) : State :=
  let i := Instr.launchPkt h b
  let word := s.launchWord h.q
  if s.recordOk b = false then s.badPkt h.q i 7
  else
    match s.judge word h.q h.fence b with
    | (.error r, s1) =>
      (s1.refuseLaunch word (((bodyCtxs b).headD none).getD 0) b.record.toNat
        (if b.flags.getLsbD 2 && decide (b.vector.toNat ≤ 31) then some b.vector.toNat else none) r).served h.q i .now
    | (.ok w, s1) =>
      let s2 := s1.served h.q i (.launch word)
      s2.setQueue h.q { s2.queue h.q with waiting := some { w with since := (s.queue h.q).heldAt } }

/-- CHAIN: hands descriptors to the context in address order (R291). An address that is no multiple of 64, and descriptors that cannot
be read, are a field outside its limit. -/
def State.serveChain (s : State) (h : PktHdr) (ctx : BitVec 8) (count : BitVec 32) (va : BitVec 64) : State :=
  let i := Instr.chainPkt h ctx count va
  if (s.ctx ctx.toNat).valid = false ∨ va.toNat % 64 ≠ 0 then s.badPkt h.q i 5
  else
    match s.ctxRead ctx.toNat va.toNat (16 * count.toNat) with
    | (none, s1) => s1.badPkt h.q i 5
    | (some ws, s1) =>
      let r := (entries 16 ws count.toNat).foldl (fun (acc : Nat × State) d => acc.2.accept ctx.toNat none 0 0 (.chain d)) (0, s1)
      r.2.served h.q i (.timeline ctx.toNat r.1)

/-- INDIRECT: the lane reads the named slots next; a fifth level of nesting, or a buffer that is open already, halts (R314). -/
def State.serveIndirect (s : State) (h : PktHdr) (ctx : BitVec 8) (count : BitVec 32) (va : BitVec 64) : State :=
  let i := Instr.indirectPkt h ctx count va
  let x := s.queue h.q
  let again := x.indirect.any (fun b => decide (b.ctx = ctx.toNat) && decide (b.va ≤ va.toNat) && decide (va.toNat < b.va + 256 * b.count))
  if 5 ≤ x.indirect.length ∨ again = true then s.badPkt h.q i 4
  else
    let s1 := s.served h.q i .indirect
    let y := s1.queue h.q
    s1.setQueue h.q { y with indirect := y.indirect ++
      [{ ctx := ctx.toNat, va := va.toNat, count := count.toNat, next := 0, pkt := x.nextId, last := none }] }

/-- SET-DEADLINE: a no-op for a launch that is not running (R310, R328). -/
def State.serveSetDeadline (s : State) (h : PktHdr) (launch : Word) (deadline : BitVec 64) : State :=
  (s.modLaunch launch.toNat (fun la => la.writeDeadline deadline.toNat false)).served h.q (.setDeadlinePkt h launch deadline) .now

/-- NOP. -/
def State.serveNop (s : State) (h : PktHdr) : State := s.served h.q (.nopPkt h) .now

/-- CONTEXT: writes the context table entry; an entry made valid starts its timeline at 0. Translations and cached descriptors
of the context go (R256, R310). -/
def State.serveContext (s : State) (h : PktHdr) (ctx : BitVec 8) (valid : Bool) (root hbase tbase pbase : BitVec 64) : State :=
  let s1 := s.dropTlb (fun e => decide (e.ctx = ctx.toNat))
  let old := s1.ctx ctx.toNat
  let e : EngineCtx := { valid := valid, root := root.toNat, hbase := hbase.toNat, tbase := tbase.toNat, pbase := pbase.toNat,
                         timeline := if valid then 0 else old.timeline, tail := if valid then 0 else old.tail, cmds := [] }
  ({ s1 with
      descs := s1.descs.filter (fun d => decide (d.ctx ≠ ctx.toNat))
      ctxs := Tbl.put s1.ctxs ctx.toNat e }).served h.q (.contextPkt h ctx valid root hbase tbase pbase) .now

/-- Serves a packet. -/
def State.serve (s : State) (i : Instr) : State :=
  match i with
  | .stopPkt h => s.serveStop h
  | .waitTimelinePkt h c v => s.serveWaitTimeline h c v
  | .signalPkt h c q v va x => s.serveSignal h c q v va x
  | .fencePkt h => s.serveFence h
  | .restripePkt h c n va p => s.serveRestripe h c n va p
  | .launchPkt h b => s.serveLaunch h b
  | .chainPkt h c n va => s.serveChain h c n va
  | .indirectPkt h c n va => s.serveIndirect h c n va
  | .setDeadlinePkt h l d => s.serveSetDeadline h l d
  | .nopPkt h => s.serveNop h
  | .contextPkt h c v r hb tb pb => s.serveContext h c v r hb tb pb
  | _ => s

/-- The firmware core serves a packet that its queue holds, if it may now. -/
def packet (i : Instr) (s : State) (body : PktHdr → State → State) : Outcome State :=
  match pktHdr i with
  | none => .next s
  | some h =>
    let s1 := s.prune
    if s1.mayServe h.q i then endStep (body h s1) else .next s

def execStopPkt (hdr : PktHdr) (s : State) : Outcome State := packet (.stopPkt hdr) s (fun h s => s.serveStop h)

def execWaitTimelinePkt (hdr : PktHdr) (ctx : BitVec 8) (value : BitVec 64) (s : State) : Outcome State :=
  packet (.waitTimelinePkt hdr ctx value) s (fun h s => s.serveWaitTimeline h ctx value)

def execSignalPkt (hdr : PktHdr) (ctx : BitVec 8) (irq : Bool) (vector : BitVec 8) (va value : BitVec 64) (s : State) : Outcome State :=
  packet (.signalPkt hdr ctx irq vector va value) s (fun h s => s.serveSignal h ctx irq vector va value)

def execFencePkt (hdr : PktHdr) (s : State) : Outcome State := packet (.fencePkt hdr) s (fun h s => s.serveFence h)

def execRestripePkt (hdr : PktHdr) (ctx : BitVec 8) (pages : BitVec 32) (va : BitVec 64) (place : Word) (s : State) : Outcome State :=
  packet (.restripePkt hdr ctx pages va place) s (fun h s => s.serveRestripe h ctx pages va place)

def execLaunchPkt (hdr : PktHdr) (body : LaunchBody) (s : State) : Outcome State :=
  packet (.launchPkt hdr body) s (fun h s => s.serveLaunch h body)

def execChainPkt (hdr : PktHdr) (ctx : BitVec 8) (count : BitVec 32) (va : BitVec 64) (s : State) : Outcome State :=
  packet (.chainPkt hdr ctx count va) s (fun h s => s.serveChain h ctx count va)

def execIndirectPkt (hdr : PktHdr) (ctx : BitVec 8) (count : BitVec 32) (va : BitVec 64) (s : State) : Outcome State :=
  packet (.indirectPkt hdr ctx count va) s (fun h s => s.serveIndirect h ctx count va)

def execSetDeadlinePkt (hdr : PktHdr) (launch : Word) (deadline : BitVec 64) (s : State) : Outcome State :=
  packet (.setDeadlinePkt hdr launch deadline) s (fun h s => s.serveSetDeadline h launch deadline)

def execNopPkt (hdr : PktHdr) (s : State) : Outcome State := packet (.nopPkt hdr) s (fun h s => s.serveNop h)

def execContextPkt (hdr : PktHdr) (ctx : BitVec 8) (valid : Bool) (root hbase tbase pbase : BitVec 64) (s : State) : Outcome State :=
  packet (.contextPkt hdr ctx valid root hbase tbase pbase) s (fun h s => s.serveContext h ctx valid root hbase tbase pbase)

/-! Fetch (R305, R308, R309, R314). -/

/-- Reads words in a row of a ring; none when they cannot be read. -/
def State.ringWords (s : State) (x : Queue) (a n : Nat) : Option (List Word) × State :=
  if x.space then
    (some (wordsAt s.hostMem a n), (List.range ((a % 64 + 4 * n + 63) / 64)).foldl (fun s i => s.hostTouch (a + 64 * i) false) s)
  else if Config.deviceBytes < a + 4 * n then (none, s)
  else
    let c := (s.recallRun a (4 * n)).consume 128 a (4 * n) false
    if c.1 then (none, c.2) else (some (wordsAt c.2.mem a n), c.2)

/-- Where the slot of a position of a queue lies (R305, R308). -/
def Queue.slotAt (x : Queue) (pos : Nat) : Nat := x.base + 256 * (pos % 2 ^ x.n)

/-- Closes the indirect buffers that are read to their end: each INDIRECT then completes with the packet of its last slot
(R314). -/
def Queue.closeRead : Nat → Queue → Queue
  | 0, x => x
  | n + 1, x =>
    match x.indirect.getLast? with
    | none => x
    | some b =>
      if b.next < b.count then x
      else
        let c : DoneWhen := match b.last with
          | some k => .packet k
          | none => .now
        Queue.closeRead n { x with
          indirect := x.indirect.dropLast
          active := x.active.map (fun (a : Active) => if a.id = b.pkt then { a with cond := c } else a) }

/-- A queue after a slot was read: the packet is held, or the queue halts (R310). -/
def State.takeSlot (s : State) (q : Nat) (x0 : Queue) (ws : List Word) : State :=
  let x := { x0 with heldAt := s.time }
  let x1 := { x with launches := if (fld (ws.getD 63 0) 0 8).toNat = 6 then x.launches + 1 else x.launches }
  match decodeSlot q ws with
  | .ok i => s.setQueue q { x1 with held := some i, age := 0 }
  | .error code => (s.setQueue q x1).haltQueue q code

/-- The next slot of a queue is read: from the indirect buffer that is open, else from the ring below the doorbell count once its
trailer, which is read first, carries the lap number (R308, R314). -/
def execSlotFetch (q : Nat) (s : State) : Outcome State :=
  let x0 := s.queue q
  if x0.opened = false ∨ x0.halt = true ∨ s.security.halted = true ∨ x0.held.isSome ∨ x0.waiting.isSome then .next s
  else
    let x := Queue.closeRead 6 x0
    match x.indirect.getLast? with
    | some b =>
      let step (last : Option Nat) : Queue := { x with indirect := x.indirect.dropLast ++ [{ b with next := b.next + 1, last := last }] }
      let read := if (s.ctx b.ctx).valid then s.ctxRead b.ctx (b.va + 256 * b.next) 64 else (none, s)
      match read with
      | (none, s1) => endStep ((s1.setQueue q (step none)).haltQueue q 6)
      | (some ws, s1) =>
        match decodeSlot q ws with
        | .ok _ => endStep (s1.takeSlot q (step (some x.nextId)) ws)
        | .error _ => endStep (s1.takeSlot q (step none) ws)
    | none =>
      if x.doorbell ≤ x.consumed then .next (s.setQueue q x)
      else
        let fail (s : State) : State := (s.setQueue q { x with consumed := x.consumed + 1 }).haltQueue q 6
        match s.ringWords x (x.slotAt x.consumed + 252) 1 with
        | (none, s1) => endStep (fail s1)
        | (some ts, s1) =>
          if (fld (ts.headD 0) 24 8).toNat ≠ (x.consumed / 2 ^ x.n + 1) % 256 then .next (s1.setQueue q x)
          else
            match s1.ringWords x (x.slotAt x.consumed) 64 with
            | (none, s2) => endStep (fail s2)
            | (some ws, s2) => endStep (s2.takeSlot q { x with consumed := x.consumed + 1 } ws)

/-! Rounds (R313). -/

/-- The queues whose lanes hold a packet at the start of a round. -/
def State.holding (s : State) : List (Nat × Instr) :=
  (List.range 32).filterMap (fun q => match (s.queue q).held with
    | some i => if s.mayServe q i then some (q, i) else none
    | none => none)

/-- The rank that a round serves: the highest among lanes that have waited 64 rounds, else among all (R313). -/
def State.servedRank (s : State) (hs : List (Nat × Instr)) : Nat :=
  let aged := hs.filter (fun h => decide (64 ≤ (s.queue h.1).age))
  ((if aged = [] then hs else aged).map (fun h => pktRank h.2)).foldl min 11

/-- Every lane whose next slot is ready holds its packet (R308, R313). -/
def State.fetchAll (s : State) : State :=
  (List.range 32).foldl (fun s q => match execSlotFetch q s with
    | .next t => t
    | _ => s) s

/-- A round of the firmware core: each lane holds the next packet of its queue that is ready, every lane that holds the served type proceeds,
in ascending queue number, and the others hold their packets one round longer (R313). -/
def execFirmwareCoreRound (s0 : State) : Outcome State :=
  let s := s0.fetchAll.prune
  let hs := s.holding
  if hs = [] then .next s0
  else
    let r := s.servedRank hs
    let s1 := hs.foldl (fun s h =>
      if pktRank h.2 = r then (if s.mayServe h.1 h.2 then s.serve h.2 else s)
      else s.setQueue h.1 { s.queue h.1 with age := (s.queue h.1).age + 1 }) { s with round := s.round + 1 }
    endStep s1

/-! Queue registers (R306). -/

/-- Whether the host may write registers: start-up has come to step 4, and no class A alarm holds (R348, R350). -/
def State.hostWrites (s : State) : Bool := decide (3 ≤ s.security.booted) && !s.security.halted

/-- Whether the host may write the registers of a queue. -/
def State.hostReaches (s : State) (q : Nat) : Bool := decide (q < 32) && s.hostWrites

/-- OPEN: EN is 1 and the queue is not halted, and accepted word 0 has been written (R306). -/
def Queue.isOpen (x : Queue) : Bool := x.opened && !x.halt

/-- A queue opens at position 0 (R306). -/
def Queue.start (x : Queue) : Queue := { x with opened := true, consumed := 0, launches := 0, held := none, age := 0, indirect := [] }

/-- The host advances the producer count; a lower value is ignored (R306). -/
def execDoorbell (q : Nat) (v : BitVec 64) (s : State) : Outcome State :=
  if s.hostReaches q && decide ((s.queue q).doorbell ≤ v.toNat) then .next (s.setQueue q { s.queue q with doorbell := v.toNat }) else .next s

/-- The host sets EN (R306): the queue opens once accepted word 0 has been written; with a slot count outside 4 to 12 EN stays
0. -/
def execQueueOpen (q : Nat) (s : State) : Outcome State :=
  let x := s.queue q
  if s.hostReaches q && !x.en && decide (4 ≤ x.n) && decide (x.n ≤ 12) then
    let y := { x with en := true }
    .next (s.setQueue q (if s.acceptedW then y.start else y))
  else .next s

/-- The host clears EN (R306): started packets run to completion, the rest are dropped. -/
def execQueueClose (q : Nat) (s : State) : Outcome State :=
  let x := s.queue q
  if s.hostReaches q && x.en then
    let s1 := s.launchGone q false
    let y := s1.queue q
    let stays (a : Active) : Bool := decide (a.cond ≠ .indirect)
    .next (s1.setQueue q { y with en := false, opened := false, doorbell := 0, held := none, age := 0, indirect := [],
                                  active := y.active.filter stays })
  else .next s

/-- The host clears HALT (R306): the queue resumes at the next position. -/
def execHaltClear (q : Nat) (s : State) : Outcome State :=
  if s.hostReaches q && (s.queue q).halt then .next (s.setQueue q { s.queue q with halt := false, error := 0 }) else .next s

end Sys2Proof.Machine
end

