-- ==== Sys2Proof/Machine/Device.lean ====
section
/-! DEFINITION. The device as a whole: start-up and attestation (R348), alarms (R350), power (R349), the host's register and
memory accesses (R279, R306, R307, R317, R318), global time (R326), stored-data errors (R206, R351) and the CXL.cache agent
(R178). -/

namespace Sys2Proof.Machine

/-! Start-up, resets and alarms (R348, R350). -/

/-- The device after a reset: what the host, the power supply and the model's own fields hold stays. A warm reset keeps the
alarm registers and the memory (log entry 12). -/
def State.afterReset (s : State) (warm : Bool) : State :=
  { State.reset with
    hostMem := s.hostMem
    mem := if warm then s.mem else []
    placed := if warm then s.placed else []
    spanInPage := if warm then s.spanInPage else []
    errors := if warm then s.errors else []
    alarm := if warm then s.alarm else 0
    alarmStat := if warm then s.alarmStat else 0
    irqs := s.irqs
    hostReads := s.hostReads
    hostOps := s.hostOps
    inputs := s.inputs
    choices := s.choices
    freeCtr := s.freeCtr }

/-- A class A alarm: the key store is zeroed, every core and queue halts (R350). -/
def State.alarmA (s : State) : State := { s with security := { s.security with keysZero := true, halted := true } }

/-- The 64-byte blocks of device memory at which a fault ring of the largest size may start. -/
def ringBlocks : Nat := Config.deviceBytes / 64 - 2 ^ 16

/-- Steps 1 to 3 of start-up (R348): a signature failure is a class A alarm; else the attestation record holds the digest and the
version of the firmware, firmware sets up the fault ring, whose place and size are free values (log entry 38), and the device offers its
features. -/
def State.boot (s : State) (sigOk : Bool) : State :=
  if sigOk = false then s.alarmA
  else
    let d := s.draw
    { d.2 with
      frBase := BitVec.ofNat 48 (64 * (Config.ringBlock d.1 % ringBlocks))
      frLog := 6 + Config.ringLog d.1 % 11
      security := { s.security with booted := 3, digest := Config.firmwareDigest d.1, version := Config.firmwareVersion d.1 } }

/-- A reset and the start-up that follows. The state after a class A alarm is left only by a power cycle (R348, R350). -/
def execResetDevice (warm sigOk : Bool) (s : State) : Outcome State :=
  if warm && s.security.halted then .next s else .next ((s.afterReset warm).boot sigOk)

/-- The device signs its attestation record with its identity key, while it has it (R348). -/
def execAttestationSign (s : State) : Outcome State :=
  if s.security.keysZero || decide (s.security.booted < 3) then .next s
  else
    let d := s.draw
    .next { d.2 with security := { s.security with signature := some (Config.attestationSignature d.1) } }

/-- A class A alarm (R350). -/
def execClassAAlarm (cause : AlarmA) (s : State) : Outcome State :=
  match cause with
  | .signature => .next s.alarmA
  | .mesh => .next s.alarmA
  | .debugLock => .next s.alarmA

/-- The bit of a class B cause (R307). -/
def AlarmB.bit : AlarmB → BitVec 3
  | .voltage => 1
  | .clock => 2
  | .temperature => 4

/-- A class B alarm: its bit is set in ALARM and in the alarm status word, vector 31 is raised, and the device is reset; running
launches end without records (R350). -/
def execClassBAlarm (cause : AlarmB) (s : State) : Outcome State :=
  if s.security.halted then .next s
  else
    let s1 := { s with alarm := s.alarm ||| AlarmB.bit cause, alarmStat := s.alarmStat ||| AlarmB.bit cause, irqs := s.irqs ++ [31] }
    .next (s1.afterReset true)

/-! Registers of the host (R279, R306, R307). -/

/-- The first write of accepted word 0 fixes the accepted features, the reserve and the power mode; queues whose EN is set open
(R279, R306, R348). -/
def execAcceptedWord0Write (v : BitVec 64) (s : State) : Outcome State :=
  if s.hostWrites && !s.acceptedW then
    .next { s with
      accepted := v &&& Config.advertised
      acceptedW := true
      security := { s.security with booted := 6 }
      queues := s.queues.map (fun (e : Nat × Queue) => if e.2.en then (e.1, e.2.start) else e) }
  else .next s

/-- A write of a reflex or power register, which counts only before accepted word 0 is written (R307, R349). -/
def State.writeReflex (s : State) (off : Nat) (v : BitVec 64) : State :=
  if s.acceptedW then s
  else
    let r := s.reflex
    let word (i : Nat) : BitVec 256 :=
      (r.contexts &&& ~~~((0xFFFFFFFFFFFFFFFF : BitVec 256) <<< (64 * i))) ||| ((v.setWidth 256) <<< (64 * i))
    let p := v.toNat % 32
    match off with
    | 0x00 => { s with reflex := { r with halls := v.setWidth 32 } }
    | 0x04 => { s with reflex := { r with channels := v.setWidth 32 } }
    | 0x08 => { s with reflex := { r with period := if 1 ≤ p ∧ p ≤ 20 then p else 5 } }
    | 0x10 => { s with reflex := { r with phase := v.toNat } }
    | 0x20 => { s with reflex := { r with contexts := word 0 } }
    | 0x28 => { s with reflex := { r with contexts := word 1 } }
    | 0x30 => { s with reflex := { r with contexts := word 2 } }
    | 0x38 => { s with reflex := { r with contexts := word 3 } }
    | 0x40 => { s with pmode := if v.setWidth 2 = (3 : BitVec 2) then 1 else v.setWidth 2 }
    | _ => s

/-- A write of a queue register (R306). -/
def writeQueueReg (q off : Nat) (v : BitVec 64) (s : State) : Outcome State :=
  let x := s.queue q
  match off with
  | 0x00 =>
    if x.en then .next s
    else .next (s.setQueue q { x with base := v.toNat % 2 ^ 48 / 256 * 256, space := v.getLsbD 0 })
  | 0x08 =>
    if x.en then (if v.getLsbD 31 then .next s else execQueueClose q s)
    else
      let s1 := s.setQueue q { x with n := v.toNat % 16 }
      if v.getLsbD 31 then execQueueOpen q s1 else .next s1
  | 0x10 => execDoorbell q v s
  | 0x18 => if v.getLsbD 1 then execHaltClear q s else .next s
  | _ => .next s

/-- The host writes a register of the first register block, named by its offset (R279, R306, R307). Registers that are read-only
ignore it. -/
def execRegisterWrite (off : Nat) (v : BitVec 64) (s : State) : Outcome State :=
  if s.hostWrites = false then .next s
  else if off = 0x20 then execAcceptedWord0Write v s
  else if 0x800 ≤ off ∧ off < 0x880 then .next (s.writeReflex (off - 0x800) v)
  else if 0x1000 ≤ off ∧ off < 0x1800 then writeQueueReg ((off - 0x1000) / 64) ((off - 0x1000) % 64) v s
  else .next s

/-- What the host reads in the registers of a queue (R306): the doorbell count reads as zero. -/
def Queue.register (x : Queue) (off : Nat) : BitVec 64 :=
  match off with
  | 0x00 => BitVec.ofNat 64 (x.base / 256 * 256 % 2 ^ 48 + x.space.toNat)
  | 0x08 => BitVec.ofNat 64 (x.en.toNat * 2 ^ 31 + x.n % 16)
  | 0x18 => BitVec.ofNat 64 (x.consumed % 2 ^ 32 * 2 ^ 32 + x.error % 256 * 256 + x.halt.toNat * 2 + x.isOpen.toNat)
  | _ => 0

/-- What the host reads in the reflex, alarm and power registers (R307). -/
def State.reflexRegister (s : State) (off : Nat) : BitVec 64 :=
  let r := s.reflex
  match off with
  | 0x00 => r.halls.setWidth 64
  | 0x04 => r.channels.setWidth 64
  | 0x08 => BitVec.ofNat 64 r.period
  | 0x10 => BitVec.ofNat 64 r.phase
  | 0x18 => s.alarmStat.setWidth 64
  | 0x20 => r.contexts.extractLsb' 0 64
  | 0x28 => r.contexts.extractLsb' 64 64
  | 0x30 => r.contexts.extractLsb' 128 64
  | 0x38 => r.contexts.extractLsb' 192 64
  | 0x40 => s.pmode.setWidth 64
  | _ => 0

/-- What the host reads at an offset of the first register block, which changes nothing (R3, R279, R306, R307, R327): a register that
is written only reads as zero; none where the manual puts no register, and after a class A alarm (R350). -/
def State.hostRegister (s : State) (off : Nat) : Option (BitVec 64) :=
  if s.security.halted then none
  else if off < 0x40 then
    if off % 8 ≠ 0 then none else some (if off = 0 then Config.advertised else if off = 0x20 then s.accepted else 0)
  else if 0x800 ≤ off ∧ off < 0x848 then
    if off % 8 ≠ 0 ∧ off ≠ 0x804 then none else some (s.reflexRegister (off - 0x800))
  else if 0x1000 ≤ off ∧ off < 0x1800 then
    if off % 8 ≠ 0 then none else some ((s.queue ((off - 0x1000) / 64)).register ((off - 0x1000) % 64))
  else if 0x2000 ≤ off ∧ off < 0x2800 then
    if off % 8 ≠ 0 then none else some (BitVec.ofNat 64 (s.ctx ((off - 0x2000) / 8)).timeline)
  else none

/-- The attestation record as the host reads it through CXL.io: the digest, the firmware version and the signature, if one was made (R348).
It can be read from step 2 of start-up on, and after a class A alarm (R350); the manual gives its registers no offset (log entry 62). -/
def State.hostAttestation (s : State) : Option (BitVec 256 × Word × Option (BitVec 512)) :=
  if 2 ≤ s.security.booted ∨ s.security.halted = true then some (s.security.digest, s.security.version, s.security.signature) else none

/-- Telemetry as the host reads it through CXL.io, with the overruns of the reflex reserve (R31, R351): it runs from step 3 of start-up on and
is not readable after a class A alarm (R350); the manual gives its registers no offset (log entry 62). -/
def State.hostTelemetry (s : State) : Option (Telemetry × Nat) :=
  if 3 ≤ s.security.booted ∧ s.security.halted = false then some (s.telemetry, s.reflex.overruns) else none

/-! Memory accesses of the host (R317, R318). -/

/-- The host reads an aligned word of device memory at its home; owned words are recalled first (R318). -/
def State.hostRead (s : State) (pa : Nat) : State :=
  let c := (s.consume 128 pa 4 false).2
  let r := c.homeRead pa 4
  { r.2 with hostReads := r.2.hostReads ++ [(pa, BitVec.ofNat 32 r.1)] }

/-- The host writes the enabled bytes of an aligned word of device memory at its home (R318). -/
def State.hostWrite (s : State) (pa : Nat) (v : Word) (be : BitVec 4) : State :=
  (List.range 4).foldl (fun s i =>
    if be.getLsbD i then s.homeWrite 128 (pa + i) 1 (v.toNat / 256 ^ i % 256) else s) s

/-- Whether an access of the host to device memory must wait: a write while it would change a word that a priority attempt has reserved
(R252). -/
def State.hostHeld (s : State) : HostOp → Bool
  | .read _ => false
  | .write pa v be => s.reserved.any (fun r => decide (wordAt s.mem r.pa ≠ wordAt (s.hostWrite pa v be).mem r.pa))

/-- Carries out an access of the host. -/
def State.hostDo (s : State) : HostOp → State
  | .read pa => s.hostRead pa
  | .write pa v be => s.hostWrite pa v be

/-- The host's accesses take effect in the order in which it issued them: one behind another that waits, waits too (R252, R318). -/
def State.hostAccess (s : State) (o : HostOp) : State :=
  if s.hostOps.isEmpty && !s.hostHeld o then s.hostDo o else { s with hostOps := s.hostOps ++ [o] }

/-- The first waiting access of the host takes effect, if it must not wait any longer (R252). -/
def State.hostNext (s : State) : Option State :=
  match s.hostOps with
  | [] => none
  | o :: os => if s.hostHeld o then none else some ({ s with hostOps := os }.hostDo o)

/-- Whether the host can access an aligned word of device memory (R317, R350). -/
def State.hostMaps (s : State) (pa : Nat) : Bool :=
  !s.security.halted && decide (pa % 4 = 0) && decide (pa + 4 ≤ Config.deviceBytes)

/-- A read of the host (R318). -/
def execHostCxlMemRead (pa : Nat) (s : State) : Outcome State :=
  if s.hostMaps pa then .next (s.hostAccess (.read pa)) else .next s

/-- A write of the host (R318). -/
def execHostCxlMemWrite (pa : Nat) (v : Word) (be : BitVec 4) (s : State) : Outcome State :=
  if s.hostMaps pa then .next (s.hostAccess (.write pa v be)) else .next s

/-- The host's snoop of a line that the CXL.cache agent holds (R178). -/
def execCxlCacheSnoop (line : Nat) (kind : SnoopKind) (s : State) : Outcome State :=
  match kind with
  | .giveUp => .next { s with hostLines := s.hostLines.filter (fun h => decide (h.line ≠ line)) }
  | .downgrade =>
    .next { s with hostLines := s.hostLines.map (fun (h : HostLine) => if h.line = line then { h with exclusive := false } else h) }

/-! Time, power and background activity (R206, R326, R349, R351). -/

/-- Precision Time Measurement gives the host's time: the first takes it over, unless global time has passed it; later ones change the
rate of global time, by a free value within 200 ppm, and its value never steps (R326, log entry 63). -/
def execPtmTimeSync (t : BitVec 64) (s : State) : Outcome State :=
  if s.synced then
    let d := s.draw
    .next { d.2 with rate := 999800 + Config.ptmRate d.1 % 401 }
  else .next { s with time := max s.time t.toNat, synced := true }

/-- The power cap withholds matrix issue outside the reflex reserve for some cycles (R349). -/
def execPowerCapWithhold (cycles : Nat) (s : State) : Outcome State :=
  let parts := (List.range 512).filter (fun k => !s.inReserve (k / 4))
  .next { s with matBusy := parts.foldl (fun t k => Tbl.put t k (max ((Tbl.find t k).getD 0) (s.cycle + cycles))) s.matBusy }

/-- A leaf of a valid context that maps a physical address (R262). -/
def State.mappedAt (s : State) (pa : Nat) : Option TlbEntry := s.leaves.find? (fun e => e.holds pa)

/-- Where the word at a physical address has its home: by the placement under which its span holds data, else by that of a leaf that maps
it; none where nothing places it (R266). -/
def State.placedHome (s : State) (pa : Nat) : Option Nat :=
  if Cells.get s.placed (pa / 4096) ≠ 0 then some (s.homeAt pa) else (s.mappedAt pa).map (fun e => homeOf e.place (pa - e.pa))

/-- Whether a physical address lies on a reserved channel (R28, R266). -/
def State.onReserved (s : State) (pa : Nat) : Bool :=
  match s.placedHome pa with
  | none => false
  | some h => decide (h < 32) && decide (s.reflex.halls ≠ 0) && s.reflex.channels.getLsbD h

/-- Patrol scrubbing reads a word: a single-bit error is corrected and counted, an uncorrectable one is only logged. On reserved channels
it does not run while a reflex launch runs or the window is open (R206, R351). -/
def execPatrolScrub (pa : Nat) (s : State) : Outcome State :=
  if s.security.booted < 3 ∨ s.security.halted = true ∨ Config.deviceBytes < pa + 4 ∨
      (s.onReserved pa && (s.reflexRuns || s.reflex.windowOpen)) = true then .next s
  else
    let c := s.readErrors (fun e => e.within pa 4 && e.isHome)
    .next (if c.1 then { c.2 with telemetry := { c.2.telemetry with logged := c.2.telemetry.logged + 1 } } else c.2)

/-- A soft error arises in stored data (R206): for a private word, in the flight that is its unit, at the word with a number. -/
def execSoftError (place : ErrPlace) (unit addr : Nat) (fatal : Bool) (s : State) : Outcome State :=
  match place with
  | .priv => .next (s.modFlight unit (fun f => { f with privErrs := f.privErrs ++ [(addr, fatal)] }))
  | _ => .next { s with errors := s.errors ++ [{ place := place, unit := unit, addr := addr, fatal := fatal }] }

/-- A channel is calibrated for a moment; nothing that a program or the host could read changes (R351). -/
def execChannelCalibration (ch : Nat) (s : State) : Outcome State :=
  if ch < 32 then .next s else .next s

end Sys2Proof.Machine
end

