-- ==== Sys2Proof/Machine/Float.lean ====
section
/-! DEFINITION. Floating-point instructions (R113 to R117). -/

namespace Sys2Proof.Machine

/-- half(v, h) of R114. -/
def half (v : Word) (h : Bool) : Nat := if h then v.toNat / 65536 else v.toNat % 65536

/-- Two half results as one word, with the flags of both (R114). -/
def joinHalves (lo hi : FpRes) : FpRes := { bits := lo.bits + 65536 * hi.bits, flags := lo.flags ||| hi.flags }

/-- A packed operation on both halves of two words (R114). -/
def packed (op : Nat → Nat → FpRes) (a b : Word) : FpRes :=
  joinHalves (op (half a false) (half b false)) (op (half a true) (half b true))

/-- A packed operation on both halves of three words (R116). -/
def packed3 (op : Nat → Nat → Nat → FpRes) (a b c : Word) : FpRes :=
  joinHalves (op (half a false) (half b false) (half c false)) (op (half a true) (half b true) (half c true))

/-- FADD (R114). -/
def execFadd (d a b : Reg) (r : Bool) (s : State) : Outcome State :=
  aluOp (.fadd d a b r) d (flagged (fun f l => rneAdd (f.g l a) (f.g l b))) s

/-- FSUB (R114). -/
def execFsub (d a b : Reg) (r : Bool) (s : State) : Outcome State :=
  aluOp (.fsub d a b r) d (flagged (fun f l => fp32.add .rne (Fp.ofWord (f.g l a)) (Fp.ofWord (f.g l b)).neg)) s

/-- FMUL (R114). -/
def execFmul (d a b : Reg) (r : Bool) (s : State) : Outcome State :=
  aluOp (.fmul d a b r) d (flagged (fun f l => rneMul (f.g l a) (f.g l b))) s

/-- FMIN (R115). -/
def execFmin (d a b : Reg) (r : Bool) (s : State) : Outcome State :=
  aluOp (.fmin d a b r) d (flagged (fun f l => fp32.minmax false (f.g l a).toNat (f.g l b).toNat)) s

/-- FMAX (R115). -/
def execFmax (d a b : Reg) (r : Bool) (s : State) : Outcome State :=
  aluOp (.fmax d a b r) d (flagged (fun f l => fp32.minmax true (f.g l a).toNat (f.g l b).toNat)) s

/-- HADD2.BF (R114). -/
def execHadd2Bf (d a b : Reg) (r : Bool) (s : State) : Outcome State :=
  aluOp (.hadd2Bf d a b r) d (flagged (fun f l => packed (fun x y => bf16.add .rne (bf16.read x) (bf16.read y)) (f.g l a) (f.g l b))) s

/-- HMUL2.BF (R114). -/
def execHmul2Bf (d a b : Reg) (r : Bool) (s : State) : Outcome State :=
  aluOp (.hmul2Bf d a b r) d (flagged (fun f l => packed (fun x y => bf16.mul .rne (bf16.read x) (bf16.read y)) (f.g l a) (f.g l b))) s

/-- HADD2.HF (R114). -/
def execHadd2Hf (d a b : Reg) (r : Bool) (s : State) : Outcome State :=
  aluOp (.hadd2Hf d a b r) d (flagged (fun f l => packed (fun x y => fp16.add .rne (fp16.read x) (fp16.read y)) (f.g l a) (f.g l b))) s

/-- HMUL2.HF (R114). -/
def execHmul2Hf (d a b : Reg) (r : Bool) (s : State) : Outcome State :=
  aluOp (.hmul2Hf d a b r) d (flagged (fun f l => packed (fun x y => fp16.mul .rne (fp16.read x) (fp16.read y)) (f.g l a) (f.g l b))) s

/-- HMIN2.BF (R114, R115). -/
def execHmin2Bf (d a b : Reg) (r : Bool) (s : State) : Outcome State :=
  aluOp (.hmin2Bf d a b r) d (flagged (fun f l => packed (bf16.minmax false) (f.g l a) (f.g l b))) s

/-- HMAX2.BF (R114, R115). -/
def execHmax2Bf (d a b : Reg) (r : Bool) (s : State) : Outcome State :=
  aluOp (.hmax2Bf d a b r) d (flagged (fun f l => packed (bf16.minmax true) (f.g l a) (f.g l b))) s

/-- FFMA (R116). -/
def execFfma (d a b : Reg) (r : Bool) (c : Reg) (mode : RMode) (s : State) : Outcome State :=
  aluOp (.ffma d a b r c mode) d (flagged (fun f l => fp32.fma mode (Fp.ofWord (f.g l a)) (Fp.ofWord (f.g l b)) (Fp.ofWord (f.g l c)))) s

/-- FADDM (R116). -/
def execFaddm (d a b : Reg) (r : Bool) (mode : RMode) (s : State) : Outcome State :=
  aluOp (.faddm d a b r mode) d (flagged (fun f l => fp32.add mode (Fp.ofWord (f.g l a)) (Fp.ofWord (f.g l b)))) s

/-- FMULM (R116). -/
def execFmulm (d a b : Reg) (r : Bool) (mode : RMode) (s : State) : Outcome State :=
  aluOp (.fmulm d a b r mode) d (flagged (fun f l => fp32.mul mode (Fp.ofWord (f.g l a)) (Fp.ofWord (f.g l b)))) s

/-- HFMA2.BF (R116). -/
def execHfma2Bf (d a b : Reg) (r : Bool) (c : Reg) (mode : RMode) (s : State) : Outcome State :=
  aluOp (.hfma2Bf d a b r c mode) d (flagged (fun f l => packed3 (fun x y z => bf16.fma mode (bf16.read x) (bf16.read y) (bf16.read z)) (f.g l a) (f.g l b) (f.g l c))) s

/-- HFMA2.HF (R116). -/
def execHfma2Hf (d a b : Reg) (r : Bool) (c : Reg) (mode : RMode) (s : State) : Outcome State :=
  aluOp (.hfma2Hf d a b r c mode) d (flagged (fun f l => packed3 (fun x y z => fp16.fma mode (fp16.read x) (fp16.read y) (fp16.read z)) (f.g l a) (f.g l b) (f.g l c))) s

/-- FADDI (R117). -/
def execFaddi (d a : Reg) (r : Bool) (imm : Word) (s : State) : Outcome State :=
  aluOp (.faddi d a r imm) d (flagged (fun f l => rneAdd (f.g l a) imm)) s

/-- FMULI (R117). -/
def execFmuli (d a : Reg) (r : Bool) (imm : Word) (s : State) : Outcome State :=
  aluOp (.fmuli d a r imm) d (flagged (fun f l => rneMul (f.g l a) imm)) s

end Sys2Proof.Machine
end

