-- ==== Sys2Proof/Machine/Int.lean ====
section
/-! DEFINITION. Integer instructions (R74 to R80). -/

namespace Sys2Proof.Machine

/-- A 32-bit result of an integer, taken mod 2^32. -/
def word32 (i : Int) : Word := BitVec.ofInt 32 i

/-- The low and high words of a 64-bit value (R79). -/
def pairOf (v : DWord) : List Word := [v.setWidth 32, (v >>> 32).setWidth 32]

/-- The bits of a word reversed (R75). -/
def brevWord (a : Word) : Word := (List.range 32).foldl (fun w i => if a.getLsbD i then w ||| BitVec.twoPow 32 (31 - i) else w) 0

/-- The number of one bits (R75). -/
def popcWord (a : Word) : Word := BitVec.ofNat 32 (lanesOf a).length

/-- The number of leading zero bits (R75). -/
def clzWord (a : Word) : Word := if a = 0 then 32 else BitVec.ofNat 32 (31 - Nat.log2 a.toNat)

/-- The shift amount of R75. -/
def shiftAmount (b : Word) : Nat := b.toNat % 256

/-- SHL, SHR, SAR of R75. -/
def shlWord (a b : Word) : Word := if shiftAmount b < 32 then a <<< shiftAmount b else 0
def shrWord (a b : Word) : Word := if shiftAmount b < 32 then a >>> shiftAmount b else 0
def sarWord (a b : Word) : Word :=
  if shiftAmount b < 32 then a.sshiftRight (shiftAmount b) else if a.msb then 0xFFFFFFFF else 0

/-- A bit mask of len bits. -/
def lowBits (len : Nat) : Word := BitVec.ofNat 32 (2 ^ len - 1)

/-- BFE: the field of len bits at pos, extended (R78). -/
def bfeWord (a : Word) (sgn : Bool) (len pos : Nat) : Word :=
  let f := (a >>> pos) &&& lowBits len
  if sgn && f.getLsbD (len - 1) then f ||| ~~~(lowBits len) else f

/-- BFI: a with the field of len bits at pos replaced by the low bits of b (R78). -/
def bfiWord (a b : Word) (len pos : Nat) : Word :=
  (a &&& ~~~(lowBits len <<< pos)) ||| ((b &&& lowBits len) <<< pos)

/-- DIVI, DIVN, REMI, REMN of R80. -/
def diviWord (a c : Word) : Word := if c = 0 then 0xFFFFFFFF else word32 (Int.tdiv a.toInt c.toInt)
def divnWord (a c : Word) : Word := if c = 0 then 0xFFFFFFFF else BitVec.ofNat 32 (a.toNat / c.toNat)
def remiWord (a c : Word) : Word := if c = 0 then a else word32 (a.toInt - c.toInt * Int.tdiv a.toInt c.toInt)
def remnWord (a c : Word) : Word := if c = 0 then a else BitVec.ofNat 32 (a.toNat % c.toNat)

/-- IADD (R75). -/
def execIadd (d a b : Reg) (r : Bool) (s : State) : Outcome State :=
  aluOp (.iadd d a b r) d (plain (fun f l => f.g l a + f.g l b)) s

/-- ISUB (R75). -/
def execIsub (d a b : Reg) (r : Bool) (s : State) : Outcome State :=
  aluOp (.isub d a b r) d (plain (fun f l => f.g l a - f.g l b)) s

/-- IMUL (R75). -/
def execImul (d a b : Reg) (r : Bool) (s : State) : Outcome State :=
  aluOp (.imul d a b r) d (plain (fun f l => f.g l a * f.g l b)) s

/-- IMULH.i32 (R75). -/
def execImulhI (d a b : Reg) (r : Bool) (s : State) : Outcome State :=
  aluOp (.imulhI d a b r) d (plain (fun f l => word32 ((f.g l a).toInt * (f.g l b).toInt / 2 ^ 32))) s

/-- IMULH.n32 (R75). -/
def execImulhN (d a b : Reg) (r : Bool) (s : State) : Outcome State :=
  aluOp (.imulhN d a b r) d (plain (fun f l => BitVec.ofNat 32 ((f.g l a).toNat * (f.g l b).toNat / 2 ^ 32))) s

/-- IMIN.i32 (R75). -/
def execIminI (d a b : Reg) (r : Bool) (s : State) : Outcome State :=
  aluOp (.iminI d a b r) d (plain (fun f l => if (f.g l b).slt (f.g l a) then f.g l b else f.g l a)) s

/-- IMIN.n32 (R75). -/
def execIminN (d a b : Reg) (r : Bool) (s : State) : Outcome State :=
  aluOp (.iminN d a b r) d (plain (fun f l => if f.g l b < f.g l a then f.g l b else f.g l a)) s

/-- IMAX.i32 (R75). -/
def execImaxI (d a b : Reg) (r : Bool) (s : State) : Outcome State :=
  aluOp (.imaxI d a b r) d (plain (fun f l => if (f.g l a).slt (f.g l b) then f.g l b else f.g l a)) s

/-- IMAX.n32 (R75). -/
def execImaxN (d a b : Reg) (r : Bool) (s : State) : Outcome State :=
  aluOp (.imaxN d a b r) d (plain (fun f l => if f.g l a < f.g l b then f.g l b else f.g l a)) s

/-- IABS (R75). -/
def execIabs (d a : Reg) (r : Bool) (s : State) : Outcome State :=
  aluOp (.iabs d a r) d (plain (fun f l => if (f.g l a).msb then 0 - f.g l a else f.g l a)) s

/-- AND (R75). -/
def execAnd (d a b : Reg) (r : Bool) (s : State) : Outcome State :=
  aluOp (.and d a b r) d (plain (fun f l => f.g l a &&& f.g l b)) s

/-- OR (R75). -/
def execOr (d a b : Reg) (r : Bool) (s : State) : Outcome State :=
  aluOp (.or d a b r) d (plain (fun f l => f.g l a ||| f.g l b)) s

/-- XOR (R75). -/
def execXor (d a b : Reg) (r : Bool) (s : State) : Outcome State :=
  aluOp (.xor d a b r) d (plain (fun f l => f.g l a ^^^ f.g l b)) s

/-- ANDN (R75). -/
def execAndn (d a b : Reg) (r : Bool) (s : State) : Outcome State :=
  aluOp (.andn d a b r) d (plain (fun f l => f.g l a &&& ~~~(f.g l b))) s

/-- SHL (R75). -/
def execShl (d a b : Reg) (r : Bool) (s : State) : Outcome State :=
  aluOp (.shl d a b r) d (plain (fun f l => shlWord (f.g l a) (f.g l b))) s

/-- SHR (R75). -/
def execShr (d a b : Reg) (r : Bool) (s : State) : Outcome State :=
  aluOp (.shr d a b r) d (plain (fun f l => shrWord (f.g l a) (f.g l b))) s

/-- SAR (R75). -/
def execSar (d a b : Reg) (r : Bool) (s : State) : Outcome State :=
  aluOp (.sar d a b r) d (plain (fun f l => sarWord (f.g l a) (f.g l b))) s

/-- ROTL (R75). -/
def execRotl (d a b : Reg) (r : Bool) (s : State) : Outcome State :=
  aluOp (.rotl d a b r) d (plain (fun f l => (f.g l a).rotateLeft (shiftAmount (f.g l b) % 32))) s

/-- POPC (R75). -/
def execPopc (d a : Reg) (r : Bool) (s : State) : Outcome State :=
  aluOp (.popc d a r) d (plain (fun f l => popcWord (f.g l a))) s

/-- CLZ (R75). -/
def execClz (d a : Reg) (r : Bool) (s : State) : Outcome State :=
  aluOp (.clz d a r) d (plain (fun f l => clzWord (f.g l a))) s

/-- BREV (R75). -/
def execBrev (d a : Reg) (r : Bool) (s : State) : Outcome State :=
  aluOp (.brev d a r) d (plain (fun f l => brevWord (f.g l a))) s

/-- IADDI (R76). -/
def execIaddi (d a : Reg) (imm : BitVec 8) (s : State) : Outcome State :=
  aluOp (.iaddi d a imm) d (plain (fun f l => f.g l a + imm.signExtend 32)) s

/-- SHLI (R76). -/
def execShli (d a : Reg) (imm : BitVec 5) (s : State) : Outcome State :=
  aluOp (.shli d a imm) d (plain (fun f l => f.g l a <<< imm.toNat)) s

/-- SHRI (R76). -/
def execShri (d a : Reg) (imm : BitVec 5) (s : State) : Outcome State :=
  aluOp (.shri d a imm) d (plain (fun f l => f.g l a >>> imm.toNat)) s

/-- SARI (R76). -/
def execSari (d a : Reg) (imm : BitVec 5) (s : State) : Outcome State :=
  aluOp (.sari d a imm) d (plain (fun f l => (f.g l a).sshiftRight imm.toNat)) s

/-- ANDI (R76). -/
def execAndi (d a : Reg) (imm : BitVec 8) (s : State) : Outcome State :=
  aluOp (.andi d a imm) d (plain (fun f l => f.g l a &&& imm.setWidth 32)) s

/-- ORI (R76). -/
def execOri (d a : Reg) (imm : BitVec 8) (s : State) : Outcome State :=
  aluOp (.ori d a imm) d (plain (fun f l => f.g l a ||| imm.setWidth 32)) s

/-- XORI (R76). -/
def execXori (d a : Reg) (imm : BitVec 8) (s : State) : Outcome State :=
  aluOp (.xori d a imm) d (plain (fun f l => f.g l a ^^^ imm.setWidth 32)) s

/-- IMAD (R77). -/
def execImad (d a b : Reg) (r : Bool) (c : Reg) (s : State) : Outcome State :=
  aluOp (.imad d a b r c) d (plain (fun f l => f.g l a * f.g l b + f.g l c)) s

/-- IADD32I (R77). -/
def execIadd32i (d a : Reg) (r : Bool) (imm : Word) (s : State) : Outcome State :=
  aluOp (.iadd32i d a r imm) d (plain (fun f l => f.g l a + imm)) s

/-- LEA (R77). -/
def execLea (d a b : Reg) (r : Bool) (sh : BitVec 5) (s : State) : Outcome State :=
  aluOp (.lea d a b r sh) d (plain (fun f l => f.g l a + (f.g l b <<< sh.toNat))) s

/-- BFE (R78). -/
def execBfe (d a : Reg) (r : Bool) (sgn : Bool) (len : BitVec 6) (pos : BitVec 5) (s : State) : Outcome State :=
  aluOp (.bfe d a r sgn len pos) d (plain (fun f l => bfeWord (f.g l a) sgn len.toNat pos.toNat)) s

/-- BFI (R78). -/
def execBfi (d a b : Reg) (r : Bool) (len : BitVec 6) (pos : BitVec 5) (s : State) : Outcome State :=
  aluOp (.bfi d a b r len pos) d (plain (fun f l => bfiWord (f.g l a) (f.g l b) len.toNat pos.toNat)) s

/-- IADD64 (R79). -/
def execIadd64 (d a b : Reg) (r : Bool) (s : State) : Outcome State :=
  aluOp (.iadd64 d a b r) d (fun f l => (pairOf (f.g64 l a + f.g64 l b), 0)) s

/-- IMULW.i32 (R79). -/
def execImulwI (d a b : Reg) (r : Bool) (s : State) : Outcome State :=
  aluOp (.imulwI d a b r) d (fun f l => (pairOf (BitVec.ofInt 64 ((f.g l a).toInt * (f.g l b).toInt)), 0)) s

/-- IMULW.n32 (R79). -/
def execImulwN (d a b : Reg) (r : Bool) (s : State) : Outcome State :=
  aluOp (.imulwN d a b r) d (fun f l => (pairOf (BitVec.ofNat 64 ((f.g l a).toNat * (f.g l b).toNat)), 0)) s

/-- DIVI (R80). -/
def execDivi (d a : Reg) (la : BitVec 4) (c : Reg) (s : State) : Outcome State :=
  longOp (.divi d a la c) d (plain (fun f l => diviWord (f.g l a) (f.g l c))) s

/-- DIVN (R80). -/
def execDivn (d a : Reg) (la : BitVec 4) (c : Reg) (s : State) : Outcome State :=
  longOp (.divn d a la c) d (plain (fun f l => divnWord (f.g l a) (f.g l c))) s

/-- REMI (R80). -/
def execRemi (d a : Reg) (la : BitVec 4) (c : Reg) (s : State) : Outcome State :=
  longOp (.remi d a la c) d (plain (fun f l => remiWord (f.g l a) (f.g l c))) s

/-- REMN (R80). -/
def execRemn (d a : Reg) (la : BitVec 4) (c : Reg) (s : State) : Outcome State :=
  longOp (.remn d a la c) d (plain (fun f l => remnWord (f.g l a) (f.g l c))) s

end Sys2Proof.Machine
end

