-- ==== Sys2Proof/Machine/Move.lean ====
section
/-! DEFINITION. Moves, special registers and uniform registers (R72, R73, R85 to R88). -/

namespace Sys2Proof.Machine

/-- The value of special register n as a lane reads it (R14, R72). -/
def specialReg (p : Place) (f : Flight) (l n : Nat) : Word :=
  let wg := p.la.wgAt p.core
  match n with
  | 0 => BitVec.ofNat 32 l
  | 1 => BitVec.ofNat 32 p.slotB.toNat
  | 2 => BitVec.ofNat 32 p.part
  | 3 => BitVec.ofNat 32 (p.key % 64)
  | 4 => BitVec.ofNat 32 p.core
  | 5 => BitVec.ofNat 32 (p.core / 4)
  | 6 => BitVec.ofNat 32 ((wg.map (·.gang)).getD 0)
  | 7 => BitVec.ofNat 32 f.role
  | 8 => BitVec.ofNat 32 ((wg.map (·.wgid)).getD 0)
  | 9 => f.launch
  | 10 => p.act
  | 11 => Cells.get f.own l
  | 12 => Cells.get f.iter l
  | 13 => f.fmask
  | 14 => f.fpstat
  | 15 => f.seed.setWidth 32
  | 16 => (f.seed >>> 32).setWidth 32
  | 17 => Cells.get f.scope l
  | 18 => BitVec.ofNat 32 p.la.deadline
  | 19 => BitVec.ofNat 32 (p.la.deadline / 2 ^ 32)
  | 20 => Cells.get f.astat l
  | _ => 0

/-- What SWR does with a value (R73): FMASK is cleared by ones, the others are written. -/
def Flight.writeSpecial (f : Flight) (n : Nat) (v : Word) : Flight :=
  match n with
  | 13 => { f with fmask := f.fmask &&& ~~~v }
  | 14 => { f with fpstat := v &&& 0x1F }
  | 15 => { f with seed := (f.seed >>> 32 <<< 32) ||| v.setWidth 64 }
  | 16 => { f with seed := (v.setWidth 64 <<< 32) ||| (f.seed &&& 0xFFFFFFFF) }
  | _ => f

/-- MOV (R85). -/
def execMov (d a : Reg) (r : Bool) (s : State) : Outcome State := aluOp (.mov d a r) d (plain (fun f l => f.g l a)) s

/-- MOVI (R85). -/
def execMovi (d : Reg) (imm : BitVec 8) (s : State) : Outcome State :=
  aluOp (.movi d imm) d (plain (fun _ _ => imm.signExtend 32)) s

/-- SRD (R73). -/
def execSrd (d : Reg) (n : BitVec 8) (s : State) : Outcome State :=
  localOp (.srd d n) s (fun p f => f.alu p.act d (plain (fun f l => specialReg p f l n.toNat)))

/-- SWR (R73): the value of the lowest active lane. -/
def execSwr (a : Reg) (n : BitVec 8) (s : State) : Outcome State :=
  localOp (.swr a n) s (fun p f => f.writeSpecial n.toNat (f.g (lowLane p.act) a))

/-- U2G (R88). -/
def execU2g (d : Reg) (sa : UReg) (r : Bool) (s : State) : Outcome State :=
  aluOp (.u2g d sa r) d (plain (fun f _ => f.u sa.toNat)) s

/-- G2U (R88): the value of the lowest active lane. -/
def execG2u (sd : UReg) (a : Reg) (s : State) : Outcome State :=
  localOp (.g2u sd a) s (fun p f => f.setU sd.toNat (f.g (lowLane p.act) a))

/-- UADD (R87). -/
def execUadd (sd sa sb : UReg) (s : State) : Outcome State :=
  localOp (.uadd sd sa sb) s (fun _ f => f.setU sd.toNat (f.u sa.toNat + f.u sb.toNat))

/-- UMOV (R87). -/
def execUmov (sd sa : UReg) (s : State) : Outcome State := localOp (.umov sd sa) s (fun _ f => f.setU sd.toNat (f.u sa.toNat))

/-- UAND (R87). -/
def execUand (sd sa sb : UReg) (s : State) : Outcome State :=
  localOp (.uand sd sa sb) s (fun _ f => f.setU sd.toNat (f.u sa.toNat &&& f.u sb.toNat))

/-- USHL (R87). -/
def execUshl (sd sa sb : UReg) (s : State) : Outcome State :=
  localOp (.ushl sd sa sb) s (fun _ f => f.setU sd.toNat
    (if (f.u sb.toNat).toNat % 256 < 32 then f.u sa.toNat <<< ((f.u sb.toNat).toNat % 256) else 0))

/-- UMOVI (R87). -/
def execUmovi (sd : UReg) (imm : BitVec 8) (s : State) : Outcome State :=
  localOp (.umovi sd imm) s (fun _ f => f.setU sd.toNat (imm.signExtend 32))

/-- MOV32I (R85). -/
def execMov32i (d : Reg) (r : Bool) (imm : Word) (s : State) : Outcome State :=
  aluOp (.mov32i d r imm) d (plain (fun _ _ => imm)) s

/-- UMOV32I (R87). -/
def execUmov32i (sd : UReg) (imm : Word) (s : State) : Outcome State :=
  localOp (.umov32i sd imm) s (fun _ f => f.setU sd.toNat imm)

end Sys2Proof.Machine
end

