-- ==== Sys2Proof/Machine/Dispatch.lean ====
section
/-! DEFINITION. The meaning of every row of the table of operations: one arm for each constructor of Instr. -/

namespace Sys2Proof.Machine

/-- Carries out one instruction, packet or event. -/
def exec (i : Instr) (s : State) : Host.Outcome State Fault Refusal :=
  match i with
  | .iadd d a b r => Sys2Proof.Machine.execIadd d a b r s
  | .isub d a b r => Sys2Proof.Machine.execIsub d a b r s
  | .imul d a b r => Sys2Proof.Machine.execImul d a b r s
  | .imulhI d a b r => Sys2Proof.Machine.execImulhI d a b r s
  | .imulhN d a b r => Sys2Proof.Machine.execImulhN d a b r s
  | .iminI d a b r => Sys2Proof.Machine.execIminI d a b r s
  | .iminN d a b r => Sys2Proof.Machine.execIminN d a b r s
  | .imaxI d a b r => Sys2Proof.Machine.execImaxI d a b r s
  | .imaxN d a b r => Sys2Proof.Machine.execImaxN d a b r s
  | .iabs d a r => Sys2Proof.Machine.execIabs d a r s
  | .and d a b r => Sys2Proof.Machine.execAnd d a b r s
  | .or d a b r => Sys2Proof.Machine.execOr d a b r s
  | .xor d a b r => Sys2Proof.Machine.execXor d a b r s
  | .andn d a b r => Sys2Proof.Machine.execAndn d a b r s
  | .shl d a b r => Sys2Proof.Machine.execShl d a b r s
  | .shr d a b r => Sys2Proof.Machine.execShr d a b r s
  | .sar d a b r => Sys2Proof.Machine.execSar d a b r s
  | .rotl d a b r => Sys2Proof.Machine.execRotl d a b r s
  | .popc d a r => Sys2Proof.Machine.execPopc d a r s
  | .clz d a r => Sys2Proof.Machine.execClz d a r s
  | .brev d a r => Sys2Proof.Machine.execBrev d a r s
  | .iaddi d a imm => Sys2Proof.Machine.execIaddi d a imm s
  | .shli d a imm => Sys2Proof.Machine.execShli d a imm s
  | .shri d a imm => Sys2Proof.Machine.execShri d a imm s
  | .sari d a imm => Sys2Proof.Machine.execSari d a imm s
  | .andi d a imm => Sys2Proof.Machine.execAndi d a imm s
  | .ori d a imm => Sys2Proof.Machine.execOri d a imm s
  | .xori d a imm => Sys2Proof.Machine.execXori d a imm s
  | .imad d a b r c => Sys2Proof.Machine.execImad d a b r c s
  | .iadd32i d a r imm => Sys2Proof.Machine.execIadd32i d a r imm s
  | .lea d a b r sh => Sys2Proof.Machine.execLea d a b r sh s
  | .bfe d a r sgn len pos => Sys2Proof.Machine.execBfe d a r sgn len pos s
  | .bfi d a b r len pos => Sys2Proof.Machine.execBfi d a b r len pos s
  | .iadd64 d a b r => Sys2Proof.Machine.execIadd64 d a b r s
  | .imulwI d a b r => Sys2Proof.Machine.execImulwI d a b r s
  | .imulwN d a b r => Sys2Proof.Machine.execImulwN d a b r s
  | .divi d a la c => Sys2Proof.Machine.execDivi d a la c s
  | .divn d a la c => Sys2Proof.Machine.execDivn d a la c s
  | .remi d a la c => Sys2Proof.Machine.execRemi d a la c s
  | .remn d a la c => Sys2Proof.Machine.execRemn d a la c s
  | .fadd d a b r => Sys2Proof.Machine.execFadd d a b r s
  | .fsub d a b r => Sys2Proof.Machine.execFsub d a b r s
  | .fmul d a b r => Sys2Proof.Machine.execFmul d a b r s
  | .fmin d a b r => Sys2Proof.Machine.execFmin d a b r s
  | .fmax d a b r => Sys2Proof.Machine.execFmax d a b r s
  | .hadd2Bf d a b r => Sys2Proof.Machine.execHadd2Bf d a b r s
  | .hmul2Bf d a b r => Sys2Proof.Machine.execHmul2Bf d a b r s
  | .hadd2Hf d a b r => Sys2Proof.Machine.execHadd2Hf d a b r s
  | .hmul2Hf d a b r => Sys2Proof.Machine.execHmul2Hf d a b r s
  | .hmin2Bf d a b r => Sys2Proof.Machine.execHmin2Bf d a b r s
  | .hmax2Bf d a b r => Sys2Proof.Machine.execHmax2Bf d a b r s
  | .ffma d a b r c mode => Sys2Proof.Machine.execFfma d a b r c mode s
  | .faddm d a b r mode => Sys2Proof.Machine.execFaddm d a b r mode s
  | .fmulm d a b r mode => Sys2Proof.Machine.execFmulm d a b r mode s
  | .hfma2Bf d a b r c mode => Sys2Proof.Machine.execHfma2Bf d a b r c mode s
  | .hfma2Hf d a b r c mode => Sys2Proof.Machine.execHfma2Hf d a b r c mode s
  | .faddi d a r imm => Sys2Proof.Machine.execFaddi d a r imm s
  | .fmuli d a r imm => Sys2Proof.Machine.execFmuli d a r imm s
  | .icmpI pd cc a b => Sys2Proof.Machine.execIcmpI pd cc a b s
  | .icmpN pd cc a b => Sys2Proof.Machine.execIcmpN pd cc a b s
  | .fcmp pd cc a b => Sys2Proof.Machine.execFcmp pd cc a b s
  | .icmpiI pd cc a imm => Sys2Proof.Machine.execIcmpiI pd cc a imm s
  | .pbool pd op na pa nb pb => Sys2Proof.Machine.execPbool pd op na pa nb pb s
  | .p2g d r => Sys2Proof.Machine.execP2g d r s
  | .g2p a => Sys2Proof.Machine.execG2p a s
  | .sel d a b r q qneg => Sys2Proof.Machine.execSel d a b r q qneg s
  | .frcp d a la => Sys2Proof.Machine.execFrcp d a la s
  | .frsq d a la => Sys2Proof.Machine.execFrsq d a la s
  | .fsqrt d a la => Sys2Proof.Machine.execFsqrt d a la s
  | .fexp2 d a la => Sys2Proof.Machine.execFexp2 d a la s
  | .flog2 d a la => Sys2Proof.Machine.execFlog2 d a la s
  | .fsinr d a la => Sys2Proof.Machine.execFsinr d a la s
  | .fcosr d a la => Sys2Proof.Machine.execFcosr d a la s
  | .frnd d a mode la => Sys2Proof.Machine.execFrnd d a mode la s
  | .fclass d a la => Sys2Proof.Machine.execFclass d a la s
  | .f2iI d a la => Sys2Proof.Machine.execF2iI d a la s
  | .f2iN d a la => Sys2Proof.Machine.execF2iN d a la s
  | .i2fI d a la => Sys2Proof.Machine.execI2fI d a la s
  | .i2fN d a la => Sys2Proof.Machine.execI2fN d a la s
  | .f2bf d a la => Sys2Proof.Machine.execF2bf d a la s
  | .bf2f d a la => Sys2Proof.Machine.execBf2f d a la s
  | .f2hf d a la => Sys2Proof.Machine.execF2hf d a la s
  | .hf2f d a la => Sys2Proof.Machine.execHf2f d a la s
  | .cvtn d a la c pack fmt => Sys2Proof.Machine.execCvtn d a la c pack fmt s
  | .unpn d a la c pack fmt => Sys2Proof.Machine.execUnpn d a la c pack fmt s
  | .f2iM d a la uns mode => Sys2Proof.Machine.execF2iM d a la uns mode s
  | .jmp off => Sys2Proof.Machine.execJmp off s
  | .call off => Sys2Proof.Machine.execCall off s
  | .ret => Sys2Proof.Machine.execRet s
  | .exit => Sys2Proof.Machine.execExit s
  | .nop => Sys2Proof.Machine.execNop s
  | .yield => Sys2Proof.Machine.execYield s
  | .sleep n => Sys2Proof.Machine.execSleep n s
  | .brk n => Sys2Proof.Machine.execBrk n s
  | .trap n => Sys2Proof.Machine.execTrap n s
  | .bra p neg off join => Sys2Proof.Machine.execBra p neg off join s
  | .brx a join => Sys2Proof.Machine.execBrx a join s
  | .mov d a r => Sys2Proof.Machine.execMov d a r s
  | .movi d imm => Sys2Proof.Machine.execMovi d imm s
  | .srd d n => Sys2Proof.Machine.execSrd d n s
  | .swr a n => Sys2Proof.Machine.execSwr a n s
  | .u2g d sa r => Sys2Proof.Machine.execU2g d sa r s
  | .g2u sd a => Sys2Proof.Machine.execG2u sd a s
  | .uadd sd sa sb => Sys2Proof.Machine.execUadd sd sa sb s
  | .umov sd sa => Sys2Proof.Machine.execUmov sd sa s
  | .uand sd sa sb => Sys2Proof.Machine.execUand sd sa sb s
  | .ushl sd sa sb => Sys2Proof.Machine.execUshl sd sa sb s
  | .umovi sd imm => Sys2Proof.Machine.execUmovi sd imm s
  | .mov32i d r imm => Sys2Proof.Machine.execMov32i d r imm s
  | .umov32i sd imm => Sys2Proof.Machine.execUmov32i sd imm s
  | .fenceAcq => Sys2Proof.Machine.execFenceAcq s
  | .fenceRel => Sys2Proof.Machine.execFenceRel s
  | .fenceAr => Sys2Proof.Machine.execFenceAr s
  | .ld d a na la h ord wd imm => Sys2Proof.Machine.execLd d a na la h ord wd imm s
  | .st d a na la h ord wd imm => Sys2Proof.Machine.execSt d a na la h ord wd imm s
  | .lds d a la win remote cih wd off => Sys2Proof.Machine.execLds d a la win remote cih wd off s
  | .sts d a la win remote cih wd off => Sys2Proof.Machine.execSts d a la win remote cih wd off s
  | .ldp d a la wd imm => Sys2Proof.Machine.execLdp d a la wd imm s
  | .stp d a la wd imm => Sys2Proof.Machine.execStp d a la wd imm s
  | .pref a l2 la h wd imm => Sys2Proof.Machine.execPref a l2 la h wd imm s
  | .gfetch d bm la t sa sb => Sys2Proof.Machine.execGfetch d bm la t sa sb s
  | .copyl d a n la h win remote cih lwin loff => Sys2Proof.Machine.execCopyl d a n la h win remote cih lwin loff s
  | .cctl a op la h imm => Sys2Proof.Machine.execCctl a op la h imm s
  | .aabort => Sys2Proof.Machine.execAabort s
  | .astat d la => Sys2Proof.Machine.execAstat d la s
  | .atom d a op la h ord wide imm => Sys2Proof.Machine.execAtom d a op la h ord wide imm s
  | .acas pd d a la h ord wide c imm => Sys2Proof.Machine.execAcas pd d a la h ord wide c imm s
  | .dcas pd d a la h1 h2 c ord => Sys2Proof.Machine.execDcas pd d a la h1 h2 c ord s
  | .amove d a wide la h1 h2 c ord => Sys2Proof.Machine.execAmove d a wide la h1 h2 c ord s
  | .abegin off => Sys2Proof.Machine.execAbegin off s
  | .aend rel acq pd => Sys2Proof.Machine.execAend rel acq pd s
  | .mzero d la => Sys2Proof.Machine.execMzero d la s
  | .midle d clr la => Sys2Proof.Machine.execMidle d clr la s
  | .mma d mc z la tA tB sa sb => Sys2Proof.Machine.execMma d mc z la tA tB sa sb s
  | .mmas d cr mc z la tA tB sa sb => Sys2Proof.Machine.execMmas d cr mc z la tA tB sa sb s
  | .mmag d mc z la tA tB sa sb => Sys2Proof.Machine.execMmag d mc z la tA tB sa sb s
  | .mstore d fmt la t sa => Sys2Proof.Machine.execMstore d fmt la t sa s
  | .mload d fmt la t sa => Sys2Proof.Machine.execMload d fmt la t sa s
  | .swz d a x => Sys2Proof.Machine.execSwz d a x s
  | .shfl d a b r => Sys2Proof.Machine.execShfl d a b r s
  | .vote pd op na pa => Sys2Proof.Machine.execVote pd op na pa s
  | .ballot d na pa => Sys2Proof.Machine.execBallot d na pa s
  | .scan d a ex op => Sys2Proof.Machine.execScan d a ex op s
  | .reduce d a op => Sys2Proof.Machine.execReduce d a op s
  | .matchLanes d a => Sys2Proof.Machine.execMatchLanes d a s
  | .expand d a g e la c gal => Sys2Proof.Machine.execExpand d a g e la c gal s
  | .enext d fin e la pd => Sys2Proof.Machine.execEnext d fin e la pd s
  | .segred d a e la pd op => Sys2Proof.Machine.execSegred d a e la pd op s
  | .xsect d a sgn la c pd qa qb => Sys2Proof.Machine.execXsect d a sgn la c pd qa qb s
  | .xmerge d a sgn la c pd qa qb => Sys2Proof.Machine.execXmerge d a sgn la c pd qa qb s
  | .scaleq d a q la fmt => Sys2Proof.Machine.execScaleq d a q la fmt s
  | .spawn pd a la role cnt => Sys2Proof.Machine.execSpawn pd a la role cnt s
  | .tfetch d la pd => Sys2Proof.Machine.execTfetch d la pd s
  | .atrPush d a la atr n pd h c => Sys2Proof.Machine.execAtrPush d a la atr n pd h c s
  | .atrPop d la atr win pd tmo off => Sys2Proof.Machine.execAtrPop d la atr win pd tmo off s
  | .atrPopTimeout fl seq => Sys2Proof.Machine.execAtrPopTimeout fl seq s
  | .atrRet a la atr rn c => Sys2Proof.Machine.execAtrRet a la atr rn c s
  | .cqry d a la h cx imm => Sys2Proof.Machine.execCqry d a la h cx imm s
  | .dstep d a la h cx imm => Sys2Proof.Machine.execDstep d a la h cx imm s
  | .fwait pd a atr la tmo => Sys2Proof.Machine.execFwait pd a atr la tmo s
  | .fwaitTimeout fl seq => Sys2Proof.Machine.execFwaitTimeout fl seq s
  | .ftest pd a atr la => Sys2Proof.Machine.execFtest pd a atr la s
  | .chain d a n la h cx imm => Sys2Proof.Machine.execChain d a n la h cx imm s
  | .poolAlloc d la pd q => Sys2Proof.Machine.execPoolAlloc d la pd q s
  | .poolFree a la q => Sys2Proof.Machine.execPoolFree a la q s
  | .scopeOpen d one any la pd => Sys2Proof.Machine.execScopeOpen d one any la pd s
  | .scopeClose la => Sys2Proof.Machine.execScopeClose la s
  | .cancel a la => Sys2Proof.Machine.execCancel a la s
  | .barSync k => Sys2Proof.Machine.execBarSync k s
  | .barArv d k => Sys2Proof.Machine.execBarArv d k s
  | .barWait a k => Sys2Proof.Machine.execBarWait a k s
  | .joinGal k => Sys2Proof.Machine.execJoinGal k s
  | .leaveGal k => Sys2Proof.Machine.execLeaveGal k s
  | .landWait d a => Sys2Proof.Machine.execLandWait d a s
  | .bestTake d r => Sys2Proof.Machine.execBestTake d r s
  | .bestInval d a r => Sys2Proof.Machine.execBestInval d a r s
  | .specMark a => Sys2Proof.Machine.execSpecMark a s
  | .specCommit a => Sys2Proof.Machine.execSpecCommit a s
  | .specBack => Sys2Proof.Machine.execSpecBack s
  | .rng d a b r => Sys2Proof.Machine.execRng d a b r s
  | .gtime d r => Sys2Proof.Machine.execGtime d r s
  | .barInit k n => Sys2Proof.Machine.execBarInit k n s
  | .barSyncn k n => Sys2Proof.Machine.execBarSyncn k n s
  | .landInit d a b r pd => Sys2Proof.Machine.execLandInit d a b r pd s
  | .tlwait pd cx a tmo => Sys2Proof.Machine.execTlwait pd cx a tmo s
  | .tlwaitTimeout fl slotB => Sys2Proof.Machine.execTlwaitTimeout fl slotB s
  | .dlSet a min => Sys2Proof.Machine.execDlSet a min s
  | .bestOffer pd d a b r => Sys2Proof.Machine.execBestOffer pd d a b r s
  | .grow pd n => Sys2Proof.Machine.execGrow pd n s
  | .growGrant fl slotB => Sys2Proof.Machine.execGrowGrant fl slotB s
  | .growDenial fl slotB => Sys2Proof.Machine.execGrowDenial fl slotB s
  | .shrink n => Sys2Proof.Machine.execShrink n s
  | .csrr d c => Sys2Proof.Machine.execCsrr d c s
  | .csrw a c => Sys2Proof.Machine.execCsrw a c s
  | .halt a => Sys2Proof.Machine.execHalt a s
  | .eret a => Sys2Proof.Machine.execEret a s
  | .tlbi d a b => Sys2Proof.Machine.execTlbi d a b s
  | .faultack a => Sys2Proof.Machine.execFaultack a s
  | .clauseDecode fl slotB => Sys2Proof.Machine.execClauseDecode fl slotB s
  | .slotAged fl slotB => Sys2Proof.Machine.execSlotAged fl slotB s
  | .longLatencyCompletion fl seq => Sys2Proof.Machine.execLongLatencyCompletion fl seq s
  | .sleepExpiry fl slotB => Sys2Proof.Machine.execSleepExpiry fl slotB s
  | .copylWordLanding core copy word => Sys2Proof.Machine.execCopylWordLanding core copy word s
  | .taskQueueFlightStart core => Sys2Proof.Machine.execTaskQueueFlightStart core s
  | .heldEventHandlerStart launch core => Sys2Proof.Machine.execHeldEventHandlerStart launch core s
  | .deadlineFire launch => Sys2Proof.Machine.execDeadlineFire launch s
  | .launchStart q => Sys2Proof.Machine.execLaunchStart q s
  | .launchCompletion launch => Sys2Proof.Machine.execLaunchCompletion launch s
  | .preemptionRequest launch gang => Sys2Proof.Machine.execPreemptionRequest launch gang s
  | .gangResume launch gang firstCore => Sys2Proof.Machine.execGangResume launch gang firstCore s
  | .reflexWindowOpen => Sys2Proof.Machine.execReflexWindowOpen s
  | .reflexBoundary => Sys2Proof.Machine.execReflexBoundary s
  | .reflexWindowClose => Sys2Proof.Machine.execReflexWindowClose s
  | .powerCapWithhold cycles => Sys2Proof.Machine.execPowerCapWithhold cycles s
  | .copyCmd ctx num => Sys2Proof.Machine.execCopyCmd ctx num s
  | .fillCmd ctx num => Sys2Proof.Machine.execFillCmd ctx num s
  | .reduceCopyCmd ctx num => Sys2Proof.Machine.execReduceCopyCmd ctx num s
  | .nopCmd ctx num => Sys2Proof.Machine.execNopCmd ctx num s
  | .collisionQuery ctx num => Sys2Proof.Machine.execCollisionQuery ctx num s
  | .dynamicsStep ctx num => Sys2Proof.Machine.execDynamicsStep ctx num s
  | .engineCommandCompletion ctx => Sys2Proof.Machine.execEngineCommandCompletion ctx s
  | .restripeHandover ctx num => Sys2Proof.Machine.execRestripeHandover ctx num s
  | .regionMerge region => Sys2Proof.Machine.execRegionMerge region s
  | .priorityReservationExpiry addr => Sys2Proof.Machine.execPriorityReservationExpiry addr s
  | .l1Eviction core idx => Sys2Proof.Machine.execL1Eviction core idx s
  | .translationEviction idx => Sys2Proof.Machine.execTranslationEviction idx s
  | .stopPkt hdr => Sys2Proof.Machine.execStopPkt hdr s
  | .waitTimelinePkt hdr ctx value => Sys2Proof.Machine.execWaitTimelinePkt hdr ctx value s
  | .signalPkt hdr ctx irq vector va value => Sys2Proof.Machine.execSignalPkt hdr ctx irq vector va value s
  | .fencePkt hdr => Sys2Proof.Machine.execFencePkt hdr s
  | .restripePkt hdr ctx pages va place => Sys2Proof.Machine.execRestripePkt hdr ctx pages va place s
  | .launchPkt hdr body => Sys2Proof.Machine.execLaunchPkt hdr body s
  | .chainPkt hdr ctx count va => Sys2Proof.Machine.execChainPkt hdr ctx count va s
  | .indirectPkt hdr ctx count va => Sys2Proof.Machine.execIndirectPkt hdr ctx count va s
  | .setDeadlinePkt hdr launch deadline => Sys2Proof.Machine.execSetDeadlinePkt hdr launch deadline s
  | .nopPkt hdr => Sys2Proof.Machine.execNopPkt hdr s
  | .contextPkt hdr ctx valid root hbase tbase pbase => Sys2Proof.Machine.execContextPkt hdr ctx valid root hbase tbase pbase s
  | .slotFetch q => Sys2Proof.Machine.execSlotFetch q s
  | .firmwareCoreRound => Sys2Proof.Machine.execFirmwareCoreRound s
  | .doorbell q v => Sys2Proof.Machine.execDoorbell q v s
  | .queueOpen q => Sys2Proof.Machine.execQueueOpen q s
  | .queueClose q => Sys2Proof.Machine.execQueueClose q s
  | .haltClear q => Sys2Proof.Machine.execHaltClear q s
  | .acceptedWord0Write v => Sys2Proof.Machine.execAcceptedWord0Write v s
  | .registerWrite off v => Sys2Proof.Machine.execRegisterWrite off v s
  | .hostCxlMemRead pa => Sys2Proof.Machine.execHostCxlMemRead pa s
  | .hostCxlMemWrite pa v be => Sys2Proof.Machine.execHostCxlMemWrite pa v be s
  | .resetDevice warm sigOk => Sys2Proof.Machine.execResetDevice warm sigOk s
  | .attestationSign => Sys2Proof.Machine.execAttestationSign s
  | .classAAlarm cause => Sys2Proof.Machine.execClassAAlarm cause s
  | .classBAlarm cause => Sys2Proof.Machine.execClassBAlarm cause s
  | .ptmTimeSync t => Sys2Proof.Machine.execPtmTimeSync t s
  | .patrolScrub pa => Sys2Proof.Machine.execPatrolScrub pa s
  | .softError place unit addr fatal => Sys2Proof.Machine.execSoftError place unit addr fatal s
  | .cxlCacheSnoop line kind => Sys2Proof.Machine.execCxlCacheSnoop line kind s
  | .channelCalibration ch => Sys2Proof.Machine.execChannelCalibration ch s

end Sys2Proof.Machine
end

