-- ==== Sys2Proof/Machine/Schedule.lean ====
section
/-! DEFINITION. What happens next: the slot that a partition issues from (R25 to R27), ageing (R26), the moves that the device
makes by itself, the clock (R1, R326), and the placing of an instruction to be run. -/

namespace Sys2Proof.Machine

/-! Choice of a slot (R25, R27). -/

/-- A flight whose slot is not held back by a YIELD (R89). -/
def Flight.unyield (f : Flight) (b : Bool) : Flight :=
  match (f.slot b).wait with
  | .yielded _ => f.setSlot b { f.slot b with wait := .none }
  | _ => f

/-- What a slot does next: it decodes its clause, or issues the instruction at its PC (R36, R55). -/
def State.slotInstr (s : State) (c : Cur) : Option Instr :=
  match s.flight c.flight with
  | none => none
  | some f =>
    match (f.slot c.slotB).clause with
    | none => some (.clauseDecode c.flight c.slotB)
    | some _ => (Tbl.find s.launches f.launch.toNat).bind (fun la => la.instrAt (f.slot c.slotB).pc)

/-- The state in which a slot issues. -/
def State.aim (s : State) (c : Cur) : State := { s.modFlight c.flight (fun f => f.unyield c.slotB) with cur := c }

/-- Whether an instruction leaves the flight of a slot that issues it in a state changed. -/
def State.moves (s : State) (c : Cur) (i : Instr) : Bool :=
  match exec i s with
  | .next t => decide (t.flight c.flight ≠ s.flight c.flight)
  | _ => true

/-- Whether a slot's next instruction could issue now: it does not when it must still wait for instructions pending before it, or for
room in the fault ring, which leaves its flight as it is. The next instruction of a slot that has still to decode its clause is the first of
that clause (R27, R50, R303). -/
def State.couldIssue (s : State) (c : Cur) : Bool :=
  match s.slotInstr c with
  | none => false
  | some i => (s.aim c).moves c i && (match i, exec i (s.aim c) with
      | .clauseDecode _ _, .next t => (match t.slotInstr c with
          | some (.clauseDecode _ _) => true
          | some j => (t.aim c).moves c j
          | none => true)
      | _, _ => true)

/-- The slots of all flights. -/
def State.slots (s : State) : List Cur := s.flights.flatMap (fun e => [{ flight := e.1, slotB := false }, { flight := e.1, slotB := true }])

/-- Whether a slot is ready (R27). -/
def State.curReady (s : State) (c : Cur) : Bool :=
  ((s.flight c.flight).map (fun f => s.slotReady c.flight f c.slotB)).getD false && s.couldIssue c

/-- Whether a slot would be ready but for a YIELD (R89). -/
def State.curYields (s : State) (c : Cur) : Bool :=
  ((s.flight c.flight).map (fun f =>
    !s.slotReady c.flight f c.slotB && s.slotReady c.flight (f.unyield c.slotB) c.slotB)).getD false && s.couldIssue c

/-- The slots that may issue in this cycle: the ready ones, and one that yields when no other slot of its partition is ready
(R27, R89). -/
def State.candidates (s : State) : List Cur :=
  let ready := s.slots.filter (fun c => s.curReady c)
  ready ++ s.slots.filter (fun c => s.curYields c && !ready.any (fun d => decide (d.flight / 16 = c.flight / 16)))

/-- What R25 compares, the smaller first: class, age, the slot that issued last, role priority, start order, FLIGHT, slot. -/
def State.rankOf (s : State) (c : Cur) : List Nat :=
  match s.flight c.flight with
  | none => []
  | some f =>
    match Tbl.find s.launches f.launch.toNat with
    | none => []
    | some la =>
      let x := f.slot c.slotB
      let last := decide (Tbl.find s.lastIssue (c.flight / 16) = some c) && !x.hint
      let prio := ((la.roles[f.role]?).map (fun r => r.priority)).getD 0
      [la.cls, if x.old then 0 else 1, if x.old then 2 ^ 64 - x.aged else 0, if last then 0 else 1, 3 - prio, f.order,
       c.flight % 64, c.slotB.toNat]

/-- Comparison of lists of numbers from the front. -/
def lexLess : List Nat → List Nat → Bool
  | [], _ => false
  | _ :: _, [] => false
  | x :: xs, y :: ys => decide (x < y) || (decide (x = y) && lexLess xs ys)

/-- The slot from which the next instruction issues. Of the partitions with a slot to issue from, the model takes the first
from a place that moves on every second cycle (log entry 5). -/
def State.pick (s : State) : Option Cur :=
  let cs := s.candidates
  let turn (c : Cur) : Nat := (c.flight / 16 + 512 - s.cycle / 2 % 512) % 512
  let first := (cs.map turn).foldl min 512
  (cs.filter (fun c => decide (turn c = first))).foldl (fun (b : Option Cur) c => match b with
    | none => some c
    | some d => if lexLess (s.rankOf c) (s.rankOf d) then some c else some d) none

/-- Ageing after an instruction issued from a slot: the other slots of its class on its partition that were ready have waited one
cycle more (R26). -/
def State.ageing (s0 : State) (c : Cur) (s : State) : State :=
  let cls (f : Flight) : Option Nat := (Tbl.find s0.launches f.launch.toNat).map (fun la => la.cls)
  let mine := (s0.flight c.flight).bind cls
  let one (k : Nat) (b : Bool) (f : Flight) : Flight :=
    let x := f.slot b
    let d : Cur := { flight := k, slotB := b }
    if d ≠ c ∧ k / 16 = c.flight / 16 ∧ cls f = mine ∧ s0.curReady d = true then f.setSlot b { x with aged := x.aged + 1 } else f
  let both (e : Nat × Flight) : Nat × Flight := (e.1, one e.1 true (one e.1 false e.2))
  { s with flights := s.flights.map both, lastIssue := Tbl.put s.lastIssue (c.flight / 16) c }

/-- The slots that are not ready lose their age (R26). -/
def State.unaged (s : State) : State :=
  let one (k : Nat) (b : Bool) (f : Flight) : Flight :=
    let x := f.slot b
    if x.aged = 0 ∧ x.old = false then f else if s.curReady { flight := k, slotB := b } then f else f.setSlot b { x with aged := 0, old := false }
  let both (e : Nat × Flight) : Nat × Flight := (e.1, one e.1 true (one e.1 false e.2))
  { s with flights := s.flights.map both }

/-! The clock. -/

/-- One cycle passes: 10/17 of a nanosecond, times the rate of global time (R1, R326). -/
def State.tick (s : State) : State :=
  { s with
    cycle := s.cycle + 1
    time := s.time + (s.subNs + 10 * s.rate) / 17000000
    subNs := (s.subNs + 10 * s.rate) % 17000000 }

/-! What the device does by itself. -/

/-- An event with its meaning. -/
abbrev Move := Instr × (State → Outcome State)

/-- Whether a move would change anything now. -/
def State.would (s : State) (m : Move) : Bool :=
  match m.2 s with
  | .next t => decide (t ≠ s)
  | _ => true

/-- Queue 0 is read as soon as a packet stands at its head, and the packet it holds is served before the contents of other queues
count (R30). -/
def State.queueZero (s : State) : List Move :=
  (.slotFetch 0, execSlotFetch 0) :: (if (s.queue 0).held.isSome then [(.firmwareCoreRound, execFirmwareCoreRound)] else [])

/-- The slots that have been ready for 256 issues of others become aged at once (R26). -/
def State.agings (s : State) : List Move :=
  (s.slots.filter (fun c => ((s.flight c.flight).map (fun f => decide (256 ≤ (f.slot c.slotB).aged))).getD false)).map
    (fun c => (.slotAged c.flight c.slotB, execSlotAged c.flight c.slotB))

/-- Ageing, deadlines, queue 0 and the reflex boundaries: they come before anything else. -/
def State.urgent (s : State) : List Move :=
  s.agings ++ s.launches.map (fun e => (.deadlineFire e.2.word, execDeadlineFire e.2.word)) ++ s.queueZero ++
    [(.reflexBoundary, execReflexBoundary), (.reflexWindowOpen, execReflexWindowOpen), (.reflexWindowClose, execReflexWindowClose)]

/-- Events of flights: ends of waits, completions, grants and denials. -/
def State.flightMoves (s : State) : List Move :=
  s.flights.flatMap (fun e => [false, true].flatMap (fun b =>
    [(.sleepExpiry e.1 b, execSleepExpiry e.1 b), (.tlwaitTimeout e.1 b, execTlwaitTimeout e.1 b)])) ++
  s.flights.flatMap (fun e => e.2.pending.flatMap (fun p =>
    [(.fwaitTimeout e.1 p.seq, execFwaitTimeout e.1 p.seq), (.atrPopTimeout e.1 p.seq, execAtrPopTimeout e.1 p.seq),
     (.longLatencyCompletion e.1 p.seq, execLongLatencyCompletion e.1 p.seq)])) ++
  s.growers.flatMap (fun e => e.2.flatMap (fun c =>
    [(.growGrant c.flight c.slotB, execGrowGrant c.flight c.slotB), (.growDenial c.flight c.slotB, execGrowDenial c.flight c.slotB)]))

/-- Events of cores: landings, handlers and task queues. -/
def State.coreMoves (s : State) : List Move :=
  s.copies.flatMap (fun e => e.2.flatMap (fun c => (List.range c.words.length).map (fun i =>
    (.copylWordLanding e.1 c.id i, execCopylWordLanding e.1 c.id i)))) ++
  s.launches.flatMap (fun e => e.2.wgs.map (fun w => (.heldEventHandlerStart e.2.word w.core, execHeldEventHandlerStart e.2.word w.core))) ++
  s.tasks.map (fun e => (.taskQueueFlightStart e.1, execTaskQueueFlightStart e.1))

/-- Events of engine contexts. -/
def State.engineMoves (s : State) : List Move :=
  s.ctxs.flatMap (fun e =>
    (.engineCommandCompletion e.1, execEngineCommandCompletion e.1) :: e.2.cmds.flatMap (fun c => match c.kind with
      | .chain _ =>
        [(.copyCmd e.1 c.num, execCopyCmd e.1 c.num), (.fillCmd e.1 c.num, execFillCmd e.1 c.num),
         (.reduceCopyCmd e.1 c.num, execReduceCopyCmd e.1 c.num), (.nopCmd e.1 c.num, execNopCmd e.1 c.num)]
      | .query _ _ => [(.collisionQuery e.1 c.num, execCollisionQuery e.1 c.num)]
      | .dyn _ _ => [(.dynamicsStep e.1 c.num, execDynamicsStep e.1 c.num)]
      | .restripe _ _ _ _ => [(.restripeHandover e.1 c.num, execRestripeHandover e.1 c.num)]))

/-- Events of launches and queues: starts, completions, resumptions, fetches and rounds. -/
def State.queueMoves (s : State) : List Move :=
  s.launches.map (fun e => (.launchCompletion e.2.word, execLaunchCompletion e.2.word)) ++
  s.queues.map (fun e => (.launchStart e.1, execLaunchStart e.1)) ++
  s.saved.flatMap (fun g =>
    let n := ((Tbl.find s.launches g.launch.toNat).map (fun la => la.gang)).getD 4
    (List.range (128 / n)).map (fun i => (.gangResume g.launch g.gang (n * i), execGangResume g.launch g.gang (n * i)))) ++
  s.queues.map (fun e => (.slotFetch e.1, execSlotFetch e.1)) ++
  [(.firmwareCoreRound, execFirmwareCoreRound)] ++
  s.reserved.map (fun r => (.priorityReservationExpiry r.pa, execPriorityReservationExpiry r.pa)) ++
  s.dir.map (fun e => (.regionMerge e.1, execRegionMerge e.1))

/-- The first event that would change something. -/
def State.event (s : State) : Option Instr :=
  ((s.flightMoves ++ s.coreMoves ++ s.engineMoves ++ s.queueMoves).find? (fun m => s.would m)).map (fun m => m.1)

/-- What a step does: an instruction or event, and the slot that it issues from. -/
structure Plan where
  instr : Instr
  slot  : Option Cur
deriving DecidableEq, Repr

/-- The issue of the chosen slot. -/
def State.issueNext (s : State) : Option Plan :=
  match s.pick with
  | none => none
  | some c => (s.slotInstr c).map (fun i => { instr := i, slot := some c })

/-- What happens next by itself: deadlines and boundaries first; then issue and events take turns, so that neither keeps the
other waiting (R35, log entry 5). -/
def State.plan (s : State) : Option Plan :=
  match s.urgent.find? (fun m => s.would m) with
  | some m => some { instr := m.1, slot := none }
  | none =>
    let ev (s : State) : Option Plan := s.event.map (fun i => { instr := i, slot := none })
    if s.cycle % 2 = 0 then
      match s.issueNext with
      | some p => some p
      | none => ev s
    else
      match ev s with
      | some p => some p
      | none => s.issueNext

/-- What a step of a plan adds to the instruction: the slots age, and a cycle passes. -/
def State.after (s : State) (p : Plan) (t : State) : State :=
  match p.slot, p.instr with
  | some _, .clauseDecode _ _ => t.unaged.tick
  | some c, _ => (s.ageing c t).unaged.tick
  | none, _ => t.unaged.tick

/-- Whether an instruction is one of a program's, which only a slot issues. -/
def Instr.inProgram (i : Instr) : Bool := !(encode i).isEmpty

/-- What may still happen from outside after a class A alarm, when every core and queue is halted (R350). -/
def Instr.whenHalted : Instr → Bool
  | .resetDevice _ _ => true
  | .classAAlarm _ => true
  | .attestationSign => true
  | .softError _ _ _ _ => true
  | .ptmTimeSync _ => true
  | .cxlCacheSnoop _ _ => true
  | _ => false

/-- Whether an entry of the inputs is passed over: a program's instruction, or, after a class A alarm, what cannot happen then. -/
def State.passes (s : State) (i : Instr) : Bool := Instr.inProgram i || (s.security.halted && !Instr.whenHalted i)

/-! Placing an instruction to be run (log entry 10). -/

/-- The kind of flight that may run an instruction: a resident one, else a handler, else firmware (R53, R345, R347). -/
def kindFor (i : Instr) : FlightKind :=
  if i.allowed .resident then .resident else if i.allowed .handler then .handler else .firmware

/-- A launch of one workgroup on core 0, whose code is a clause header and some words. -/
def oneLaunch (code : List Word) : Launch :=
  let r : Role := { entry := 0, allot := 128, flights := 1, priority := 0, handler := false, spawnable := false, traps := false,
                    privWords := 65536 }
  { word := 0, queue := 0, cls := 2, gang := 1, irq := none, ctxs := [some 0, none, none, none], record := 0, codeBase := 0, code := code,
    roles := [r], windows := [], seed := 0, deadline := 0,
    disp := { grouped := false, x := 1, y := 1, z := 1, chunk := 1, groups := [], group := 0, cursor := 0 },
    best := { offers := [], latched := none, stale := false, gen := 0 },
    scopes := [(0, { parent := 0, anytime := false, cancelled := false, head := none, nodes := [], lost := [] })], cancels := [], dlWrites := [],
    wgs := [newWg 0 0 0], ended := [], fault := 0, lost := 0, overrun := false, start := 0 }

/-- The header of an unguarded clause of n words for a class of instructions (R37, R38). -/
def headerFor (cls n : Nat) : Word := BitVec.ofNat 32 (0xF00F0000 + n * 2 ^ 24 + engineOf cls * 2 ^ 21)

/-- Puts two words where the next step fetches: a flight on core 0 whose open clause holds them. -/
def State.install (s : State) (w0 w1 : Word) : State :=
  let i := match decode w0 w1 with
    | .ok x => x
    | .error _ => .nop
  let n := i.words
  let h := headerFor (fld w0 28 4).toNat n
  let la := oneLaunch [h, w0, w1]
  let f := newFlight la (kindFor i) 0 ((la.roles.head?).getD ⟨0, 128, 1, 0, false, false, false, 65536⟩) s.flightSeq (BitVec.allOnes 32)
  let x : Slot := { f.a with pc := 4, clause := some { hdr := h, base := 0, guard := none } }
  { s with flights := [(0, { f with a := x, privBase := 0 })], launches := [(0, la)], inputs := [], cycle := s.cycle / 2 * 2, flightSeq := s.flightSeq + 1 }

end Sys2Proof.Machine
end

