-- ==== Sys2Proof/Machine/Step.lean ====
section
/-! DEFINITION. One step of the machine, and the placing of an instruction word where the next step fetches. -/

namespace Sys2Proof.Machine

/-- One step: the next action of the host or event from outside, if one stands in the inputs; else an access of the host that has
waited (R252); else what happens next by itself, with the cycle that passes; else the cycle alone. After a class A alarm no core, engine or
queue acts (R350, log entries 4 and 5). -/
def step (s : State) : Host.Outcome State Fault Refusal :=
  match s.inputs with
  | i :: rest => if s.passes i then .next { s with inputs := rest } else exec i { s with inputs := rest }
  | [] =>
    if s.security.halted then .next s
    else
      match s.hostNext with
      | some t => .next t
      | none =>
        match s.plan with
        | none => .next s.unaged.tick
        | some p =>
          match exec p.instr (match p.slot with
            | some c => s.aim c
            | none => s) with
          | .next t => .next (s.after p t)
          | .fault r => .fault r
          | .refused r => .refused r

/-- The state with an instruction, numbered as the table numbers its bits, where the next step fetches it (log entry 10). -/
def State.withFetchWord (s : State) (nbits w : Nat) : State :=
  s.install (BitVec.ofNat 32 (w % 2 ^ nbits)) (BitVec.ofNat 32 (w % 2 ^ nbits / 2 ^ 32))

end Sys2Proof.Machine
end

