-- ==== Sys2Proof/Laws/PerInstr.lean ====
section
/-! SUPPORT. Per-instruction family WordCount: an instruction of a program is encoded in as many words as its function says,
one or two (R36, R43); packets and events have none. -/

namespace Sys2Proof.Laws.WordCount

/-- The encoding of an instruction has as many words as the instruction takes in a program. -/
def Statement (i : Instr) : Prop := (encode i).length = i.words

theorem iadd (d a b : Reg) (r : Bool) : Statement (.iadd d a b r) := rfl
theorem isub (d a b : Reg) (r : Bool) : Statement (.isub d a b r) := rfl
theorem imul (d a b : Reg) (r : Bool) : Statement (.imul d a b r) := rfl
theorem imulhI (d a b : Reg) (r : Bool) : Statement (.imulhI d a b r) := rfl
theorem imulhN (d a b : Reg) (r : Bool) : Statement (.imulhN d a b r) := rfl
theorem iminI (d a b : Reg) (r : Bool) : Statement (.iminI d a b r) := rfl
theorem iminN (d a b : Reg) (r : Bool) : Statement (.iminN d a b r) := rfl
theorem imaxI (d a b : Reg) (r : Bool) : Statement (.imaxI d a b r) := rfl
theorem imaxN (d a b : Reg) (r : Bool) : Statement (.imaxN d a b r) := rfl
theorem iabs (d a : Reg) (r : Bool) : Statement (.iabs d a r) := rfl
theorem and (d a b : Reg) (r : Bool) : Statement (.and d a b r) := rfl
theorem or (d a b : Reg) (r : Bool) : Statement (.or d a b r) := rfl
theorem xor (d a b : Reg) (r : Bool) : Statement (.xor d a b r) := rfl
theorem andn (d a b : Reg) (r : Bool) : Statement (.andn d a b r) := rfl
theorem shl (d a b : Reg) (r : Bool) : Statement (.shl d a b r) := rfl
theorem shr (d a b : Reg) (r : Bool) : Statement (.shr d a b r) := rfl
theorem sar (d a b : Reg) (r : Bool) : Statement (.sar d a b r) := rfl
theorem rotl (d a b : Reg) (r : Bool) : Statement (.rotl d a b r) := rfl
theorem popc (d a : Reg) (r : Bool) : Statement (.popc d a r) := rfl
theorem clz (d a : Reg) (r : Bool) : Statement (.clz d a r) := rfl
theorem brev (d a : Reg) (r : Bool) : Statement (.brev d a r) := rfl
theorem iaddi (d a : Reg) (imm : BitVec 8) : Statement (.iaddi d a imm) := rfl
theorem shli (d a : Reg) (imm : BitVec 5) : Statement (.shli d a imm) := rfl
theorem shri (d a : Reg) (imm : BitVec 5) : Statement (.shri d a imm) := rfl
theorem sari (d a : Reg) (imm : BitVec 5) : Statement (.sari d a imm) := rfl
theorem andi (d a : Reg) (imm : BitVec 8) : Statement (.andi d a imm) := rfl
theorem ori (d a : Reg) (imm : BitVec 8) : Statement (.ori d a imm) := rfl
theorem xori (d a : Reg) (imm : BitVec 8) : Statement (.xori d a imm) := rfl
theorem imad (d a b : Reg) (r : Bool) (c : Reg) : Statement (.imad d a b r c) := rfl
theorem iadd32i (d a : Reg) (r : Bool) (imm : Word) : Statement (.iadd32i d a r imm) := rfl
theorem lea (d a b : Reg) (r : Bool) (sh : BitVec 5) : Statement (.lea d a b r sh) := rfl
theorem bfe (d a : Reg) (r : Bool) (sgn : Bool) (len : BitVec 6) (pos : BitVec 5) : Statement (.bfe d a r sgn len pos) := rfl
theorem bfi (d a b : Reg) (r : Bool) (len : BitVec 6) (pos : BitVec 5) : Statement (.bfi d a b r len pos) := rfl
theorem iadd64 (d a b : Reg) (r : Bool) : Statement (.iadd64 d a b r) := rfl
theorem imulwI (d a b : Reg) (r : Bool) : Statement (.imulwI d a b r) := rfl
theorem imulwN (d a b : Reg) (r : Bool) : Statement (.imulwN d a b r) := rfl
theorem divi (d a : Reg) (la : BitVec 4) (c : Reg) : Statement (.divi d a la c) := rfl
theorem divn (d a : Reg) (la : BitVec 4) (c : Reg) : Statement (.divn d a la c) := rfl
theorem remi (d a : Reg) (la : BitVec 4) (c : Reg) : Statement (.remi d a la c) := rfl
theorem remn (d a : Reg) (la : BitVec 4) (c : Reg) : Statement (.remn d a la c) := rfl
theorem fadd (d a b : Reg) (r : Bool) : Statement (.fadd d a b r) := rfl
theorem fsub (d a b : Reg) (r : Bool) : Statement (.fsub d a b r) := rfl
theorem fmul (d a b : Reg) (r : Bool) : Statement (.fmul d a b r) := rfl
theorem fmin (d a b : Reg) (r : Bool) : Statement (.fmin d a b r) := rfl
theorem fmax (d a b : Reg) (r : Bool) : Statement (.fmax d a b r) := rfl
theorem hadd2Bf (d a b : Reg) (r : Bool) : Statement (.hadd2Bf d a b r) := rfl
theorem hmul2Bf (d a b : Reg) (r : Bool) : Statement (.hmul2Bf d a b r) := rfl
theorem hadd2Hf (d a b : Reg) (r : Bool) : Statement (.hadd2Hf d a b r) := rfl
theorem hmul2Hf (d a b : Reg) (r : Bool) : Statement (.hmul2Hf d a b r) := rfl
theorem hmin2Bf (d a b : Reg) (r : Bool) : Statement (.hmin2Bf d a b r) := rfl
theorem hmax2Bf (d a b : Reg) (r : Bool) : Statement (.hmax2Bf d a b r) := rfl
theorem ffma (d a b : Reg) (r : Bool) (c : Reg) (mode : RMode) : Statement (.ffma d a b r c mode) := rfl
theorem faddm (d a b : Reg) (r : Bool) (mode : RMode) : Statement (.faddm d a b r mode) := rfl
theorem fmulm (d a b : Reg) (r : Bool) (mode : RMode) : Statement (.fmulm d a b r mode) := rfl
theorem hfma2Bf (d a b : Reg) (r : Bool) (c : Reg) (mode : RMode) : Statement (.hfma2Bf d a b r c mode) := rfl
theorem hfma2Hf (d a b : Reg) (r : Bool) (c : Reg) (mode : RMode) : Statement (.hfma2Hf d a b r c mode) := rfl
theorem faddi (d a : Reg) (r : Bool) (imm : Word) : Statement (.faddi d a r imm) := rfl
theorem fmuli (d a : Reg) (r : Bool) (imm : Word) : Statement (.fmuli d a r imm) := rfl
theorem icmpI (pd : PReg) (cc : CC) (a b : Reg) : Statement (.icmpI pd cc a b) := rfl
theorem icmpN (pd : PReg) (cc : CC) (a b : Reg) : Statement (.icmpN pd cc a b) := rfl
theorem fcmp (pd : PReg) (cc : CC) (a b : Reg) : Statement (.fcmp pd cc a b) := rfl
theorem icmpiI (pd : PReg) (cc : CC) (a : Reg) (imm : BitVec 7) : Statement (.icmpiI pd cc a imm) := rfl
theorem pbool (pd : PReg) (op : BoolOp) (na : Bool) (pa : PReg) (nb : Bool) (pb : PReg) : Statement (.pbool pd op na pa nb pb) := rfl
theorem p2g (d : Reg) (r : Bool) : Statement (.p2g d r) := rfl
theorem g2p (a : Reg) : Statement (.g2p a) := rfl
theorem sel (d a b : Reg) (r : Bool) (q : PReg) (qneg : Bool) : Statement (.sel d a b r q qneg) := rfl
theorem frcp (d a : Reg) (la : BitVec 4) : Statement (.frcp d a la) := rfl
theorem frsq (d a : Reg) (la : BitVec 4) : Statement (.frsq d a la) := rfl
theorem fsqrt (d a : Reg) (la : BitVec 4) : Statement (.fsqrt d a la) := rfl
theorem fexp2 (d a : Reg) (la : BitVec 4) : Statement (.fexp2 d a la) := rfl
theorem flog2 (d a : Reg) (la : BitVec 4) : Statement (.flog2 d a la) := rfl
theorem fsinr (d a : Reg) (la : BitVec 4) : Statement (.fsinr d a la) := rfl
theorem fcosr (d a : Reg) (la : BitVec 4) : Statement (.fcosr d a la) := rfl
theorem frnd (d a : Reg) (mode : RMode) (la : BitVec 4) : Statement (.frnd d a mode la) := rfl
theorem fclass (d a : Reg) (la : BitVec 4) : Statement (.fclass d a la) := rfl
theorem f2iI (d a : Reg) (la : BitVec 4) : Statement (.f2iI d a la) := rfl
theorem f2iN (d a : Reg) (la : BitVec 4) : Statement (.f2iN d a la) := rfl
theorem i2fI (d a : Reg) (la : BitVec 4) : Statement (.i2fI d a la) := rfl
theorem i2fN (d a : Reg) (la : BitVec 4) : Statement (.i2fN d a la) := rfl
theorem f2bf (d a : Reg) (la : BitVec 4) : Statement (.f2bf d a la) := rfl
theorem bf2f (d a : Reg) (la : BitVec 4) : Statement (.bf2f d a la) := rfl
theorem f2hf (d a : Reg) (la : BitVec 4) : Statement (.f2hf d a la) := rfl
theorem hf2f (d a : Reg) (la : BitVec 4) : Statement (.hf2f d a la) := rfl
theorem cvtn (d a : Reg) (la : BitVec 4) (c : Reg) (pack : Bool) (fmt : BitVec 16) : Statement (.cvtn d a la c pack fmt) := rfl
theorem unpn (d a : Reg) (la : BitVec 4) (c : Reg) (pack : Bool) (fmt : BitVec 16) : Statement (.unpn d a la c pack fmt) := rfl
theorem f2iM (d a : Reg) (la : BitVec 4) (uns : Bool) (mode : RMode) : Statement (.f2iM d a la uns mode) := rfl
theorem jmp (off : BitVec 22) : Statement (.jmp off) := rfl
theorem call (off : BitVec 22) : Statement (.call off) := rfl
theorem ret : Statement (.ret) := rfl
theorem exit : Statement (.exit) := rfl
theorem nop : Statement (.nop) := rfl
theorem yield : Statement (.yield) := rfl
theorem sleep (n : BitVec 8) : Statement (.sleep n) := rfl
theorem brk (n : BitVec 8) : Statement (.brk n) := rfl
theorem trap (n : BitVec 8) : Statement (.trap n) := rfl
theorem bra (p : PReg) (neg : Bool) (off : BitVec 17) (join : Word) : Statement (.bra p neg off join) := rfl
theorem brx (a : Reg) (join : Word) : Statement (.brx a join) := rfl
theorem mov (d a : Reg) (r : Bool) : Statement (.mov d a r) := rfl
theorem movi (d : Reg) (imm : BitVec 8) : Statement (.movi d imm) := rfl
theorem srd (d : Reg) (n : BitVec 8) : Statement (.srd d n) := rfl
theorem swr (a : Reg) (n : BitVec 8) : Statement (.swr a n) := rfl
theorem u2g (d : Reg) (sa : UReg) (r : Bool) : Statement (.u2g d sa r) := rfl
theorem g2u (sd : UReg) (a : Reg) : Statement (.g2u sd a) := rfl
theorem uadd (sd sa sb : UReg) : Statement (.uadd sd sa sb) := rfl
theorem umov (sd sa : UReg) : Statement (.umov sd sa) := rfl
theorem uand (sd sa sb : UReg) : Statement (.uand sd sa sb) := rfl
theorem ushl (sd sa sb : UReg) : Statement (.ushl sd sa sb) := rfl
theorem umovi (sd : UReg) (imm : BitVec 8) : Statement (.umovi sd imm) := rfl
theorem mov32i (d : Reg) (r : Bool) (imm : Word) : Statement (.mov32i d r imm) := rfl
theorem umov32i (sd : UReg) (imm : Word) : Statement (.umov32i sd imm) := rfl
theorem fenceAcq : Statement (.fenceAcq) := rfl
theorem fenceRel : Statement (.fenceRel) := rfl
theorem fenceAr : Statement (.fenceAr) := rfl
theorem ld (d a : Reg) (na : Bool) (la : BitVec 4) (h : BitVec 10) (ord : Order) (wd : Width) (imm : BitVec 17) : Statement (.ld d a na la h ord wd imm) := rfl
theorem st (d a : Reg) (na : Bool) (la : BitVec 4) (h : BitVec 10) (ord : Order) (wd : Width) (imm : BitVec 17) : Statement (.st d a na la h ord wd imm) := rfl
theorem lds (d a : Reg) (la : BitVec 4) (win : BitVec 4) (remote : Bool) (cih : BitVec 2) (wd : Width) (off : BitVec 17) : Statement (.lds d a la win remote cih wd off) := rfl
theorem sts (d a : Reg) (la : BitVec 4) (win : BitVec 4) (remote : Bool) (cih : BitVec 2) (wd : Width) (off : BitVec 17) : Statement (.sts d a la win remote cih wd off) := rfl
theorem ldp (d a : Reg) (la : BitVec 4) (wd : Width) (imm : BitVec 17) : Statement (.ldp d a la wd imm) := rfl
theorem stp (d a : Reg) (la : BitVec 4) (wd : Width) (imm : BitVec 17) : Statement (.stp d a la wd imm) := rfl
theorem pref (a : Reg) (l2 : Bool) (la : BitVec 4) (h : BitVec 10) (wd : Width) (imm : BitVec 17) : Statement (.pref a l2 la h wd imm) := rfl
theorem gfetch (d : Reg) (bm : Bool) (la : BitVec 4) (t : BitVec 8) (sa sb : UReg) : Statement (.gfetch d bm la t sa sb) := rfl
theorem copyl (d a : Reg) (n : CopySize) (la : BitVec 4) (h : BitVec 10) (win : BitVec 4) (remote : Bool) (cih : BitVec 2) (lwin : BitVec 4) (loff : BitVec 11) : Statement (.copyl d a n la h win remote cih lwin loff) := rfl
theorem cctl (a : Reg) (op : CctlOp) (la : BitVec 4) (h : BitVec 10) (imm : BitVec 17) : Statement (.cctl a op la h imm) := rfl
theorem aabort : Statement (.aabort) := rfl
theorem astat (d : Reg) (la : BitVec 4) : Statement (.astat d la) := rfl
theorem atom (d a : Reg) (op : AtomOp) (la : BitVec 4) (h : BitVec 10) (ord : Order) (wide : Bool) (imm : BitVec 17) : Statement (.atom d a op la h ord wide imm) := rfl
theorem acas (pd : PReg) (d a : Reg) (la : BitVec 4) (h : BitVec 10) (ord : Order) (wide : Bool) (c : Reg) (imm : BitVec 10) : Statement (.acas pd d a la h ord wide c imm) := rfl
theorem dcas (pd : PReg) (d a : Reg) (la : BitVec 4) (h1 h2 : BitVec 10) (c : Reg) (ord : Order) : Statement (.dcas pd d a la h1 h2 c ord) := rfl
theorem amove (d a : Reg) (wide : Bool) (la : BitVec 4) (h1 h2 : BitVec 10) (c : Reg) (ord : Order) : Statement (.amove d a wide la h1 h2 c ord) := rfl
theorem abegin (off : Word) : Statement (.abegin off) := rfl
theorem aend (rel acq : Bool) (pd : PReg) : Statement (.aend rel acq pd) := rfl
theorem mzero (d : Reg) (la : BitVec 4) : Statement (.mzero d la) := rfl
theorem midle (d : Reg) (clr : Bool) (la : BitVec 4) : Statement (.midle d clr la) := rfl
theorem mma (d : Reg) (mc z : Bool) (la : BitVec 4) (tA tB : BitVec 8) (sa sb : UReg) : Statement (.mma d mc z la tA tB sa sb) := rfl
theorem mmas (d : Reg) (cr mc z : Bool) (la : BitVec 4) (tA tB : BitVec 8) (sa sb : UReg) : Statement (.mmas d cr mc z la tA tB sa sb) := rfl
theorem mmag (d : Reg) (mc z : Bool) (la : BitVec 4) (tA tB : BitVec 8) (sa sb : UReg) : Statement (.mmag d mc z la tA tB sa sb) := rfl
theorem mstore (d : Reg) (fmt : RowFmt) (la : BitVec 4) (t : BitVec 8) (sa : UReg) : Statement (.mstore d fmt la t sa) := rfl
theorem mload (d : Reg) (fmt : RowFmt) (la : BitVec 4) (t : BitVec 8) (sa : UReg) : Statement (.mload d fmt la t sa) := rfl
theorem swz (d a : Reg) (x : BitVec 5) : Statement (.swz d a x) := rfl
theorem shfl (d a b : Reg) (r : Bool) : Statement (.shfl d a b r) := rfl
theorem vote (pd : PReg) (op : VoteOp) (na : Bool) (pa : PReg) : Statement (.vote pd op na pa) := rfl
theorem ballot (d : Reg) (na : Bool) (pa : PReg) : Statement (.ballot d na pa) := rfl
theorem scan (d a : Reg) (ex : Bool) (op : RedOp) : Statement (.scan d a ex op) := rfl
theorem reduce (d a : Reg) (op : RedOp) : Statement (.reduce d a op) := rfl
theorem matchLanes (d a : Reg) : Statement (.matchLanes d a) := rfl
theorem expand (d a : Reg) (g : Bool) (e : BitVec 2) (la : BitVec 4) (c : Reg) (gal : BitVec 6) : Statement (.expand d a g e la c gal) := rfl
theorem enext (d : Reg) (fin : Bool) (e : BitVec 2) (la : BitVec 4) (pd : PReg) : Statement (.enext d fin e la pd) := rfl
theorem segred (d a : Reg) (e : BitVec 2) (la : BitVec 4) (pd : PReg) (op : RedOp) : Statement (.segred d a e la pd op) := rfl
theorem xsect (d a : Reg) (sgn : Bool) (la : BitVec 4) (c : Reg) (pd qa qb : PReg) : Statement (.xsect d a sgn la c pd qa qb) := rfl
theorem xmerge (d a : Reg) (sgn : Bool) (la : BitVec 4) (c : Reg) (pd qa qb : PReg) : Statement (.xmerge d a sgn la c pd qa qb) := rfl
theorem scaleq (d a : Reg) (q : Bool) (la : BitVec 4) (fmt : BitVec 16) : Statement (.scaleq d a q la fmt) := rfl
theorem spawn (pd : PReg) (a : Reg) (la : BitVec 4) (role : BitVec 2) (cnt : BitVec 5) : Statement (.spawn pd a la role cnt) := rfl
theorem tfetch (d : Reg) (la : BitVec 4) (pd : PReg) : Statement (.tfetch d la pd) := rfl
theorem atrPush (d a : Reg) (la : BitVec 4) (atr : BitVec 2) (n : BitVec 5) (pd : PReg) (h : BitVec 10) (c : Reg) : Statement (.atrPush d a la atr n pd h c) := rfl
theorem atrPop (d : Reg) (la : BitVec 4) (atr : BitVec 2) (win : BitVec 4) (pd : PReg) (tmo : BitVec 10) (off : BitVec 10) : Statement (.atrPop d la atr win pd tmo off) := rfl
theorem atrPopTimeout (fl seq : Nat) : Statement (.atrPopTimeout fl seq) := rfl
theorem atrRet (a : Reg) (la : BitVec 4) (atr : BitVec 2) (rn : BitVec 3) (c : Reg) : Statement (.atrRet a la atr rn c) := rfl
theorem cqry (d a : Reg) (la : BitVec 4) (h : BitVec 10) (cx : BitVec 2) (imm : BitVec 17) : Statement (.cqry d a la h cx imm) := rfl
theorem dstep (d a : Reg) (la : BitVec 4) (h : BitVec 10) (cx : BitVec 2) (imm : BitVec 17) : Statement (.dstep d a la h cx imm) := rfl
theorem fwait (pd : PReg) (a : Reg) (atr : Bool) (la : BitVec 4) (tmo : BitVec 16) : Statement (.fwait pd a atr la tmo) := rfl
theorem fwaitTimeout (fl seq : Nat) : Statement (.fwaitTimeout fl seq) := rfl
theorem ftest (pd : PReg) (a : Reg) (atr : Bool) (la : BitVec 4) : Statement (.ftest pd a atr la) := rfl
theorem chain (d a : Reg) (n : BitVec 4) (la : BitVec 4) (h : BitVec 10) (cx : BitVec 2) (imm : BitVec 17) : Statement (.chain d a n la h cx imm) := rfl
theorem poolAlloc (d : Reg) (la : BitVec 4) (pd : PReg) (q : BitVec 6) : Statement (.poolAlloc d la pd q) := rfl
theorem poolFree (a : Reg) (la : BitVec 4) (q : BitVec 6) : Statement (.poolFree a la q) := rfl
theorem scopeOpen (d : Reg) (one any : Bool) (la : BitVec 4) (pd : PReg) : Statement (.scopeOpen d one any la pd) := rfl
theorem scopeClose (la : BitVec 4) : Statement (.scopeClose la) := rfl
theorem cancel (a : Reg) (la : BitVec 4) : Statement (.cancel a la) := rfl
theorem barSync (k : BitVec 8) : Statement (.barSync k) := rfl
theorem barArv (d : Reg) (k : BitVec 8) : Statement (.barArv d k) := rfl
theorem barWait (a : Reg) (k : BitVec 8) : Statement (.barWait a k) := rfl
theorem joinGal (k : BitVec 8) : Statement (.joinGal k) := rfl
theorem leaveGal (k : BitVec 8) : Statement (.leaveGal k) := rfl
theorem landWait (d a : Reg) : Statement (.landWait d a) := rfl
theorem bestTake (d : Reg) (r : Bool) : Statement (.bestTake d r) := rfl
theorem bestInval (d a : Reg) (r : Bool) : Statement (.bestInval d a r) := rfl
theorem specMark (a : Reg) : Statement (.specMark a) := rfl
theorem specCommit (a : Reg) : Statement (.specCommit a) := rfl
theorem specBack : Statement (.specBack) := rfl
theorem rng (d a b : Reg) (r : Bool) : Statement (.rng d a b r) := rfl
theorem gtime (d : Reg) (r : Bool) : Statement (.gtime d r) := rfl
theorem barInit (k : BitVec 6) (n : BitVec 12) : Statement (.barInit k n) := rfl
theorem barSyncn (k : BitVec 6) (n : BitVec 12) : Statement (.barSyncn k n) := rfl
theorem landInit (d a b : Reg) (r : Bool) (pd : PReg) : Statement (.landInit d a b r pd) := rfl
theorem tlwait (pd : PReg) (cx : BitVec 2) (a : Reg) (tmo : BitVec 16) : Statement (.tlwait pd cx a tmo) := rfl
theorem tlwaitTimeout (fl : Nat) (slotB : Bool) : Statement (.tlwaitTimeout fl slotB) := rfl
theorem dlSet (a : Reg) (min : Bool) : Statement (.dlSet a min) := rfl
theorem bestOffer (pd : PReg) (d a b : Reg) (r : Bool) : Statement (.bestOffer pd d a b r) := rfl
theorem grow (pd : PReg) (n : BitVec 7) : Statement (.grow pd n) := rfl
theorem growGrant (fl : Nat) (slotB : Bool) : Statement (.growGrant fl slotB) := rfl
theorem growDenial (fl : Nat) (slotB : Bool) : Statement (.growDenial fl slotB) := rfl
theorem shrink (n : BitVec 8) : Statement (.shrink n) := rfl
theorem csrr (d : Reg) (c : BitVec 8) : Statement (.csrr d c) := rfl
theorem csrw (a : Reg) (c : BitVec 8) : Statement (.csrw a c) := rfl
theorem halt (a : Reg) : Statement (.halt a) := rfl
theorem eret (a : Reg) : Statement (.eret a) := rfl
theorem tlbi (d a b : Reg) : Statement (.tlbi d a b) := rfl
theorem faultack (a : Reg) : Statement (.faultack a) := rfl
theorem clauseDecode (fl : Nat) (slotB : Bool) : Statement (.clauseDecode fl slotB) := rfl
theorem slotAged (fl : Nat) (slotB : Bool) : Statement (.slotAged fl slotB) := rfl
theorem longLatencyCompletion (fl seq : Nat) : Statement (.longLatencyCompletion fl seq) := rfl
theorem sleepExpiry (fl : Nat) (slotB : Bool) : Statement (.sleepExpiry fl slotB) := rfl
theorem copylWordLanding (core copy word : Nat) : Statement (.copylWordLanding core copy word) := rfl
theorem taskQueueFlightStart (core : Nat) : Statement (.taskQueueFlightStart core) := rfl
theorem heldEventHandlerStart (launch : Word) (core : Nat) : Statement (.heldEventHandlerStart launch core) := rfl
theorem deadlineFire (launch : Word) : Statement (.deadlineFire launch) := rfl
theorem launchStart (q : Nat) : Statement (.launchStart q) := rfl
theorem launchCompletion (launch : Word) : Statement (.launchCompletion launch) := rfl
theorem preemptionRequest (launch : Word) (gang : Nat) : Statement (.preemptionRequest launch gang) := rfl
theorem gangResume (launch : Word) (gang firstCore : Nat) : Statement (.gangResume launch gang firstCore) := rfl
theorem reflexWindowOpen : Statement (.reflexWindowOpen) := rfl
theorem reflexBoundary : Statement (.reflexBoundary) := rfl
theorem reflexWindowClose : Statement (.reflexWindowClose) := rfl
theorem powerCapWithhold (cycles : Nat) : Statement (.powerCapWithhold cycles) := rfl
theorem copyCmd (ctx num : Nat) : Statement (.copyCmd ctx num) := rfl
theorem fillCmd (ctx num : Nat) : Statement (.fillCmd ctx num) := rfl
theorem reduceCopyCmd (ctx num : Nat) : Statement (.reduceCopyCmd ctx num) := rfl
theorem nopCmd (ctx num : Nat) : Statement (.nopCmd ctx num) := rfl
theorem collisionQuery (ctx num : Nat) : Statement (.collisionQuery ctx num) := rfl
theorem dynamicsStep (ctx num : Nat) : Statement (.dynamicsStep ctx num) := rfl
theorem engineCommandCompletion (ctx : Nat) : Statement (.engineCommandCompletion ctx) := rfl
theorem restripeHandover (ctx num : Nat) : Statement (.restripeHandover ctx num) := rfl
theorem regionMerge (region : Nat) : Statement (.regionMerge region) := rfl
theorem priorityReservationExpiry (addr : Nat) : Statement (.priorityReservationExpiry addr) := rfl
theorem l1Eviction (core idx : Nat) : Statement (.l1Eviction core idx) := rfl
theorem translationEviction (idx : Nat) : Statement (.translationEviction idx) := rfl
theorem stopPkt (hdr : PktHdr) : Statement (.stopPkt hdr) := rfl
theorem waitTimelinePkt (hdr : PktHdr) (ctx : BitVec 8) (value : BitVec 64) : Statement (.waitTimelinePkt hdr ctx value) := rfl
theorem signalPkt (hdr : PktHdr) (ctx : BitVec 8) (irq : Bool) (vector : BitVec 8) (va value : BitVec 64) : Statement (.signalPkt hdr ctx irq vector va value) := rfl
theorem fencePkt (hdr : PktHdr) : Statement (.fencePkt hdr) := rfl
theorem restripePkt (hdr : PktHdr) (ctx : BitVec 8) (pages : BitVec 32) (va : BitVec 64) (place : Word) : Statement (.restripePkt hdr ctx pages va place) := rfl
theorem launchPkt (hdr : PktHdr) (body : LaunchBody) : Statement (.launchPkt hdr body) := rfl
theorem chainPkt (hdr : PktHdr) (ctx : BitVec 8) (count : BitVec 32) (va : BitVec 64) : Statement (.chainPkt hdr ctx count va) := rfl
theorem indirectPkt (hdr : PktHdr) (ctx : BitVec 8) (count : BitVec 32) (va : BitVec 64) : Statement (.indirectPkt hdr ctx count va) := rfl
theorem setDeadlinePkt (hdr : PktHdr) (launch : Word) (deadline : BitVec 64) : Statement (.setDeadlinePkt hdr launch deadline) := rfl
theorem nopPkt (hdr : PktHdr) : Statement (.nopPkt hdr) := rfl
theorem contextPkt (hdr : PktHdr) (ctx : BitVec 8) (valid : Bool) (root hbase tbase pbase : BitVec 64) : Statement (.contextPkt hdr ctx valid root hbase tbase pbase) := rfl
theorem slotFetch (q : Nat) : Statement (.slotFetch q) := rfl
theorem firmwareCoreRound : Statement (.firmwareCoreRound) := rfl
theorem doorbell (q : Nat) (v : BitVec 64) : Statement (.doorbell q v) := rfl
theorem queueOpen (q : Nat) : Statement (.queueOpen q) := rfl
theorem queueClose (q : Nat) : Statement (.queueClose q) := rfl
theorem haltClear (q : Nat) : Statement (.haltClear q) := rfl
theorem acceptedWord0Write (v : BitVec 64) : Statement (.acceptedWord0Write v) := rfl
theorem registerWrite (off : Nat) (v : BitVec 64) : Statement (.registerWrite off v) := rfl
theorem hostCxlMemRead (pa : Nat) : Statement (.hostCxlMemRead pa) := rfl
theorem hostCxlMemWrite (pa : Nat) (v : Word) (be : BitVec 4) : Statement (.hostCxlMemWrite pa v be) := rfl
theorem resetDevice (warm sigOk : Bool) : Statement (.resetDevice warm sigOk) := rfl
theorem attestationSign : Statement (.attestationSign) := rfl
theorem classAAlarm (cause : AlarmA) : Statement (.classAAlarm cause) := rfl
theorem classBAlarm (cause : AlarmB) : Statement (.classBAlarm cause) := rfl
theorem ptmTimeSync (t : BitVec 64) : Statement (.ptmTimeSync t) := rfl
theorem patrolScrub (pa : Nat) : Statement (.patrolScrub pa) := rfl
theorem softError (place : ErrPlace) (unit addr : Nat) (fatal : Bool) : Statement (.softError place unit addr fatal) := rfl
theorem cxlCacheSnoop (line : Nat) (kind : SnoopKind) : Statement (.cxlCacheSnoop line kind) := rfl
theorem channelCalibration (ch : Nat) : Statement (.channelCalibration ch) := rfl

end Sys2Proof.Laws.WordCount
end

