-- ==== Sys2Proof/Safety.lean ====
section
/-! DEFINITION. The words in which claims are stated: memory in its canonical form, registers at legal values, and the conditions
under which a slot issues an instruction (R27, R40, R48, R56). -/

namespace Sys2Proof.Machine

/-- A memory is in canonical form: addresses strictly rising, and no entry equal to what an unlisted address reads as. -/
abbrev Memory.wf (c : Cells 8) : Bool := Cells.wf c

/-- Both memories of the machine, the device's and the host's, are in canonical form. -/
def State.memOk (s : State) : Bool := Memory.wf s.mem && Memory.wf s.hostMem

/-- The device registers stand at values that their rules allow: accepted features are advertised ones (R279), the power mode is
one of the three (R349), the reflex period lies in its range (R28), the fault ring's size and base in theirs, and its
count of written records is not behind that of acknowledged ones (R303, R345). -/
def State.regsOk (s : State) : Bool :=
  decide (s.accepted &&& ~~~Config.advertised = 0) && decide (s.acceptedW = false → s.accepted = 0) && decide (s.pmode ≠ 3) &&
    decide (1 ≤ s.reflex.period) && decide (s.reflex.period ≤ 20) && decide (6 ≤ s.frLog) && decide (s.frLog ≤ 16) &&
    decide (s.frBase.toNat % 64 = 0) && decide (s.frHead ≤ s.frTail)

/-- The flight with which the meaning of an instruction begins: the regions of its lanes take note of it (R243, R244), and before one that acts
at once what was read stays read (R212). -/
def Flight.issued (f : Flight) (b : Bool) (c : Clause) (i : Instr) : Flight := ((f.begun b c).retag i (f.acting b c)).fixed b i

/-- The place from which an instruction issues. -/
def placeOf (key : Nat) (b : Bool) (f : Flight) (la : Launch) (c : Clause) : Place :=
  { key := key, slotB := b, la := la, act := f.acting b c, pc := (f.slot b).pc }

/-- The state with which the meaning of an instruction begins. -/
def State.begun (s : State) (key : Nat) (b : Bool) (f : Flight) (c : Clause) (i : Instr) : State := s.putFlight key (f.issued b c i)

/-- When the instruction i issues from a slot and acts for at least one lane: the slot is chosen and ready (R27), the instruction
names only registers of the allotment, its level allows it, and it touches no open window (R48, R56); a lane acts (R40), and the regions
of the acting lanes admit the instruction (R241, R245). -/
structure Issues (s : State) (i : Instr) (key : Nat) (b : Bool) (f : Flight) (la : Launch) (c : Clause) : Prop where
  cur      : s.cur = { flight := key, slotB := b }
  flight   : s.flight key = some f
  launch   : Tbl.find s.launches f.launch.toNat = some la
  clause   : (f.slot b).clause = some c
  ready    : s.ready key f b i = true
  regs     : ∀ r ∈ i.use.gr ++ i.use.gw, r < f.allot
  level    : i.allowed f.kind = true
  window   : (f.slot b).replay.isSome = true ∨ hazard f b i = false
  acts     : f.acting b c ≠ 0
  admitted : ∀ l ∈ lanesOf (f.acting b c), admitCause (f.begun b c) i l = none
  solid    : s.hole = false

/-- The state after an instruction that changes its flight to g and then lets the slot move past it (R36). -/
def State.moveOn (s : State) (key : Nat) (b : Bool) (i : Instr) (g : Flight) : State :=
  s.putFlight key ((g.advance b i.words).settle)

/-- General registers d, d + 1, … hold the values given in the lanes of a mask; every other general register, and every other
lane, is as before. A range that starts at gz takes nothing (R45). -/
def RegsGiven (f g : Flight) (m : Mask) (d : Reg) (vals : Nat → List Word) : Prop :=
  ∀ n l, n < 127 → l < 32 → Cells.get g.gpr (32 * n + l) =
    if m.getLsbD l = true ∧ d.toNat ≠ 127 ∧ d.toNat ≤ n ∧ n < d.toNat + (vals l).length then (vals l).getD (n - d.toNat) 0
    else Cells.get f.gpr (32 * n + l)

/-- Predicate p holds the values given in the lanes of a mask; every other predicate, and every other lane, is as before. pt takes
nothing (R45, R69). -/
def PredGiven (f g : Flight) (m : Mask) (p : PReg) (val : Nat → Bool) : Prop :=
  ∀ n l, n < 15 → l < 32 → (g.pMask n).getLsbD l =
    if m.getLsbD l = true ∧ n = p.toNat then val l else (f.pMask n).getLsbD l

/-- Uniform register u holds a value; every other one is as before. sz takes nothing (R45, R70). -/
def UnifGiven (f g : Flight) (u : UReg) (v : Word) : Prop :=
  ∀ n, n < 63 → g.u n = if n = u.toNat then v else f.u n

/-- Two flights differ in their general registers alone; and so on for the predicates, uniform registers and FPSTAT. -/
def SameButRegs (f g : Flight) : Prop := { g with gpr := f.gpr } = f
def SameButRegsFlags (f g : Flight) : Prop := { g with gpr := f.gpr, fpstat := f.fpstat } = f
def SameButPreds (f g : Flight) : Prop := { g with preds := f.preds } = f
def SameButPredsFlags (f g : Flight) : Prop := { g with preds := f.preds, fpstat := f.fpstat } = f
def SameButUnif (f g : Flight) : Prop := { g with unif := f.unif } = f

/-- The flags that some lanes raise, ORed (R107). -/
def flagsOf (m : Mask) (fl : Nat → Word) : Word := (lanesOf m).foldl (fun w l => w ||| fl l) 0

/-- The flight of an instruction that issues and stays pending, with what it still has to do (R48, R49). -/
def Flight.waiting (f : Flight) (b : Bool) (c : Clause) (i : Instr) (act : PendAct) : Flight :=
  (f.issued b c i).addPending b i (f.slot b).pc (f.acting b c) false act

/-- The (register, lane, value) writes of values for the lanes of a mask, in ascending lanes, the lowest register first. -/
def writesOf (m : Mask) (d : Reg) (vals : Nat → List Word) : List (Nat × Nat × Word) :=
  (lanesOf m).flatMap (fun l => runWrites d l (vals l))

end Sys2Proof.Machine
end

