-- ==== Sys2Proof/Certificates/Slice0/Obligations.lean ====
section
/-! DEFINITION. The statements about the model that the provers prove. -/

namespace Sys2Proof.Claims

open Sys2Proof Sys2Proof.Machine

/-! Tables of results, written from the rules. -/

/-- The destination and the values of an integer instruction: R75 (three operands and one), R76 (8-bit and 5-bit immediates),
R77 (two words), R78 (bit fields), R79 (pairs, the low word first). -/
def intValue (f : Flight) (l : Nat) : Instr → Option (Reg × List Word)
  | .iadd d a b _ => some (d, [BitVec.ofNat 32 ((f.g l a).toNat + (f.g l b).toNat)])
  | .isub d a b _ => some (d, [BitVec.ofInt 32 ((f.g l a).toNat - (f.g l b).toNat)])
  | .imul d a b _ => some (d, [BitVec.ofNat 32 ((f.g l a).toNat * (f.g l b).toNat)])
  | .imulhI d a b _ => some (d, [BitVec.ofInt 32 ((f.g l a).toInt * (f.g l b).toInt / 2 ^ 32)])
  | .imulhN d a b _ => some (d, [BitVec.ofNat 32 ((f.g l a).toNat * (f.g l b).toNat / 2 ^ 32)])
  | .iminI d a b _ => some (d, [if (f.g l b).toInt < (f.g l a).toInt then f.g l b else f.g l a])
  | .iminN d a b _ => some (d, [if (f.g l b).toNat < (f.g l a).toNat then f.g l b else f.g l a])
  | .imaxI d a b _ => some (d, [if (f.g l a).toInt < (f.g l b).toInt then f.g l b else f.g l a])
  | .imaxN d a b _ => some (d, [if (f.g l a).toNat < (f.g l b).toNat then f.g l b else f.g l a])
  | .iabs d a _ => some (d, [BitVec.ofNat 32 (f.g l a).toInt.natAbs])
  | .and d a b _ => some (d, [f.g l a &&& f.g l b])
  | .or d a b _ => some (d, [f.g l a ||| f.g l b])
  | .xor d a b _ => some (d, [f.g l a ^^^ f.g l b])
  | .andn d a b _ => some (d, [f.g l a &&& ~~~(f.g l b)])
  | .shl d a b _ => some (d, [BitVec.ofNat 32 ((f.g l a).toNat * 2 ^ ((f.g l b).toNat % 256))])
  | .shr d a b _ => some (d, [BitVec.ofNat 32 ((f.g l a).toNat / 2 ^ ((f.g l b).toNat % 256))])
  | .sar d a b _ => some (d, [BitVec.ofInt 32 ((f.g l a).toInt / 2 ^ ((f.g l b).toNat % 256))])
  | .rotl d a b _ => some (d, [(f.g l a).rotateLeft ((f.g l b).toNat % 32)])
  | .popc d a _ => some (d, [BitVec.ofNat 32 ((List.range 32).filter (fun i => (f.g l a).getLsbD i)).length])
  | .clz d a _ => some (d, [BitVec.ofNat 32 (if f.g l a = 0 then 32 else 31 - Nat.log2 (f.g l a).toNat)])
  | .brev d a _ => some (d, [(f.g l a).reverse])
  | .iaddi d a imm => some (d, [BitVec.ofInt 32 ((f.g l a).toInt + imm.toInt)])
  | .shli d a imm => some (d, [BitVec.ofNat 32 ((f.g l a).toNat * 2 ^ imm.toNat)])
  | .shri d a imm => some (d, [BitVec.ofNat 32 ((f.g l a).toNat / 2 ^ imm.toNat)])
  | .sari d a imm => some (d, [BitVec.ofInt 32 ((f.g l a).toInt / 2 ^ imm.toNat)])
  | .andi d a imm => some (d, [f.g l a &&& BitVec.ofNat 32 imm.toNat])
  | .ori d a imm => some (d, [f.g l a ||| BitVec.ofNat 32 imm.toNat])
  | .xori d a imm => some (d, [f.g l a ^^^ BitVec.ofNat 32 imm.toNat])
  | .imad d a b _ c => some (d, [BitVec.ofNat 32 ((f.g l a).toNat * (f.g l b).toNat + (f.g l c).toNat)])
  | .iadd32i d a _ imm => some (d, [BitVec.ofNat 32 ((f.g l a).toNat + imm.toNat)])
  | .lea d a b _ sh => some (d, [BitVec.ofNat 32 ((f.g l a).toNat + (f.g l b).toNat * 2 ^ sh.toNat)])
  | .bfe d a _ sgn len pos =>
    let v := (f.g l a).toNat / 2 ^ pos.toNat % 2 ^ len.toNat
    some (d, [BitVec.ofInt 32 (if sgn = true ∧ 2 ^ (len.toNat - 1) ≤ v then (v : Int) - 2 ^ len.toNat else v)])
  | .bfi d a b _ len pos =>
    let hi := (f.g l a).toNat / 2 ^ (pos.toNat + len.toNat) * 2 ^ (pos.toNat + len.toNat)
    some (d, [BitVec.ofNat 32 (hi + (f.g l b).toNat % 2 ^ len.toNat * 2 ^ pos.toNat + (f.g l a).toNat % 2 ^ pos.toNat)])
  | .iadd64 d a b _ =>
    let v := (f.gAt l a 0).toNat + (f.gAt l a 1).toNat * 2 ^ 32 + ((f.gAt l b 0).toNat + (f.gAt l b 1).toNat * 2 ^ 32)
    some (d, [BitVec.ofNat 32 v, BitVec.ofNat 32 (v / 2 ^ 32)])
  | .imulwI d a b _ =>
    let v := (f.g l a).toInt * (f.g l b).toInt
    some (d, [BitVec.ofInt 32 v, BitVec.ofInt 32 (v / 2 ^ 32)])
  | .imulwN d a b _ =>
    let v := (f.g l a).toNat * (f.g l b).toNat
    some (d, [BitVec.ofNat 32 v, BitVec.ofNat 32 (v / 2 ^ 32)])
  | _ => none

/-- The destination and the value of a division (R80): the quotient truncated toward zero, all ones for a zero divisor; the
remainder, the dividend for a zero divisor. -/
def divValue (f : Flight) (l : Nat) : Instr → Option (Reg × List Word)
  | .divi d a _ c =>
    some (d, [if f.g l c = 0 then 0xFFFFFFFF else BitVec.ofInt 32 (Int.tdiv (f.g l a).toInt (f.g l c).toInt)])
  | .divn d a _ c => some (d, [if f.g l c = 0 then 0xFFFFFFFF else BitVec.ofNat 32 ((f.g l a).toNat / (f.g l c).toNat)])
  | .remi d a _ c =>
    some (d, [if f.g l c = 0 then f.g l a else BitVec.ofInt 32 (Int.tmod (f.g l a).toInt (f.g l c).toInt)])
  | .remn d a _ c => some (d, [if f.g l c = 0 then f.g l a else BitVec.ofNat 32 ((f.g l a).toNat % (f.g l c).toNat)])
  | _ => none

/-- The two halves of a packed operation (R114). -/
def twoHalves (op : Nat → Nat → FpRes) (a b : Word) : FpRes :=
  let lo := op (a.toNat % 65536) (b.toNat % 65536)
  let hi := op (a.toNat / 65536) (b.toNat / 65536)
  { bits := lo.bits + 65536 * hi.bits, flags := lo.flags ||| hi.flags }

/-- The two halves of a packed multiply-add (R116). -/
def twoHalves3 (op : Nat → Nat → Nat → FpRes) (a b c : Word) : FpRes :=
  let lo := op (a.toNat % 65536) (b.toNat % 65536) (c.toNat % 65536)
  let hi := op (a.toNat / 65536) (b.toNat / 65536) (c.toNat / 65536)
  { bits := lo.bits + 65536 * hi.bits, flags := lo.flags ||| hi.flags }

/-- The destination and the result of a floating-point instruction: R114, R115 (minimum and maximum), R116 (fused, with a
rounding mode), R117 (immediate). -/
def floatValue (f : Flight) (l : Nat) : Instr → Option (Reg × FpRes)
  | .fadd d a b _ => some (d, fp32.add .rne (Fp.ofWord (f.g l a)) (Fp.ofWord (f.g l b)))
  | .fsub d a b _ => some (d, fp32.add .rne (Fp.ofWord (f.g l a)) (Fp.ofWord (f.g l b)).neg)
  | .fmul d a b _ => some (d, fp32.mul .rne (Fp.ofWord (f.g l a)) (Fp.ofWord (f.g l b)))
  | .fmin d a b _ => some (d, fp32.minmax false (f.g l a).toNat (f.g l b).toNat)
  | .fmax d a b _ => some (d, fp32.minmax true (f.g l a).toNat (f.g l b).toNat)
  | .hadd2Bf d a b _ => some (d, twoHalves (fun x y => bf16.add .rne (bf16.read x) (bf16.read y)) (f.g l a) (f.g l b))
  | .hmul2Bf d a b _ => some (d, twoHalves (fun x y => bf16.mul .rne (bf16.read x) (bf16.read y)) (f.g l a) (f.g l b))
  | .hadd2Hf d a b _ => some (d, twoHalves (fun x y => fp16.add .rne (fp16.read x) (fp16.read y)) (f.g l a) (f.g l b))
  | .hmul2Hf d a b _ => some (d, twoHalves (fun x y => fp16.mul .rne (fp16.read x) (fp16.read y)) (f.g l a) (f.g l b))
  | .hmin2Bf d a b _ => some (d, twoHalves (bf16.minmax false) (f.g l a) (f.g l b))
  | .hmax2Bf d a b _ => some (d, twoHalves (bf16.minmax true) (f.g l a) (f.g l b))
  | .ffma d a b _ c mode => some (d, fp32.fma mode (Fp.ofWord (f.g l a)) (Fp.ofWord (f.g l b)) (Fp.ofWord (f.g l c)))
  | .faddm d a b _ mode => some (d, fp32.add mode (Fp.ofWord (f.g l a)) (Fp.ofWord (f.g l b)))
  | .fmulm d a b _ mode => some (d, fp32.mul mode (Fp.ofWord (f.g l a)) (Fp.ofWord (f.g l b)))
  | .hfma2Bf d a b _ c mode =>
    some (d, twoHalves3 (fun x y z => bf16.fma mode (bf16.read x) (bf16.read y) (bf16.read z)) (f.g l a) (f.g l b) (f.g l c))
  | .hfma2Hf d a b _ c mode =>
    some (d, twoHalves3 (fun x y z => fp16.fma mode (fp16.read x) (fp16.read y) (fp16.read z)) (f.g l a) (f.g l b) (f.g l c))
  | .faddi d a _ imm => some (d, fp32.add .rne (Fp.ofWord (f.g l a)) (Fp.ofWord imm))
  | .fmuli d a _ imm => some (d, fp32.mul .rne (Fp.ofWord (f.g l a)) (Fp.ofWord imm))
  | _ => none

/-- Whether an integer comparison holds between two numbers (R81). -/
def holdsBetween (cc : CC) (x y : Int) : Bool :=
  match cc with
  | .eq => decide (x = y)
  | .ne => decide (x ≠ y)
  | .lt => decide (x < y)
  | .le => decide (x ≤ y)
  | .gt => decide (y < x)
  | .ge => decide (y ≤ x)
  | _ => false

/-- The predicate, the value and the flags of a compare (R81) or of PBOOL (R82). -/
def predValue (f : Flight) (l : Nat) : Instr → Option (PReg × Bool × Word)
  | .icmpI pd cc a b => some (pd, holdsBetween cc (f.g l a).toInt (f.g l b).toInt, 0)
  | .icmpN pd cc a b => some (pd, holdsBetween cc (f.g l a).toNat (f.g l b).toNat, 0)
  | .icmpiI pd cc a imm => some (pd, holdsBetween cc (f.g l a).toInt imm.toInt, 0)
  | .fcmp pd cc a b =>
    some (pd, fcmpHolds cc (Fp.ofWord (f.g l a)) (Fp.ofWord (f.g l b)), fcmpFlags cc (Fp.ofWord (f.g l a)) (Fp.ofWord (f.g l b)))
  | .pbool pd op na pa nb pb =>
    let x := f.p l pa ^^ na
    let y := f.p l pb ^^ nb
    some (pd, match op with
      | .and => x && y
      | .or => x || y
      | .xor => x ^^ y, 0)
  | _ => none

/-- The destination and the value of a move or selection: R83 (P2G, bit 15 for pt), R84, R85, R88 (U2G). -/
def moveValue (f : Flight) (l : Nat) : Instr → Option (Reg × Word)
  | .mov d a _ => some (d, f.g l a)
  | .movi d imm => some (d, BitVec.ofInt 32 imm.toInt)
  | .mov32i d _ imm => some (d, imm)
  | .u2g d sa _ => some (d, f.u sa.toNat)
  | .sel d a b _ q qneg => some (d, if f.p l q = !qneg then f.g l a else f.g l b)
  | .p2g d _ => some (d, BitVec.ofNat 32 (((List.range 16).filter (fun n => (f.pMask n).getLsbD l)).map (fun n => 2 ^ n)).sum)
  | _ => none

/-- The uniform register and the value of a uniform instruction (R87, R88): G2U takes the lowest acting lane. -/
def unifValue (f : Flight) (m : Mask) : Instr → Option (UReg × Word)
  | .g2u sd a => some (sd, f.g (lowLane m) a)
  | .uadd sd sa sb => some (sd, BitVec.ofNat 32 ((f.u sa.toNat).toNat + (f.u sb.toNat).toNat))
  | .umov sd sa => some (sd, f.u sa.toNat)
  | .uand sd sa sb => some (sd, f.u sa.toNat &&& f.u sb.toNat)
  | .ushl sd sa sb => some (sd, BitVec.ofNat 32 ((f.u sa.toNat).toNat * 2 ^ ((f.u sb.toNat).toNat % 256)))
  | .umovi sd imm => some (sd, BitVec.ofInt 32 imm.toInt)
  | .umov32i sd imm => some (sd, imm)
  | _ => none

/-- The destination and the result of a conversion or special function: R119, R120, R122 to R124. -/
def convValue (f : Flight) (l : Nat) : Instr → Option (Reg × List Word × Word)
  | .frcp d a _ => one d (specialFn .rcp (Fp.ofWord (f.g l a)))
  | .frsq d a _ => one d (specialFn .rsq (Fp.ofWord (f.g l a)))
  | .fsqrt d a _ => one d (specialFn .sqrt (Fp.ofWord (f.g l a)))
  | .fexp2 d a _ => one d (specialFn .exp2 (Fp.ofWord (f.g l a)))
  | .flog2 d a _ => one d (specialFn .log2 (Fp.ofWord (f.g l a)))
  | .fsinr d a _ => one d (specialFn .sin (Fp.ofWord (f.g l a)))
  | .fcosr d a _ => one d (specialFn .cos (Fp.ofWord (f.g l a)))
  | .frnd d a mode _ => one d (frndRes mode (Fp.ofWord (f.g l a)))
  | .fclass d a _ => some (d, [BitVec.ofNat 32 (fclassBits (f.g l a))], 0)
  | .f2iI d a _ => one d (f2iRes .rne false (Fp.ofWord (f.g l a)))
  | .f2iN d a _ => one d (f2iRes .rne true (Fp.ofWord (f.g l a)))
  | .i2fI d a _ => one d (fp32.ofInt .rne (f.g l a).toInt)
  | .i2fN d a _ => one d (fp32.ofInt .rne (f.g l a).toNat)
  | .f2bf d a _ => one d (bf16.convert .rne (Fp.ofWord (f.g l a)))
  | .bf2f d a _ => one d (fp32.convert .rne (bf16.read ((f.g l a).toNat % 65536)))
  | .f2hf d a _ => one d (fp16.convert .rne (Fp.ofWord (f.g l a)))
  | .hf2f d a _ => one d (fp32.convert .rne (fp16.read ((f.g l a).toNat % 65536)))
  | .f2iM d a _ uns mode => one d (f2iRes mode uns (Fp.ofWord (f.g l a)))
  | .cvtn d a _ c pack fmt => some (d, cvtnLane a c pack fmt f l)
  | .unpn d a _ c pack fmt => some (d, unpnLane a c pack fmt f l)
  | _ => none
where
  one (d : Reg) (r : FpRes) : Option (Reg × List Word × Word) := some (d, [r.word], r.flags)

/-- The value that a lane takes from another lane if that is active, else from itself (R165, R166). -/
def fromLane (f : Flight) (m : Mask) (a : Reg) (l k : Nat) : Word := if m.getLsbD k then f.g k a else f.g l a

/-- The destination and the value of a cross-lane instruction that writes a general register: R165, R166, R168, R169. -/
def laneValue (f : Flight) (m : Mask) (l : Nat) : Instr → Option (Reg × Word)
  | .swz d a x => some (d, fromLane f m a l (l ^^^ x.toNat))
  | .shfl d a b _ => some (d, fromLane f m a l ((f.g l b).toNat % 32))
  | .ballot d na pa => some (d, maskOf ((lanesOf m).filter (fun k => f.p k pa ^^ na)))
  | .matchLanes d a => some (d, maskOf ((lanesOf m).filter (fun k => decide (f.g k a = f.g l a))))
  | .scan d a ex op =>
    let below := (lanesOf m).filter (fun k => decide (k < l) || (!ex && decide (k = l)))
    some (d, folded op (below.map (fun k => f.g k a)))
  | .reduce d a op => some (d, folded op ((lanesOf m).map (fun k => f.g k a)))
  | _ => none
where
  /-- The reduction of some values from the left; the identity for none (R169, R170). -/
  folded (op : RedOp) : List Word → Word
    | [] => redIdentity op
    | x :: xs => xs.foldl (redStep op) (redFirst op x)

/-- The counters of idle steps after an MMAS.CR adds to those of some lanes: they stay at their greatest value (R146). -/
def idleRaised (t : Cells 32) : List (Nat × Nat) → Cells 32
  | [] => t
  | x :: xs => idleRaised (Cells.set t x.1 (BitVec.ofNat 32 (min 0xFFFFFFFF ((Cells.get t x.1).toNat + x.2)))) xs

/-- The value of VOTE (R167). -/
def voteIs (f : Flight) (m : Mask) (op : VoteOp) (na : Bool) (pa : PReg) : Bool :=
  let vs := (lanesOf m).map (fun k => f.p k pa ^^ na)
  match op with
  | .all => vs.all id
  | .any => vs.any id
  | .uni => vs.all id || vs.all (!·)

end Sys2Proof.Claims

open Sys2Proof Sys2Proof.Machine Sys2Proof.Claims

/-! Results of instructions. Each says that the instruction completes, what it writes, and that nothing else of the machine
changes but the slot's own place. -/

/-- R74 to R79: an integer instruction writes its result in every acting lane. -/
def Sys2Proof.Claims.integer_values : Prop :=
  ∀ (s : State) (i : Instr) (key : Nat) (b : Bool) (f : Flight) (la : Launch) (c : Clause) (d : Reg) (vals : Nat → List Word),
    Issues s i key b f la c → (∀ l, intValue f l i = some (d, vals l)) → i.wf = true →
      ∃ g, exec i s = .next (s.moveOn key b i g) ∧ SameButRegs (f.issued b c i) g ∧ RegsGiven f g (f.acting b c) d vals

/-- R80: a division reads its sources at issue and stays pending with its result. -/
def Sys2Proof.Claims.division_values : Prop :=
  ∀ (s : State) (i : Instr) (key : Nat) (b : Bool) (f : Flight) (la : Launch) (c : Clause) (d : Reg) (vals : Nat → List Word),
    Issues s i key b f la c → (∀ l, divValue f l i = some (d, vals l)) →
      exec i s = .next (s.moveOn key b i (f.waiting b c i (.write (writesOf (f.acting b c) d vals) [] 0)))

/-- R74 to R80: the integer instructions, and the divisions. -/
def Obligations.integer_results : Prop := Claims.integer_values ∧ Claims.division_values

/-- R113 to R117: a floating-point instruction writes its result in every acting lane and ORs its flags into FPSTAT. -/
def Obligations.float_results : Prop :=
  ∀ (s : State) (i : Instr) (key : Nat) (b : Bool) (f : Flight) (la : Launch) (c : Clause) (d : Reg) (res : Nat → FpRes),
    Issues s i key b f la c → (∀ l, floatValue f l i = some (d, res l)) →
      ∃ g, exec i s = .next (s.moveOn key b i g) ∧ SameButRegsFlags (f.issued b c i) g ∧
        RegsGiven f g (f.acting b c) d (fun l => [BitVec.ofNat 32 (res l).bits]) ∧
        g.fpstat = f.fpstat ||| (flagsOf (f.acting b c) (fun l => (res l).flags) &&& 0x1F)

/-- R81, R82: a compare or PBOOL writes its predicate in every acting lane; FCMP ORs its flag into FPSTAT. -/
def Obligations.compare_results : Prop :=
  ∀ (s : State) (i : Instr) (key : Nat) (b : Bool) (f : Flight) (la : Launch) (c : Clause) (pd : PReg) (val : Nat → Bool)
    (fl : Nat → Word),
    Issues s i key b f la c → (∀ l, predValue f l i = some (pd, val l, fl l)) →
      ∃ g, exec i s = .next (s.moveOn key b i g) ∧ SameButPredsFlags (f.issued b c i) g ∧ PredGiven f g (f.acting b c) pd val ∧
        g.fpstat = f.fpstat ||| (flagsOf (f.acting b c) fl &&& 0x1F)

/-- R83 to R85, R88: moves, selection, P2G and U2G. -/
def Sys2Proof.Claims.move_results : Prop :=
  ∀ (s : State) (i : Instr) (key : Nat) (b : Bool) (f : Flight) (la : Launch) (c : Clause) (d : Reg) (val : Nat → Word),
    Issues s i key b f la c → (∀ l, moveValue f l i = some (d, val l)) →
      ∃ g, exec i s = .next (s.moveOn key b i g) ∧ SameButRegs (f.issued b c i) g ∧
        RegsGiven f g (f.acting b c) d (fun l => [val l])

/-- R83: G2P writes predicates 0 to 14 of every acting lane from bits 0 to 14 of its register. -/
def Sys2Proof.Claims.g2p_results : Prop :=
  ∀ (s : State) (key : Nat) (b : Bool) (f : Flight) (la : Launch) (c : Clause) (a : Reg),
    Issues s (.g2p a) key b f la c →
      ∃ g, exec (.g2p a) s = .next (s.moveOn key b (.g2p a) g) ∧ SameButPreds (f.issued b c (.g2p a)) g ∧
        ∀ n l, n < 15 → l < 32 → (g.pMask n).getLsbD l =
          if (f.acting b c).getLsbD l then (f.g l a).getLsbD n else (f.pMask n).getLsbD l

/-- R83 to R86: the moves and selections into general registers, and G2P into the predicates. -/
def Obligations.moves_and_selections : Prop := Claims.move_results ∧ Claims.g2p_results

/-- R87, R88: a uniform instruction writes its uniform register. -/
def Obligations.uniform_results : Prop :=
  ∀ (s : State) (i : Instr) (key : Nat) (b : Bool) (f : Flight) (la : Launch) (c : Clause) (u : UReg) (v : Word),
    Issues s i key b f la c → unifValue f (f.acting b c) i = some (u, v) →
      ∃ g, exec i s = .next (s.moveOn key b i g) ∧ SameButUnif (f.issued b c i) g ∧ UnifGiven f g u v

/-- R118 to R126: a conversion reads its sources at issue and stays pending with its results and flags. -/
def Obligations.conversion_results : Prop :=
  ∀ (s : State) (i : Instr) (key : Nat) (b : Bool) (f : Flight) (la : Launch) (c : Clause) (d : Reg) (vals : Nat → List Word)
    (fl : Nat → Word),
    Issues s i key b f la c → (∀ l, convValue f l i = some (d, vals l, fl l)) →
      exec i s = .next (s.moveOn key b i
        (f.waiting b c i (.write (writesOf (f.acting b c) d vals) [] (flagsOf (f.acting b c) fl))))

/-- R164 to R170: a cross-lane instruction writes a general register of every acting lane. -/
def Sys2Proof.Claims.lane_results : Prop :=
  ∀ (s : State) (i : Instr) (key : Nat) (b : Bool) (f : Flight) (la : Launch) (c : Clause) (d : Reg) (val : Nat → Word),
    Issues s i key b f la c → (∀ l, laneValue f (f.acting b c) l i = some (d, val l)) →
      ∃ g, exec i s = .next (s.moveOn key b i g) ∧ SameButRegs (f.issued b c i) g ∧
        RegsGiven f g (f.acting b c) d (fun l => [val l])

/-- R167: VOTE gives every acting lane the same value. -/
def Sys2Proof.Claims.vote_results : Prop :=
  ∀ (s : State) (key : Nat) (b : Bool) (f : Flight) (la : Launch) (c : Clause) (pd : PReg) (op : VoteOp) (na : Bool) (pa : PReg),
    Issues s (.vote pd op na pa) key b f la c →
      ∃ g, exec (.vote pd op na pa) s = .next (s.moveOn key b (.vote pd op na pa) g) ∧
        SameButPreds (f.issued b c (.vote pd op na pa)) g ∧
        PredGiven f g (f.acting b c) pd (fun _ => voteIs f (f.acting b c) op na pa)

/-- R165 to R169: the cross-lane instructions, and VOTE. -/
def Obligations.lanes_and_votes : Prop := Claims.lane_results ∧ Claims.vote_results

namespace Sys2Proof.Claims

/-- A property of every state in which an instruction issues from a slot. -/
def Always (i : Instr) (q : State → Nat → Bool → Flight → Launch → Clause → Prop) : Prop :=
  ∀ (s : State) (key : Nat) (b : Bool) (f : Flight) (la : Launch) (c : Clause), Issues s i key b f la c → q s key b f la c

/-- The special register n as lane l of a slot reads it, by the table of R72: lane, slot, partition, FLIGHT, core, hall, gang,
role, WGID, LAUNCH, active mask, OWN, ITER, FMASK, FPSTAT, SEED, SCOPE, deadline, ASTAT. -/
def specialIs (key : Nat) (b : Bool) (f : Flight) (la : Launch) (m : Mask) (l n : Nat) : Word :=
  let wg := la.wgAt (key / 64)
  (([(0, BitVec.ofNat 32 l), (1, if b then 1 else 0), (2, BitVec.ofNat 32 (key % 64 / 16)), (3, BitVec.ofNat 32 (key % 64)),
    (4, BitVec.ofNat 32 (key / 64)), (5, BitVec.ofNat 32 (key / 64 / 4)), (6, BitVec.ofNat 32 ((wg.map (·.gang)).getD 0)),
    (7, BitVec.ofNat 32 f.role), (8, BitVec.ofNat 32 ((wg.map (·.wgid)).getD 0)), (9, f.launch), (10, m), (11, Cells.get f.own l),
    (12, Cells.get f.iter l), (13, f.fmask), (14, f.fpstat), (15, f.seed.setWidth 32), (16, (f.seed >>> 32).setWidth 32),
    (17, Cells.get f.scope l), (18, BitVec.ofNat 32 la.deadline), (19, BitVec.ofNat 32 (la.deadline / 2 ^ 32)),
    (20, Cells.get f.astat l)] : List (Nat × Word)).lookup n).getD 0

/-- The offsets that the acting lanes name: a register read as unsigned, plus an immediate (R176). -/
def offsetsOf (f : Flight) (m : Mask) (a : Reg) (imm : Int) : List (Nat × Int) :=
  (lanesOf m).map (fun l => (l, ((f.g l a).toNat : Int) + imm))

/-- The checks of every lane's access through handle h in lane order, and the state after them (R177). -/
def checksOf (s : State) (key : Nat) (la : Launch) (h : BitVec 10) (n : Nat) (need : Need) (na : Bool) (offs : List (Nat × Int)) :
    List (Nat × Except Deny LaneAddr) × State :=
  let hd := s.handle (keyCore key) la.ctx0 h.toNat
  hd.2.checks (keyCore key) la.ctx0 h.toNat hd.1 n need na offs

/-- Every lane's access is allowed. -/
def allAllowed {α β : Type} (rs : List (Nat × Except α β)) : Prop := ∀ r ∈ rs, ∃ x, r.2 = .ok x

end Sys2Proof.Claims

/-- R72, R73: SRD gives each acting lane its value of the special register. -/
def Sys2Proof.Claims.srd_results : Prop :=
  ∀ (d : Reg) (n : BitVec 8), Always (.srd d n) fun s key b f la c => n.toNat ≤ 20 →
    ∃ g, exec (.srd d n) s = .next (s.moveOn key b (.srd d n) g) ∧ SameButRegs (f.issued b c (.srd d n)) g ∧
      RegsGiven f g (f.acting b c) d (fun l => [specialIs key b f la (f.acting b c) l n.toNat])

/-- R73: SWR takes the value of the lowest acting lane. Ones clear bits of FMASK; FPSTAT takes bits 4 to 0; SEED takes a half. -/
def Sys2Proof.Claims.swr_results : Prop :=
  ∀ (a : Reg) (n : BitVec 8), Always (.swr a n) fun s key b f _la c => 13 ≤ n.toNat → n.toNat ≤ 16 →
    let g := f.issued b c (.swr a n)
    let v := f.g (lowLane (f.acting b c)) a
    exec (.swr a n) s = .next (s.moveOn key b (.swr a n)
      (if n = 13 then { g with fmask := f.fmask &&& ~~~v }
       else if n = 14 then { g with fpstat := BitVec.ofNat 32 (v.toNat % 32) }
       else if n = 15 then { g with seed := BitVec.ofNat 64 (f.seed.toNat / 2 ^ 32 * 2 ^ 32 + v.toNat) }
       else { g with seed := BitVec.ofNat 64 (v.toNat * 2 ^ 32 + f.seed.toNat % 2 ^ 32) }))

/-- R72, R88: SRD of every special register, and SWR of the writable ones. -/
def Obligations.special_registers : Prop := Claims.srd_results ∧ Claims.swr_results

/-- R89: JMP moves the slot to the clause at PC + 4 + 4 × offset; NOP does nothing; YIELD lets the slot give way in the next
cycle; SLEEP makes it wait 16 × n cycles. -/
def Obligations.simple_control : Prop :=
  (∀ off, Always (.jmp off) fun s key b f _ c =>
    exec (.jmp off) s = .next (s.putFlight key
      (((f.issued b c (.jmp off)).goto b ((f.slot b).pc + 4 + (off.signExtend 32 <<< 2))).settle))) ∧
  (Always .nop fun s key b f _ c => exec .nop s = .next (s.moveOn key b .nop (f.issued b c .nop))) ∧
  (Always .yield fun s key b f _ c =>
    let g := f.issued b c .yield
    exec .yield s = .next (s.moveOn key b .yield (g.setSlot b { g.slot b with wait := .yielded (s.cycle + 1) }))) ∧
  (∀ n, Always (.sleep n) fun s key b f _ c =>
    let g := f.issued b c (.sleep n)
    exec (.sleep n) s = .next (s.moveOn key b (.sleep n)
      (if n = 0 then g else g.setSlot b { g.slot b with wait := .sleep (s.cycle + 1 + 16 * n.toNat) })))

/-- R98, R99: CALL pushes a frame with the PC after it and moves the slot to its target; RET moves the slot towards its frame, the
JOINs on the way losing its lanes, and acts as EXIT where it meets no frame. Both wait until the slot has nothing pending. -/
def Sys2Proof.Claims.call_and_return : Prop :=
  (∀ off, Always (.call off) fun s key b f _ c => f.undone b = [] → f.stack.length < 64 →
    let g := (f.issued b c (.call off)).closeWindows b
    let x := f.slot b
    exec (.call off) s = .next (s.putFlight key
      (((g.push { kind := .frame, pc := x.pc + 4, mask := x.mask, ref := x.ref }).take b
        (x.pc + 4 + (off.signExtend 32 <<< 2)) x.mask (some f.stack.length)).settle))) ∧
  (Always .ret fun s key b f _ c => f.undone b = [] → ∀ g, ((f.issued b c .ret).closeWindows b).ret b = some g →
    exec .ret s = .next (s.putFlight key g.settle) ∧ ∃ e t, (g.slot b).ref = some e ∧ g.stack[e]? = some t ∧ t.kind = .frame) ∧
  (Always .ret fun s key b f _ c => f.undone b = [] →
    (((f.issued b c .ret).closeWindows b).ret b = none →
      let g := ((f.issued b c .ret).closeWindows b).exitLanes b (f.acting b c)
      let t := (((s.putFlight key g).leaveAll key (f.acting b c)).moveOn key b .ret g).retireIf key
      t.hole = false → exec .ret s = .next t) ∧
    ((f.stack.all (fun e => decide (e.kind ≠ .frame))) = true → ((f.issued b c .ret).closeWindows b).ret b = none))

/-- R91: EXIT ends the threads of the acting lanes: they leave the slot, the stack's JOIN and FRAME entries and the galleries. -/
def Sys2Proof.Claims.exit_ends_lanes : Prop :=
  Always .exit fun s key b f _ c => f.undone b = [] →
    let g := ((f.issued b c .exit).closeWindows b).exitLanes b (f.acting b c)
    let t := (((s.putFlight key g).leaveAll key (f.acting b c)).moveOn key b .exit g).retireIf key
    (t.hole = false → exec .exit s = .next t) ∧ (g.slot b).mask = (f.slot b).mask &&& ~~~(f.acting b c) ∧
      (∀ e ∈ g.stack, e.kind = .join ∨ e.kind = .frame → e.mask &&& f.acting b c = 0)

/-- R91, R98, R99: CALL, RET and EXIT. What a RET without a frame does in a lane with an open region is the model's choice (log entry 64). -/
def Obligations.calls_and_exits : Prop := Claims.call_and_return ∧ Claims.exit_ends_lanes

/-- R92, R95: BRA moves the whole slot when all its lanes take it, goes on when none does, and otherwise splits the slot: the not-taken
side keeps it where the other slot is free or it has at least as many lanes as the taken side, else the taken side does. -/
def Sys2Proof.Claims.branches : Prop :=
  ∀ (p : PReg) (neg : Bool) (off : BitVec 17) (join : Word), Always (.bra p neg off join) fun s key b f _ c =>
    let i := Instr.bra p neg off join
    let g := f.issued b c i
    let x := f.slot b
    let takes := if neg then ~~~(f.pMask p.toNat) else f.pMask p.toNat
    let tgt := x.pc + 8 + (off.signExtend 32 <<< 2)
    let jo := x.pc + 8 + (join <<< 2)
    let next := c.base + BitVec.ofNat 32 (4 * (hdrCount c.hdr + 1))
    (x.mask &&& ~~~takes = 0 → exec i s = .next (s.putFlight key ((g.goto b tgt).settle))) ∧
    (x.mask &&& ~~~takes ≠ 0 → x.mask &&& takes = 0 → exec i s = .next (s.moveOn key b i g)) ∧
    (x.mask &&& ~~~takes ≠ 0 → x.mask &&& takes ≠ 0 → f.undone b = [] → ∀ h,
      (g.closeWindows b).split b
        (if (f.slot (!b)).mask ≠ 0 ∧ countLanes (x.mask &&& ~~~takes) < countLanes (x.mask &&& takes)
         then [(tgt, x.mask &&& takes), (next, x.mask &&& ~~~takes)] else [(next, x.mask &&& ~~~takes), (tgt, x.mask &&& takes)]) jo = some h →
      exec i s = .next (s.putFlight key h.settle))

/-- R93: BRX moves the lanes to the clauses that their registers name; several addresses split the slot, in ascending order. -/
def Sys2Proof.Claims.indexed_branches : Prop :=
  ∀ (a : Reg) (join : Word), Always (.brx a join) fun s key b f _ c =>
    let i := Instr.brx a join
    let g := f.issued b c i
    let x := f.slot b
    let sides := groupLanes ((lanesOf x.mask).map (fun l => (l, f.g l a)))
    (∀ l ∈ lanesOf x.mask, (f.g l a).toNat % 4 = 0) →
      (∀ pc m, sides = [(pc, m)] → exec i s = .next (s.putFlight key ((g.goto b pc).settle))) ∧
      (2 ≤ sides.length → f.undone b = [] → ∀ h,
        (g.closeWindows b).split b sides (x.pc + 8 + (join <<< 2)) = some h → exec i s = .next (s.putFlight key h.settle))

/-- R92, R93, R95: BRA and BRX. -/
def Obligations.branch_results : Prop := Claims.branches ∧ Claims.indexed_branches

namespace Sys2Proof.Claims

/-- The state after the user trap of an instruction is taken: the records are written, the slot stands with its trapped lanes, and the
workgroup holds the event for its handler (R303, R344). -/
def trapTaken (s : State) (key : Nat) (b : Bool) (g : Flight) (la : Launch) (pc : Word) (words : Nat) (m : Mask)
    (fs : List LaneFault) (x : LaneFault) : State :=
  let s1 := s.records key g b la.ctx0 pc fs
  let t : TrapInfo := { code := x.code.num, n := BitVec.ofNat 8 x.n, pc := pc, mask := m, who := whoWord key b (lowLane m), va := 0,
                        flight := key, slotB := b, decode := false, hdrBad := false, count := words, late := none }
  (s1.putFlight key (g.setSlot b { g.slot b with trapped := m, replay := none })).modWg g.launch (keyCore key)
    (fun w => { w with held := w.held ++ [.trap t] })

end Sys2Proof.Claims

/-- R6, R90, R344: TRAP and BRK raise their codes in every acting lane. With a handler role that takes user traps the exception is
taken: the fault ring has a record for each lane, the slot stands at the instruction, and the handler's event is held; without one
the gang ends. -/
def Sys2Proof.Claims.trap_taken : Prop :=
  ∀ (n : BitVec 8) (isTrap : Bool),
    let i := if isTrap then Instr.trap n else Instr.brk n
    Always i fun s key b f la c =>
      let m := f.acting b c
      let g := f.issued b c i
      let fs := (lanesOf m).map (fun l => { plainFault (if isTrap then .trap else .brk) l with n := n.toNat })
      (∀ l ∈ lanesOf m, f.inRegion l = false) → s.ringRoom ≠ 0 →
        (f.kind ≠ .handler → la.takesTraps = true →
          let t := trapTaken (s.putFlight key g) key b g la (f.slot b).pc 1 m fs { plainFault (if isTrap then .trap else .brk) 0 with n := n.toNat }
          t.hole = false → exec i s = .next t) ∧
        (la.takesTraps = false →
          let s1 := (s.putFlight key g).records key g b la.ctx0 (f.slot b).pc fs
          let t := s1.endGang f.launch (((la.wgAt (keyCore key)).map (·.gang)).getD 0) (if isTrap then .trap else .brk)
          t.hole = false → exec i s = .next t)

/-- R53, R56, R347: an instruction of a level that the flight does not have raises PRIV in every live lane, before any effect. -/
def Sys2Proof.Claims.privilege : Prop :=
  ∀ (s : State) (i : Instr) (key : Nat) (b : Bool) (f : Flight) (la : Launch) (c : Clause),
    s.cur = { flight := key, slotB := b } → s.flight key = some f → Tbl.find s.launches f.launch.toNat = some la →
    (f.slot b).clause = some c → s.ready key f b i = true → (∀ r ∈ i.use.gr ++ i.use.gw, r < f.allot) →
    i.allowed f.kind = false → f.regions = [] → s.ringRoom ≠ 0 → f.kind ≠ .handler → la.takesTraps = true →
      let m := (f.slot b).mask
      let t := trapTaken s key b f la (f.slot b).pc i.words m (faultAll .priv m) (plainFault .priv 0)
      t.hole = false → exec i s = .next t

/-- R6, R53, R90: TRAP and BRK, and the instructions of a level that the flight does not have. -/
def Obligations.traps_and_privilege : Prop := Claims.trap_taken ∧ Claims.privilege

namespace Sys2Proof.Claims

/-- What each lane of an instruction writes, as register and predicate writes, one lane after the other. -/
abbrev LaneWrites := List (Nat × Nat × Word) × List (Nat × Nat × Bool)

/-- An instruction stays pending with what it still has to do, from a state t in which its other effects have been made. -/
def staysPending (s : State) (key : Nat) (b : Bool) (f : Flight) (c : Clause) (i : Instr) (t : State) (act : PendAct) : Prop :=
  t.hole = false → ∃ g, t.flight key = some g ∧
    exec i s = .next (t.moveOn key b i (g.addPending b i (f.slot b).pc (f.acting b c) false act))

/-- How a pending instruction that knows its results completes (R49, R146, R218): its results are written, it is done, and the slot has
acquired where the instruction does; a CVT instruction once its window is over or its slot waits (log entry 14), an acquire load after the
loads that its slot issued before it. What its slot's earlier instructions have read stays read (log entry 59). A flight with lanes that end, or
with nothing left, does more (R22, R347). -/
def completesWith (fl seq : Nat) (s : State) (f : Flight) (p : Pending) (gw : List (Nat × Nat × Word)) (pw : List (Nat × Nat × Bool))
    (fs : Word) (idle : List (Nat × Nat)) : Prop :=
  p.done = false → s.keepsBack fl f p = false → f.acqWaits p = false →
    let marked (q : Pending) : Pending := if q.seq = seq then { q with done := true }
      else if q.slotB = p.slotB ∧ q.seq < seq then { q with act := q.act.pinned } else q
    let rest := (f.pending.map marked).filter (fun q => decide (q.seq ≠ seq) || decide (0 < q.window))
    let g0 := (({ f with pending := rest, idle := idleRaised f.idle idle } : Flight).setGs gw).setPs pw
    let g := (g0.raise fs).settle
    let isFut := match p.instr with
      | .fwait .. => true
      | .ftest .. => true
      | _ => false
    let saw := if isFut then pw.any (fun w => w.2.2) else acquires p.instr
    g.finished = false → (∀ b, Wait.ends (g.slot b).wait = false) → s.hole = false →
      exec (.longLatencyCompletion fl seq) s = .next ((if saw then s.acquire (keyCore fl) else s).putFlight fl g)

/-- An instruction stays pending with the values that it writes, from a state in which its other effects have been made. -/
def pendingWrites (s : State) (key : Nat) (b : Bool) (f : Flight) (c : Clause) (i : Instr) (t : State) (w : LaneWrites) : Prop :=
  staysPending s key b f c i t (.write w.1 w.2 0)

end Sys2Proof.Claims

/-- R217: a fence waits until the slot's accesses are over, then releases, acquires, or does both. -/
def Sys2Proof.Claims.fences : Prop :=
  ∀ i ∈ [Instr.fenceAcq, Instr.fenceRel, Instr.fenceAr], Always i fun s key b f _ c =>
    (f.undone b).any Pending.isAccess = false →
      let g := f.issued b c i
      let s1 := if i = .fenceAcq then s.putFlight key g else (s.putFlight key g).release (keyCore key)
      let s2 := if i = .fenceRel then s1 else s1.acquire (keyCore key)
      exec i s = .next (s2.moveOn key b i g)

namespace Sys2Proof.Claims

/-- The private memory of a flight is held once: no two of its blocks in L1 have one index, a dirty word is valid, and a valid word that is
not dirty is as it is in memory (R180, R189). -/
def privTrue (f : Flight) : Prop :=
  (f.pblocks.map (fun x => x.index)).Nodup ∧ ∀ x ∈ f.pblocks, x.dirty &&& ~~~x.valid = 0 ∧
    ∀ l, l < 32 → x.valid.getLsbD l = true → x.dirty.getLsbD l = false → Cells.get x.words l = Cells.get f.privs (32 * x.index + l)

end Sys2Proof.Claims

/-- R189 to R191: the L1 requests of LDP and STP. A fetch leaves every private word of the flight as it is; a store gives the words of its
lanes their values and leaves every other one. -/
def Sys2Proof.Claims.private_words : Prop :=
  ∀ (s : State) (key : Nat) (f : Flight), Tbl.sorted s.flights = true → s.flight key = some f → Claims.privTrue f →
    (∀ u : Nat × Mask, ∃ g, (s.privFetch key u).2.flight key = some g ∧ Claims.privTrue g ∧
      (∀ i l, l < 32 → g.privWord i l = f.privWord i l) ∧ (f.privErrs = [] → (s.privFetch key u).1 = [] ∧ g.privErrs = [])) ∧
    (∀ (idx : Nat) (m : Mask) (v : Nat → Word), ∃ g,
      (s.privStore key idx ((lanesOf m).map (fun l => (l, v l)))).flight key = some g ∧ Claims.privTrue g ∧
        ∀ i l, l < 32 → g.privWord i l = if i = idx ∧ m.getLsbD l = true then v l else f.privWord i l)

/-- R190, R191: LDP reads the private words of each acting lane, index by index, and stays pending with them; STP writes them. Memory is
read and written at issue, which is the model's choice (log entry 11). -/
def Sys2Proof.Claims.private_forms : Prop :=
  ∀ (d a : Reg) (lk : BitVec 4) (wd : Width) (imm : BitVec 17) (isLoad : Bool),
    let i := if isLoad then Instr.ldp d a lk wd imm else Instr.stp d a lk wd imm
    Always i fun s key b f la c =>
      let m := f.acting b c
      let n := Width.regs wd
      let at_ (l : Nat) : Int := (f.g l a).toInt + imm.toInt
      let limit : Int := ((la.roles[f.role]?).map (fun r => (r.privWords : Int))).getD 0
      let uses := privUses n ((lanesOf m).map (fun l => (l, at_ l)))
      (∀ l ∈ lanesOf m, 0 ≤ at_ l ∧ at_ l + (n : Int) ≤ limit) →
        (isLoad = true →
          let r := thread (fun (u : Nat × Mask) s => s.privFetch key u) uses (s.begun key b f c i)
          (∀ x ∈ r.1, x = []) → ∀ g, r.2.flight key = some g →
            staysPending s key b f c i r.2 (.reading
              (writesOf m d (fun l => (List.range n).map (fun k => g.privWord ((at_ l).toNat + k) l)))
              (.priv d.toNat n ((lanesOf m).map (fun l => (l, at_ l)))))) ∧
        (isLoad = false →
          staysPending s key b f c i
            (uses.foldl (fun s u => s.privStore key u.1 ((lanesOf u.2).map (fun l => (l, f.gAt l d (u.1 - (at_ l).toNat)))))
              (s.begun key b f c i)) .finished)

/-- R189 to R191: LDP and STP, and what their requests leave of the private words. -/
def Obligations.private_access : Prop := Claims.private_words ∧ Claims.private_forms

/-- R193 to R195, R206, R243: LDS reads a window of a scratchpad, that of the launch on the core that it names, for the lanes inside it, in
whose regions its registers become concrete; lanes outside it read nothing and set their FMASK bits. It reads at issue, which is the model's
choice (log entry 11). -/
def Sys2Proof.Claims.scratch_loads : Prop :=
  ∀ (d a : Reg) (lk : BitVec 4) (win : BitVec 4) (remote : Bool) (cih : BitVec 2) (wd : Width) (off : BitVec 17),
    let i := Instr.lds d a lk win remote cih wd off
    Always i fun s key b f la c => ∀ core, la.peer (keyCore key) remote cih.toNat = some core →
      let m := f.acting b c
      let n := Width.bytes wd
      let xs := scrPlaces f m a off.toNat (la.winAt core win.toNat) n
      let s1 := (s.scrErrors core ((scrGood xs).flatMap (fun x => (List.range n).map (x.2 + ·)))).2
      (∀ l ∈ lanesOf m, ((f.g l a).toNat + off.toNat) % n = 0) → (∀ x ∈ scrGood xs, s.scrBad core x.2 n = false) →
        let reads := (scrGood xs).map (·.1)
        let made (e : Nat × Region) : Nat × Region :=
          if reads.contains e.1 then (e.1, (List.range (Width.regs wd)).foldl (fun r k => r.setTag (d.toNat + k) .concrete) e.2) else e
        exec i s = .next (s1.moveOn key b i (({ f.issued b c i with
          fmask := f.fmask ||| maskOf (scrOffs xs), regions := (f.issued b c i).regions.map made } : Flight).addPending b i
          (f.slot b).pc (maskOf ((scrGood xs).map (·.1) ++ scrOffs xs)) false
          (.write ((scrGood xs).flatMap (fun x => runWrites d x.1 (loadWords wd (leValue (s.scr core) x.2 n)))) [] 0)))

/-- R193 to R195: STS writes the bytes that its lanes name in a window, that of the launch on the core that it names, and no other byte of
any scratchpad or memory; lanes outside the window write nothing and set their FMASK bits. It writes at issue, which is the model's choice (log
entry 11). -/
def Sys2Proof.Claims.scratch_stores : Prop :=
  ∀ (d a : Reg) (lk : BitVec 4) (win : BitVec 4) (remote : Bool) (cih : BitVec 2) (wd : Width) (off : BitVec 17),
    let i := Instr.sts d a lk win remote cih wd off
    Always i fun s key b f la c => ∀ core, la.peer (keyCore key) remote cih.toNat = some core →
      let m := f.acting b c
      let n := Width.bytes wd
      let ps := scrPlaces f m a off.toNat (la.winAt core win.toNat) n
      let xs := scrGood ps
      (∀ l ∈ lanesOf m, ((f.g l a).toNat + off.toNat) % n = 0) → ∃ sc,
        exec i s = .next (((s.setScr core sc).scrClean core (xs.flatMap (fun x => (List.range n).map (x.2 + ·)))).moveOn key b i
          (({ f.issued b c i with fmask := f.fmask ||| maskOf (scrOffs ps) } : Flight).addPending b i (f.slot b).pc
            (maskOf (xs.map (·.1) ++ scrOffs ps)) false .finished)) ∧
        (∀ o, (∀ x ∈ xs, o < x.2 ∨ x.2 + n ≤ o) → Cells.get sc o = Cells.get (s.scr core) o) ∧
        (∀ x ∈ xs, (∀ y ∈ xs, y ≠ x → x.2 + n ≤ y.2 ∨ y.2 + n ≤ x.2) → leValue sc x.2 n = storeValue f x.1 d wd)

/-- R192, R193: where a lane's access of n bytes at an offset of a window goes: to its place in a ring window, to the window's start plus the
offset, or nowhere when it would end past the window. -/
def Sys2Proof.Claims.scratch_places : Prop :=
  ∀ (w : WinAt) (o n : Nat), o % n = 0 →
    (w.ring = true → scrLane w o n = .at (w.start + o % w.size)) ∧
    (w.ring = false → o + n ≤ w.size → scrLane w o n = .at (w.start + o)) ∧
    (w.ring = false → w.size < o + n → scrLane w o n = .off)

/-- R192 to R195: LDS and STS. -/
def Obligations.scratchpad_access : Prop := Claims.scratch_loads ∧ Claims.scratch_stores ∧ Claims.scratch_places

/-- R48, R183: LD through a handle that allows it. A weak load stays pending with the addresses that it will read; the others go to their
home whatever the L1 holds, read at issue, and stay pending with what they read (log entry 11). -/
def Obligations.loads : Prop :=
  ∀ (d a : Reg) (na : Bool) (lk : BitVec 4) (h : BitVec 10) (ord : Order) (wd : Width) (imm : BitVec 17),
    let i := Instr.ld d a na lk h ord wd imm
    Always i fun s key b f la c => f.regions = [] →
      let rs := checksOf (s.begun key b f c i) key la h (Width.bytes wd) .read (na || decide (ord ≠ .weak))
        (offsetsOf f (f.acting b c) a imm.toInt)
      allAllowed rs.1 →
        (ord = .weak → exec i s = .next (rs.2.moveOn key b i (f.waiting b c i (.load d.toNat wd ord (passed rs.1))))) ∧
        (ord ≠ .weak →
          let v := rs.2.loadNow (keyCore key) false d.toNat wd (passed rs.1)
          v.2.hole = false → exec i s = .next (v.2.moveOn key b i
            (f.waiting b c i (.reading v.1 (.mem d.toNat wd ord (passed rs.1))))))

/-- R184, R213: ST through a handle that allows it: a release first waits for the slot's accesses and takes effect; loads of the slot
that touch the same bytes have read before. It does not issue while it would write a word that another lane's priority attempt has reserved
(R252). -/
def Obligations.stores : Prop :=
  ∀ (d a : Reg) (na : Bool) (lk : BitVec 4) (h : BitVec 10) (ord : Order) (wd : Width) (imm : BitVec 17),
    let i := Instr.st d a na lk h ord wd imm
    Always i fun s key b f la c => f.regions = [] → (ord = .rel → (f.undone b).any Pending.isAccess = false) →
      let n := Width.bytes wd
      let rs := checksOf (s.begun key b f c i) key la h n .write (na || decide (ord ≠ .weak)) (offsetsOf f (f.acting b c) a imm.toInt)
      let ok := passed rs.1
      allAllowed rs.1 → (∀ x ∈ ok, x.host = false → rs.2.held key (f.acting b c) x.pa n = false) →
        let s1 := if ord = .rel then rs.2.release (keyCore key) else rs.2
        let s2 := (s1.loadsFirst key b ok n).storeLanes (keyCore key) (decide (ord = .weak)) n (ok.map (fun x => (x, storeValue f x.lane d wd)))
        s2.hole = false → ∃ g, s2.flight key = some g ∧
          exec i s = .next (s2.moveOn key b i (g.addPending b i (f.slot b).pc (f.acting b c) false .finished))

namespace Sys2Proof.Claims

/-- A number of w bits read in two's complement. -/
def signedOf (w n : Nat) : Int := if 2 * n < 2 ^ w then (n : Int) else (n : Int) - 2 ^ w

/-- The new value of a word of w bits in ATOM, by the table of R232. -/
def atomNew (op : AtomOp) (w old v : Nat) : Nat :=
  match op with
  | .add => (old + v) % 2 ^ w
  | .minI => if signedOf w v < signedOf w old then v else old
  | .minN => if v < old then v else old
  | .maxI => if signedOf w old < signedOf w v then v else old
  | .maxN => if old < v then v else old
  | .and => old &&& v
  | .or => old ||| v
  | .xor => old ^^^ v
  | .exch => v
  | .fadd => (fp32.add .rne (Fp.ofWord (BitVec.ofNat 32 old)) (Fp.ofWord (BitVec.ofNat 32 v))).bits % 2 ^ 32
  | .fmin => (fp32.minmax false old v).bits % 2 ^ 32
  | .fmax => (fp32.minmax true old v).bits % 2 ^ 32

/-- The operation of ATOM on the lanes' words, one lane after the other (R231, R232). -/
def atomAll (core : Nat) (op : AtomOp) (wide : Bool) (f : Flight) (d : Reg) (as : List LaneAddr) (s : State) : List LaneWrites × State :=
  let n := if wide then 8 else 4
  thread (fun (x : LaneAddr) s =>
    let old := s.atHome core x n
    ((runWrites d x.lane (loadWords (if wide then .w64 else .w32) old.1), []),
      old.2.storeBytes core false x n (atomNew op (8 * n) old.1 (wordsValue f x.lane d wide)))) as s

/-- The operation of ACAS (R234): the word is replaced where it equals the compare value, and pd says so. -/
def acasAll (core : Nat) (pd : PReg) (wide : Bool) (f : Flight) (d c : Reg) (as : List LaneAddr) (s : State) : List LaneWrites × State :=
  let n := if wide then 8 else 4
  thread (fun (x : LaneAddr) s =>
    let old := s.atHome core x n
    ((runWrites d x.lane (loadWords (if wide then .w64 else .w32) old.1), [(pd.toNat, x.lane, decide (old.1 = wordsValue f x.lane c wide))]),
      if old.1 = wordsValue f x.lane c wide then old.2.storeBytes core false x n (wordsValue f x.lane d wide) else old.2)) as s

/-- The operation of DCAS (R236): both words are replaced where both equal their compare values. -/
def dcasAll (core : Nat) (pd : PReg) (f : Flight) (d : Reg) (as : List (LaneAddr × LaneAddr)) (s : State) : List LaneWrites × State :=
  thread (fun (x : LaneAddr × LaneAddr) s =>
    let l := x.1.lane
    let oA := s.coreRead core x.1.pa 4
    let oB := oA.2.coreRead core x.2.pa 4
    let ok := decide (oA.1 = (f.gAt l d 0).toNat) && decide (oB.1 = (f.gAt l d 1).toNat)
    ((runWrites d l [BitVec.ofNat 32 oA.1, BitVec.ofNat 32 oB.1], [(pd.toNat, l, ok)]),
      if ok then (oB.2.storeBytes core false x.1 4 (f.gAt l d 2).toNat).storeBytes core false x.2 4 (f.gAt l d 3).toNat else oB.2)) as s

/-- The operation of AMOVE (R237): the second word takes the old value of the first, and the first takes the register. -/
def amoveAll (core : Nat) (wide : Bool) (f : Flight) (d : Reg) (as : List (LaneAddr × LaneAddr)) (s : State) : List LaneWrites × State :=
  let n := if wide then 8 else 4
  thread (fun (x : LaneAddr × LaneAddr) s =>
    let old := s.coreRead core x.1.pa n
    ((runWrites d x.1.lane (loadWords (if wide then .w64 else .w32) old.1), []),
      (old.2.storeBytes core false x.2 n old.1).storeBytes core false x.1 n (wordsValue f x.1.lane d wide))) as s

/-- What passed of a list of checks. -/
def goodOf {α : Type} (rs : List (Nat × Except Deny α)) : List α := rs.filterMap (fun r => r.2.toOption)

/-- How an atomic completes once every lane's access is allowed: a release takes effect first, loads of the slot that touch
its words have read before, then the lanes follow one another (R233, R238, R239, R252). -/
def atomicDone (s : State) (key : Nat) (b : Bool) (f : Flight) (c : Clause) (i : Instr) (rel : Bool) (n : Nat) (s0 : State)
    (words : List LaneAddr) (run : State → List LaneWrites × State) : Prop :=
  (∀ x ∈ words, x.host = false → s0.held key (f.acting b c) x.pa n = false) →
    let s1 := if rel then s0.release (keyCore key) else s0
    let r := run (s1.loadsFirst key b words n)
    r.2.hole = false → ∃ g, r.2.flight key = some g ∧
      exec i s = .next (r.2.moveOn key b i (g.addPending b i (f.slot b).pc (f.acting b c) false
        (.write (r.1.flatMap (·.1)) (r.1.flatMap (·.2)) 0)))

end Sys2Proof.Claims

/-- R231 to R234: ATOM and ACAS through a handle that allows them. -/
def Sys2Proof.Claims.atomics : Prop :=
  (∀ (d a : Reg) (op : AtomOp) (lk : BitVec 4) (h : BitVec 10) (ord : Order) (wide : Bool) (imm : BitVec 17),
    let i := Instr.atom d a op lk h ord wide imm
    i.wf = true → Always i fun s key b f la c => (ord = .rel → (f.undone b).any Pending.isAccess = false) →
      let n := if wide then 8 else 4
      let rs := checksOf (s.begun key b f c i) key la h n .atomic true (offsetsOf f (f.acting b c) a imm.toInt)
      allAllowed rs.1 → atomicDone s key b f c i (decide (ord = .rel)) n rs.2 (passed rs.1) (atomAll (keyCore key) op wide f d (passed rs.1))) ∧
  (∀ (pd : PReg) (d a : Reg) (lk : BitVec 4) (h : BitVec 10) (ord : Order) (wide : Bool) (e : Reg) (imm : BitVec 10),
    let i := Instr.acas pd d a lk h ord wide e imm
    Always i fun s key b f la c => (ord = .rel → (f.undone b).any Pending.isAccess = false) →
      let n := if wide then 8 else 4
      let rs := checksOf (s.begun key b f c i) key la h n .atomic true (offsetsOf f (f.acting b c) a imm.toInt)
      allAllowed rs.1 → atomicDone s key b f c i (decide (ord = .rel)) n rs.2 (passed rs.1) (acasAll (keyCore key) pd wide f d e (passed rs.1)))

/-- R235 to R239: DCAS and AMOVE check the first word of each lane before the second, and then act on both as one. AMOVE consumes nothing of
the second word, which it only writes (R206). -/
def Sys2Proof.Claims.two_word_atomics : Prop :=
  (∀ (pd : PReg) (d a : Reg) (lk : BitVec 4) (h1 h2 : BitVec 10) (e : Reg) (ord : Order),
    let i := Instr.dcas pd d a lk h1 h2 e ord
    Always i fun s key b f la c => (ord = .rel → (f.undone b).any Pending.isAccess = false) →
      let rs := probeTwo a e h1 h2 4 .atomic (placeOf key b f la c) f (s.begun key b f c i)
      let ok := goodOf rs.1
      allAllowed rs.1 → atomicDone s key b f c i (decide (ord = .rel)) 4 rs.2 (ok.flatMap (fun x => [x.1, x.2]))
        (dcasAll (keyCore key) pd f d ok)) ∧
  (∀ (d a : Reg) (wide : Bool) (lk : BitVec 4) (h1 h2 : BitVec 10) (e : Reg) (ord : Order),
    let i := Instr.amove d a wide lk h1 h2 e ord
    Always i fun s key b f la c => (ord = .rel → (f.undone b).any Pending.isAccess = false) →
      let n := if wide then 8 else 4
      let rs := probeTwo a e h1 h2 n .put (placeOf key b f la c) f (s.begun key b f c i)
      let ok := goodOf rs.1
      allAllowed rs.1 → atomicDone s key b f c i (decide (ord = .rel)) n rs.2 (ok.flatMap (fun x => [x.1, x.2]))
        (amoveAll (keyCore key) wide f d ok))

/-- The atomics on one word and on two. -/
def Obligations.atomic_operations : Prop := Claims.atomics ∧ Claims.two_word_atomics

/-- R240, R251: ABEGIN opens a region in every acting lane, with its handler, and sets ASTAT, priority after eight aborts; ASTAT reads
the status; AABORT does nothing in a lane without a region and closes the others with cause 9, moving them to their handlers. -/
def Sys2Proof.Claims.regions_open_and_abort : Prop :=
  (∀ off, Always (.abegin off) fun s key b f _ c => f.undone b = [] →
    let i := Instr.abegin off
    let m := f.acting b c
    let g0 := (f.issued b c i).addPending b i (f.slot b).pc m false .finished
    let n (l : Nat) := (Cells.get f.astat l).toNat / 65536 % 256
    ∃ g, exec i s = .next (s.moveOn key b i g) ∧ { g with regions := g0.regions, astat := g0.astat } = g0 ∧
      ∀ l, l < 32 → if m.getLsbD l = true then
          Tbl.find g.regions l = some { handler := (f.slot b).pc + 8 + (off <<< 2), reads := [], writes := [], cons := [], tags := [],
                                        priority := decide (8 ≤ n l) } ∧
          Cells.get g.astat l = BitVec.ofNat 32 (16 + (if 8 ≤ n l then 512 else 0) + n l * 65536)
        else Tbl.find g.regions l = Tbl.find g0.regions l ∧ Cells.get g.astat l = Cells.get f.astat l) ∧
  (∀ d lk, Always (.astat d lk) fun s key b f _ c =>
    let i := Instr.astat d lk
    exec i s = .next (s.moveOn key b i (f.waiting b c i
      (.write (writesOf (f.acting b c) d (fun l => [Cells.get f.astat l])) [] 0)))) ∧
  (Always .aabort fun s key b f _ c =>
    let i := Instr.aabort
    let out := (lanesOf (f.acting b c)).filter (fun l => f.inRegion l)
    let g := (f.issued b c i).addPending b i (f.slot b).pc (f.acting b c &&& ~~~(maskOf out)) (decide (out ≠ [])) .finished
    (out = [] → exec i s = .next (s.moveOn key b i g)) ∧
    (out ≠ [] → f.undone b = [] →
      let g1 := (out.foldl (fun g l => g.abortRegion { lane := l, cause := 9, entry := 0 }) g).closeWindows b
      ∀ h, g1.placeAborted b (groupLanes (out.map (fun l => (l, ((Tbl.find g.regions l).map (·.handler)).getD 0)))) = some h →
        exec i s = .next ((out.foldl (fun s l => s.unreserve key l) s).putFlight key
          (if (f.slot b).mask &&& ~~~(maskOf out) ≠ 0 then (h.advance b i.words).settle else h.settle)) ∧
        ∀ l ∈ out, g1.inRegion l = false ∧ (Cells.get g1.astat l).toNat % 32 = 9))

namespace Sys2Proof.Claims

/-- The commits of the acting lanes, one lane after the other (R246, R247): none where the lane aborts or meets an uncorrectable error
(R206, R254). A lane without a region commits nothing. -/
def commitAll (p : Place) (ls : List Nat) (s : State) : List (Nat × Option (List (Nat × Nat × Word) × Bool)) × State :=
  thread (fun l s =>
    match (s.flight p.key).bind (fun f => Tbl.find f.regions l) with
    | none => ((l, some ([], false)), s)
    | some r =>
      let x := commitLane p l r s
      ((l, match x.1 with
        | .ok ws repaired => some (ws, repaired)
        | _ => none), x.2)) ls s

end Sys2Proof.Claims

/-- R246 to R248: when no lane aborts or meets an uncorrectable error, AEND commits the lanes' regions in lane order, stays pending with the repaired registers, and
pd says in which lanes a read was repaired. -/
def Sys2Proof.Claims.region_commit : Prop :=
  ∀ (rel acq : Bool) (pd : PReg), Always (.aend rel acq pd) fun s key b f la c =>
    let i := Instr.aend rel acq pd
    let m := f.acting b c
    let s0 := s.begun key b f c i
    (rel = true → (f.undone b).any Pending.isAccess = false) → commitHeld s0 la.ctx0 key f m = false →
      let rs := commitAll (placeOf key b f la c) (lanesOf m) (if rel then s0.release (keyCore key) else s0)
      (∀ r ∈ rs.1, r.2.isSome = true) → rs.2.hole = false → ∃ g, rs.2.flight key = some g ∧
        exec i s = .next (rs.2.moveOn key b i (g.addPending b i (f.slot b).pc m false
          (.write (rs.1.flatMap (fun r => (r.2.map (·.1)).getD [])) (rs.1.map (fun r => (pd.toNat, r.1, (r.2.map (·.2)).getD false))) 0)))

/-- R247: the commit of one lane's region, whose words are translated as they stand, where no soft error is stored. A read that has changed
and is hard aborts with cause 1, the first one; otherwise a constraint whose outcome has changed aborts with cause 2, the first one; otherwise
the write set is written, concrete or as read value plus constant, the tagged registers take their repaired values, and ASTAT says whether a
read was repaired. -/
def Sys2Proof.Claims.lane_commit : Prop :=
  ∀ (p : Place) (l : Nat) (r0 r : Region) (s s0 : State), s.errors = [] → r0.retranslated s l p.la.ctx0 = (.ok r, s0) →
    let cur := currentValues s0 p.core r
    let upd (k : Nat) : Word := (cur.1.map (·.1)).getD k 0
    let changed (k : Nat) : Prop := ∃ e, r.reads[k]? = some e ∧ e.obs ≠ upd k
    let hardAt (k : Nat) : Prop := ∃ e, r.reads[k]? = some e ∧ e.obs ≠ upd k ∧ e.hard = true
    let num (c : Constraint) (w : Word) : Int := if c.signed then w.toInt else w.toNat
    let kept (c : Constraint) : Prop :=
      (if c.symLeft then holdsBetween c.cc (num c (upd c.k + c.c)) (num c c.v) else holdsBetween c.cc (num c c.v) (num c (upd c.k + c.c))) = c.outcome
    (∀ k, hardAt k → (∀ j, j < k → ¬ hardAt j) → commitLane p l r0 s = (.abort ⟨l, 1, k⟩, cur.2)) ∧
    (∀ k c, (∀ j, ¬ hardAt j) → r.cons[k]? = some c → ¬ kept c → (∀ j x, j < k → r.cons[j]? = some x → kept x) →
      commitLane p l r0 s = (.abort ⟨l, 2, k⟩, cur.2)) ∧
    ((∀ k, ¬ hardAt k) → (∀ c ∈ r.cons, kept c) →
      let value (e : WriteEnt) : Word := match e.tag with
        | .concrete => e.val
        | .sym k c => upd k + c
      let s1 := r.writes.foldl (fun s e => s.homeWrite p.core e.pa 4 (value e).toNat) cur.2
      let regs := r.tags.filterMap (fun e => match e.2 with
        | .sym k v => some (e.1, l, upd k + v)
        | .concrete => none)
      ∃ repaired : Bool, (repaired = true ↔ ∃ k, changed k) ∧ commitLane p l r0 s = (.ok regs repaired,
        (s1.modFlight p.key (fun f => { f with
          regions := Tbl.del f.regions l
          astat := Cells.set f.astat l (BitVec.ofNat 32 (repaired.toNat * 256 + (Cells.get f.astat l).toNat / 512 % 2 * 512)) })).unreserve p.key l))

/-- How regions open, abort and commit. -/
def Obligations.region_bounds : Prop := Claims.regions_open_and_abort ∧ Claims.region_commit ∧ Claims.lane_commit

/-- R242 to R245: the LD of one lane in its region, once its access is allowed. It takes the value of the write set's entry for its word, else
the value that the read set has observed, else the word in memory, for which the read set gains an entry; its register is tagged with what it
holds. A word with no entry in either set finds eight read entries: the region aborts with cause 3, before its access is checked, which is the
model's choice (log entry 75); what names a word is its virtual address (log entry 74). -/
def Sys2Proof.Claims.region_word_load : Prop :=
  ∀ (p : Place) (idx : Nat) (h : Handle) (na weak : Bool) (d a : Reg) (l : Nat) (o : Int) (r : Region) (s : State),
    let va := handleVa h o
    let inW := r.writes.find? (fun e => decide (e.va = va))
    let inR := r.reads.findIdx? (fun e => decide (e.va = va))
    let ld := regionLd p idx (some h) na weak d a l o r s
    (inW = none → inR = none → 8 ≤ r.reads.length → ld = (LaneRes.abort l 3, s)) ∧
    ∀ (s1 : State) (x : LaneAddr) (f : Flight),
      s.check p.core p.la.ctx0 idx l (some h) o 4 (if inW.isSome || inR.isSome then .look else .read) (na || !weak) = (.ok x, s1) →
      s1.flight p.key = some f → Tbl.find f.regions l = some r →
        let r1 := r.hardenRegs [a.toNat]
        let gives (v : Word) (q : Region) : Prop := ld.1 = { writes := runWrites d l [v], faults := [], aborts := [] } ∧
          ∃ g, ld.2.flight p.key = some g ∧ Tbl.find g.regions l = some q
        (∀ e, inW = some e → gives e.val (r1.setTag d.toNat e.tag) ∧ ld.2.mem = s1.mem) ∧
        (∀ k e, inW = none → inR = some k → r.reads[k]? = some e → gives e.obs (r1.setTag d.toNat (.sym k 0)) ∧ ld.2.mem = s1.mem) ∧
        (inW = none → inR = none → r.reads.length < 8 →
          let s2 := s1.modRegion p.key l (fun r => r.hardenRegs [a.toNat])
          let s3 := if r.priority then s2.settleWord x.pa else s2
          let v := (if weak then s3.fillSpans p.core 4 [x] else s3).loadBytes p.core weak x 4
          let w := BitVec.ofNat 32 v.1
          gives w (({ r1 with reads := r1.reads ++ [{ va := va, pa := x.pa, obs := w, hard := false }] } : Region).setTag d.toNat
            (.sym r.reads.length 0)) ∧
          (s1.l1 = [] → x.host = false → x.pa % 4 = 0 → x.va % 128 = x.pa % 128 → w = wordAt s1.mem x.pa) ∧
          (r.priority = true → ld.2.reserved.any (fun y => decide (y.pa = x.pa)) = true))

/-- R242 to R245: the ST of one lane in its region, once its access is allowed: the write set's entry for its word holds the value with its
register's tag, and memory is as it was. A ninth entry aborts the region with cause 4, before the access is checked, which is the model's choice
(log entries 74 and 75). -/
def Sys2Proof.Claims.region_word_store : Prop :=
  ∀ (p : Place) (idx : Nat) (h : Handle) (na : Bool) (d a : Reg) (v : Word) (l : Nat) (o : Int) (r : Region) (s : State),
    let va := handleVa h o
    let known := r.writes.any (fun e => decide (e.va = va))
    let st := regionSt p idx (some h) na d a v l o r s
    (known = false → 8 ≤ r.writes.length → st = (LaneRes.abort l 4, s)) ∧
    ∀ (s1 : State) (x : LaneAddr) (f : Flight), known = true ∨ r.writes.length < 8 →
      s.check p.core p.la.ctx0 idx l (some h) o 4 .write na = (.ok x, s1) → s1.flight p.key = some f → Tbl.find f.regions l = some r →
        let e : WriteEnt := { va := va, pa := x.pa, val := v, tag := r.tag d.toNat }
        st.1 = { writes := [], faults := [], aborts := [] } ∧ st.2.mem = s1.mem ∧ st.2.hostMem = s1.hostMem ∧
          ∃ g q, st.2.flight p.key = some g ∧ Tbl.find g.regions l = some q ∧ q.writes.find? (fun y => decide (y.va = va)) = some e ∧
            (∀ y, y.va ≠ va → (y ∈ q.writes ↔ y ∈ r.writes)) ∧ { q with writes := r.writes } = r.hardenRegs [a.toNat]

/-- R241, R242: inside a region, a 32-bit LD and ST act lane by lane. A load has read when it issues, which is the model's choice (log entry 11);
after a ST memory is as the checks of its lanes leave it (R177). -/
def Sys2Proof.Claims.region_forms : Prop :=
  ∀ (d a : Reg) (na : Bool) (lk : BitVec 4) (h : BitVec 10) (ord : Order) (imm : BitVec 17) (isLoad : Bool),
    let i := if isLoad then Instr.ld d a na lk h ord .w32 imm else Instr.st d a na lk h ord .w32 imm
    Always i fun s key b f la c => ord = .weak ∨ ord = .strong → (∀ l ∈ lanesOf (f.acting b c), f.inRegion l = true) →
      let p := placeOf key b f la c
      let hd := (s.begun key b f c i).handle (keyCore key) la.ctx0 h.toNat
      let at_ (l : Nat) : Int := ((f.g l a).toNat : Int) + imm.toInt
      let reg := thread (fun (x : Nat × Region) s =>
        if isLoad then regionLd p h.toNat hd.1 na (decide (ord = .weak)) d a x.1 (at_ x.1) x.2 s
        else regionSt p h.toNat hd.1 na d a (f.g x.1 d) x.1 (at_ x.1) x.2 s) (regionLanes (f.issued b c i) (f.acting b c)) hd.2
      (∀ e, hd.1 = some e → e.host = false) → (∀ r ∈ reg.1, r.faults = [] ∧ r.aborts = []) → reg.2.hole = false →
        ∃ g act, reg.2.flight key = some g ∧
          exec i s = .next (reg.2.moveOn key b i (g.addPending b i (f.slot b).pc (f.acting b c) false act)) ∧
          (isLoad = true → act = .reading (reg.1.flatMap (·.writes)) (.mem d.toNat .w32 ord []) ∨
            reg.1.flatMap (·.writes) = [] ∧ act = .load d.toNat .w32 ord []) ∧
          (isLoad = false → act = .finished ∧
            let chk := thread (fun (x : Nat × Region) s => s.check (keyCore key) la.ctx0 h.toNat x.1 hd.1 (at_ x.1) 4 .write na)
              (regionLanes (f.issued b c i) (f.acting b c)) hd.2
            reg.2.mem = chk.2.mem ∧ reg.2.hostMem = s.hostMem)

/-- R241 to R245: LD and ST inside a region. A load takes its value from the write set, else from the read set, else from memory, and a store
goes to the write set alone. -/
def Obligations.region_access : Prop := Claims.region_forms ∧ Claims.region_word_load ∧ Claims.region_word_store

/-- R186, R187: PREF fills the L1, or with .L2 the home slice alone, for the lanes that may read, skipping the others, and does nothing through
an uncached or host-space handle; CCTL works on the blocks that its lanes name. Neither waits, and neither changes a register. -/
def Sys2Proof.Claims.cache_hints : Prop :=
  (∀ (a : Reg) (l2 : Bool) (lk : BitVec 4) (h : BitVec 10) (wd : Width) (imm : BitVec 17),
    let i := Instr.pref a l2 lk h wd imm
    Always i fun s key b f la c =>
      let hd := (s.begun key b f c i).handle (keyCore key) la.ctx0 h.toNat
      let rs := checksOf (s.begun key b f c i) key la h (Width.bytes wd) .look false (offsetsOf f (f.acting b c) a imm.toInt)
      let s2 := if (∃ e, hd.1 = some e ∧ (e.host = true ∨ e.policy = 2)) then hd.2
        else if l2 then (passed rs.1).foldl (fun s x => s.fetchHome (Width.bytes wd) x) rs.2
        else rs.2.fillSpans (keyCore key) (Width.bytes wd) (passed rs.1)
      staysPending s key b f c i s2 .finished) ∧
  (∀ (a : Reg) (op : CctlOp) (lk : BitVec 4) (h : BitVec 10) (imm : BitVec 17),
    let i := Instr.cctl a op lk h imm
    Always i fun s key b f la c =>
      let hd := (s.begun key b f c i).handle (keyCore key) la.ctx0 h.toNat
      ∀ e, hd.1 = some e → (∀ l ∈ lanesOf (f.acting b c), 0 ≤ ((f.g l a).toNat : Int) + imm.toInt ∧
          ((f.g l a).toNat : Int) + imm.toInt < e.size) →
        let s2 := if e.host = true ∨ e.policy = 2 then hd.2
          else (lanesOf (f.acting b c)).foldl (fun s l =>
            s.cctlBlock (keyCore key) la.ctx0 (handleVa e (((f.g l a).toNat : Int) + imm.toInt)) op) hd.2
        s2.hole = false → exec i s = .next (s2.moveOn key b i (f.waiting b c i .finished)))

/-- R217, R218: the fences, and the cache hints. -/
def Obligations.fences_and_hints : Prop := Claims.fences ∧ Claims.cache_hints

namespace Sys2Proof.Claims

/-- The matrix unit of a partition is busy for some cycles, and no product that the partition issued before is replayed any more (R139,
R142). -/
def unitBusy (s : State) (key n : Nat) : State :=
  { s with
    matBusy := Tbl.put s.matBusy (4 * (key / 64) + key % 64 / 16) (s.cycle + n)
    flights := s.flights.map (fun e => if e.1 / 16 = key / 16 then (e.1, e.2.fetched) else e) }

/-- A matrix instruction stays pending with accumulator rows, its unit busy. -/
def matrixDone (s : State) (key : Nat) (b : Bool) (f : Flight) (c : Clause) (i : Instr) (t : State) (busy : Nat) (d : Reg)
    (rows : List (Nat × List Word)) : Prop :=
  pendingWrites s key b f c i (unitBusy t key busy) (rows.flatMap (fun r => runWrites d r.1 r.2), [])

/-- A product stays pending with accumulator rows and what it adds to idle counters, its unit busy. Until its operands are fetched it can be
replayed whole with the registers that it read at issue (R142, log entry 26). -/
def productDone (s : State) (key : Nat) (b : Bool) (f : Flight) (c : Clause) (i : Instr) (t : State) (busy : Nat) (d : Reg)
    (rows : List (Nat × List Word)) (idle : List (Nat × Nat)) : Prop :=
  staysPending s key b f c i (unitBusy t key busy) (.product (rows.flatMap (fun r => runWrites d r.1 r.2)) idle
    (some (.product (f.gpr.filter (fun e => i.use.gr.contains (e.1 / 32))) f.unif)))

/-- The 32 sums of one row of a product: the accumulator, or −0 under .Z, plus groups of exact products, one rounding for each
group sum and each addition (R138). -/
def rowOf (f : Flight) (l : Nat) (d : Reg) (z : Bool) (cols : List (List Fp)) (terms : List Fp → List (List Fp)) : List Word :=
  ((List.range 32).zip cols).map (fun c => accumulate (if z then 0x80000000 else f.gAt l d c.1) (terms c.2))

end Sys2Proof.Claims

/-- R146, R148: MZERO clears accumulator rows; MIDLE waits for the flight's MMAS instructions, then reads the idle counts of the acting lanes, and
clears them if asked. -/
def Sys2Proof.Claims.accumulator_rows : Prop :=
  (∀ d lk, Always (.mzero d lk) fun s key b f _ c =>
    let i := Instr.mzero d lk
    matrixDone s key b f c i (s.putFlight key (f.issued b c i)) 2 d ((lanesOf (f.acting b c)).map (fun l => (l, List.replicate 32 0)))) ∧
  (∀ d clr lk, Always (.midle d clr lk) fun s key b f _ c =>
    let i := Instr.midle d clr lk
    let g := f.issued b c i
    let h := if clr then { g with idle := (lanesOf (f.acting b c)).foldl (fun t l => Cells.set t l 0) f.idle } else g
    (f.counting = true → exec i s = .next s) ∧
    (f.counting = false → matrixDone s key b f c i (s.putFlight key h) 2 d ((lanesOf (f.acting b c)).map (fun l => (l, [Cells.get f.idle l])))))

/-- R130 to R138, R143 to R147: a product whose tensors, tiles and rows are in order keeps its unit busy and stays pending with one row
for each acting lane: MMA over dense rows, MMAS over compressed rows and their positions, MMAG with the B tile of each lane's group. The
idle counters rise when an MMAS.CR completes. That the operands in memory are read at issue (log entries 22 and 26), and that of an MMAG the rows
of lanes in no group are neither fetched nor checked (log entry 71), is the model's choice. -/
def Obligations.matrix_products : Prop :=
  (∀ (d : Reg) (cr mc z : Bool) (lk : BitVec 4) (tA tB : BitVec 8) (sa sb : UReg),
    (let i := Instr.mma d mc z lk tA tB sa sb
     Always i fun s key b f la c => ∀ A B s1 tl av,
      let p := placeOf key b f la c
      let m := f.acting b c
      let cols := operandB p (f.issued b c i) s1 B sb A.kOf false
      productTensors p (s.begun key b f c i) tA tB false = (some (A, B), s1) → tileOf p (f.u sa.toNat) = some tl →
      tileRows s1 A tl 32 A.kOf (lanesOf m) = some (av, false) → cols.deny = [] →
        productDone s key b f c i (tl.corrected (tileBytes A tl 32 A.kOf (lanesOf m)) cols.state) 16 d (((lanesOf m).zip av).map (fun r =>
          (r.1, rowOf f r.1 d z cols.vals (fun col => groups16 (products r.2 col) (A.kOf / 16))))) []) ∧
    (let i := Instr.mmas d cr mc z lk tA tB sa sb
     Always i fun s key b f la c => ∀ A B s1 tl mt need rv,
      let p := placeOf key b f la c
      let m := f.acting b c
      let kl := if A.sparse = 8 then 2 * A.kOf else 4 * A.kOf
      let slots := kl / 16 * A.sparse
      let cols := operandB p (f.issued b c i) s1 B sb kl false
      let steps := ((List.range (kl / 16)).map (fun q => (rv.map (fun r => (r[q]?.map (·.1)).getD 0)).foldl max 0)).sum
      let idle := if cr then ((lanesOf m).zip rv).map (fun r => (r.1, steps - (r.2.map (·.1)).sum)) else []
      let rows := ((lanesOf m).zip rv).map (fun r =>
        (r.1, rowOf f r.1 d z cols.vals (fun col => ((List.range (kl / 16)).zip r.2).map (fun q =>
          q.2.2.map (fun x => mulExact x.1 (col.getD (16 * q.1 + x.2) (.fin false 0 0)))))))
      productTensors p (s.begun key b f c i) tA tB true = (some (A, B), s1) →
      tileOf p (f.u sa.toNat) = some tl → tileOf p (f.u (sa.toNat + 1)) = some mt →
      sparseNeeds A tl mt cr (kl / 16) A.sparse (lanesOf m) = some need → tl.covers need.1 = true → mt.covers need.2 = true →
      tl.bad s1 need.1 = false → mt.bad s1 need.2 = false →
      (lanesOf m).mapM (fun l => sparseRow s1 A tl mt cr (kl / 16) A.sparse l) = some rv → cols.deny = [] →
        productDone s key b f c i (mt.corrected need.2 (tl.corrected need.1 cols.state))
          (if cr then max 1 ((16 * steps + slots - 1) / slots) else 16) d rows idle) ∧
    (let i := Instr.mmag d mc z lk tA tB sa sb
     Always i fun s key b f la c => ∀ A B s1 tl tb gs av,
      let p := placeOf key b f la c
      let m := f.acting b c
      let inGroup (g : MGroup) (l : Nat) : Bool := decide (g.first ≤ l) && decide (l < g.first + g.rows)
      let live := gs.filter (fun g => decide (g.rows ≠ 0))
      let used := live.filter (fun g => (lanesOf m).any (inGroup g))
      let ls := (lanesOf m).filter (fun l => used.any (fun g => inGroup g l))
      productTensors p (s.begun key b f c i) tA tB false = (some (A, B), s1) →
      tileOf p (f.u sb.toNat) = some tb → groupTable s1 tb = some gs → groupsAscend 0 live = true →
      tb.bad s1 (tableBytes s1 tb) = false → tileOf p (f.u sa.toNat) = some tl →
      tileRows s1 A tl 32 A.kOf ls = some (av, false) →
      (∀ g ∈ used, (tileCols s1 B (tileOf p g.desc) A.kOf).deny = []) →
        let s2 := tl.corrected (tileBytes A tl 32 A.kOf ls) s1
        productDone s key b f c i
          (used.foldl (fun s g => (tileCols s B (tileOf p g.desc) A.kOf).state) (tb.corrected (tableBytes s2 tb) s2))
          (16 + 2 * (used.length - 1)) d ((ls.zip av).map (fun r =>
          (r.1, rowOf f r.1 d z (((used.find? (fun g => inGroup g r.1)).map (fun g => (tileCols s1 B (tileOf p g.desc) A.kOf).vals)).getD [])
            (fun col => groups16 (products r.2 col) (A.kOf / 16))))) [])) ∧
  (∀ (fl seq : Nat) (s : State) (f : Flight) (la : Launch) (p : Pending) (gw : List (Nat × Nat × Word)) (idle : List (Nat × Nat))
      (again : Option Again),
    s.flight fl = some f → Tbl.find s.launches f.launch.toNat = some la → f.pending.find? (fun q => decide (q.seq = seq)) = some p →
    p.act = .product gw idle again → Claims.completesWith fl seq s f p gw [] 0 idle)

/-- R149 to R151: MSTORE writes the acting lanes' rows to a scratchpad tile and no other byte, and takes away the errors stored there; rows that
do not overlap hold the values in their format, a narrow row its codes and its scale. MLOAD reads rows. Both reach the scratchpad at issue, which is the model's choice (log
entries 11 and 26). -/
def Sys2Proof.Claims.row_moves : Prop :=
  ∀ (d : Reg) (fmt : RowFmt) (lk : BitVec 4) (t : BitVec 8) (sa : UReg),
    (let i := Instr.mstore d fmt lk t sa
     Always i fun s key b f la c => ∀ x s1 tile os,
      let p := placeOf key b f la c
      rowTensor p (s.begun key b f c i) fmt t = (some x, s1) → tileOf p (f.u sa.toNat) = some tile →
      rowNeeds tile fmt x (lanesOf (f.acting b c)) = some os → s1.hole = false →
        ∃ sc g, let s2 := unitBusy ((s1.setScr tile.core sc).scrClean tile.core (os.filterMap tile.win.byte)) key (rowCycles fmt)
          s2.flight key = some g ∧
          exec i s = .next (s2.moveOn key b i
            (g.addPending b i (f.slot b).pc (f.acting b c) false .finished)) ∧
          (∀ a, (∀ o ∈ os, tile.win.byte o ≠ some a) → Cells.get sc a = Cells.get (s.scr tile.core) a) ∧
          (tile.win.ring = false → os.Nodup → ∀ l ∈ lanesOf (f.acting b c),
            let at_ (n : Nat) := tile.win.start + tile.row l + n
            let vs := (List.range 32).map (fun j => f.gAt l d j)
            (fmt = .f32 → wordsAt sc (at_ 0) 32 = vs) ∧
            (fmt = .bf16 → ∀ j, j < 32 → leValue sc (at_ (2 * j)) 2 = (bf16.convert .rne (Fp.ofWord (vs.getD j 0))).bits % 65536) ∧
            (∀ y o, x = some y → y.scaleAt (tile.row l) = some o →
              let k := y.nf.scaleCode (vs.map Fp.ofWord)
              let code (j : Nat) := y.nf.quant k (Fp.ofWord (vs.getD j 0))
              Cells.get sc (tile.win.start + o) = BitVec.ofNat 8 k ∧
                (y.cls = 3 → ∀ j, j < 32 → Cells.get sc (at_ j) = BitVec.ofNat 8 (code j)) ∧
                (y.cls = 4 → ∀ j, j < 16 → Cells.get sc (at_ j) = BitVec.ofNat 8 (code (2 * j) + 16 * code (2 * j + 1)))))) ∧
    (let i := Instr.mload d fmt lk t sa
     Always i fun s key b f la c => ∀ x s1 tile os,
      let p := placeOf key b f la c
      rowTensor p (s.begun key b f c i) fmt t = (some x, s1) → tileOf p (f.u sa.toNat) = some tile →
      rowNeeds tile fmt x (lanesOf (f.acting b c)) = some os → tile.bad s1 os = false →
        productDone s key b f c i (tile.corrected os s1) (rowCycles fmt) d
          ((lanesOf (f.acting b c)).map (fun l => (l, loadRow s1 tile fmt x l))) [])

/-- Accumulators by row, and the rows that move between memory and registers. -/
def Obligations.accumulators_and_rows : Prop := Claims.accumulator_rows ∧ Claims.row_moves

namespace Sys2Proof.Claims

/-- A word of a copy has landed with a value (R203, R325): its destination holds it, its landing word has counted four bytes, and every other
byte of every scratchpad is as it was. -/
def landed (s t : State) (c : Copy) (x : CopyWord) (v : Word) : Prop :=
  let target := wordAt (s.scr c.dstCore) c.land
  let count := wordAt (s.scr c.dstCore) (c.land + 4) + 4
  let gen := wordAt (s.scr c.dstCore) (c.land + 8)
  let bits := wordAt (s.scr c.dstCore) (c.land + 12)
  leValue (t.scr c.dstCore) x.dst 4 = v.toNat ∧
    wordsAt (t.scr c.dstCore) c.land 4 = (if x.counted ≠ none then wordsAt (s.scr c.dstCore) c.land 4
      else if target ≠ 0 ∧ target ≤ count then [target, 0, gen + 1, if target < count then bits ||| 2 else bits]
      else [target, count, gen, bits]) ∧
    (∀ k, k ≠ c.dstCore → t.scr k = s.scr k) ∧ t.hostMem = s.hostMem ∧
    ∀ o, (o < x.dst ∨ x.dst + 4 ≤ o) → (o < c.land ∨ c.land + 16 ≤ o) → Cells.get (t.scr c.dstCore) o = Cells.get (s.scr c.dstCore) o

end Sys2Proof.Claims

/-- R198 to R204, R325: GFETCH gives each acting lane the value of its column of a row; COPYL, once its probe finds nothing wrong and the
replay list has room, lists the words of its lanes' copies in order and sets the FMASK bits of lanes outside the window; the words of one copy in
one 128-byte block are read by one request as weak loads, and each is written at its destination as it lands, and its landing word counts four
bytes more: at its target the generation rises by one and the count starts again at 0, and OV is set where the count passed the target. Every
other byte of every scratchpad stays. A remote copy goes to the windows that the launch has on the core
that it names. That GFETCH reads at issue and that a landing counted before a pre-emption is not counted again (log entries 11 and 60), where rows
beyond a tensor's first plane lie (log entry 22), and that a word that the gather cache holds is read there (log entry 88), is the model's choice. -/
def Obligations.copies_and_fetches : Prop :=
  (∀ (d : Reg) (bm : Bool) (lk : BitVec 4) (t : BitVec 8) (sa sb : UReg),
    let i := Instr.gfetch d bm lk t sa sb
    Always i fun s key b f la c => ∀ x s1 rows s2,
      let p := placeOf key b f la c
      let hd := s1.handle (keyCore key) la.ctx0 x.handle
      let row := (f.u sa.toNat).toNat
      let col := (f.u sb.toNat).toNat
      let r := thread (fun l s => gatherLane p hd.1 x rows bm row (col + l) l s) (lanesOf (f.acting b c)) s2
      (s.begun key b f c i).tensor (keyCore key) la.ctx0 t.toNat = (some x, s1) → x.fmtOk = true → x.sparse = 0 →
      hd.2.rowCount p x = (.ok rows, s2) → (∀ v ∈ r.1, v.1 = []) →
        staysPending s key b f c i r.2 (.reading (((lanesOf (f.acting b c)).zip r.1).flatMap (fun v => runWrites d v.1 [v.2.2]))
          (.gather d.toNat t.toNat bm row col))) ∧
  (∀ (d a : Reg) (n : CopySize) (lk : BitVec 4) (h : BitVec 10) (win : BitVec 4) (remote : Bool) (cih : BitVec 2) (lwin : BitVec 4)
      (loff : BitVec 11),
    let i := Instr.copyl d a n lk h win remote cih lwin loff
    Always i fun s key b f la c => ∀ core, la.peer (keyCore key) remote cih.toNat = some core →
      let m := f.acting b c
      let z := CopySize.bytes n
      let rs := checksOf (s.begun key b f c i) key la h z .read false (offsetsOf f m a 0)
      let old := (Tbl.find s.copies (keyCore key)).getD []
      let xs := scrPlaces f m d 0 (la.winAt core win.toNat) z
      let words := (passed rs.1).flatMap (fun x =>
        (((scrGood xs).find? (fun y => decide (y.1 = x.lane))).map (fun y => copyWords x y.2 z)).getD [])
      let listed := ((la.windows.find? (fun w => decide (w.num = lwin.toNat))).map (·.size)).getD 0
      allAllowed rs.1 → (∀ l ∈ lanesOf m, (f.g l d).toNat % z = 0) → 16 * loff.toNat + 16 ≤ listed → old.length < 64 → rs.2.hole = false →
        let entry : Copy := { id := rs.2.copySeq, launch := f.launch, dstCore := core, land := (la.winAt core lwin.toNat).start + 16 * loff.toNat,
                              words := words, flight := key % 64, slotB := b, pc := (f.slot b).pc, handle := h.toNat, own := f.own,
                              iter := f.iter, parkSeq := none }
        let t := if words = [] then rs.2 else
          { rs.2 with
            copySeq := rs.2.copySeq + 1
            copies := Tbl.put rs.2.copies (keyCore key) (((Tbl.find rs.2.copies (keyCore key)).getD []) ++ [entry]) }
        exec i s = .next (t.moveOn key b i (((f.issued b c i).scratchOff (scrOffs xs)).addPending b i (f.slot b).pc m false .finished))) ∧
  (∀ (core id w : Nat) (s : State), (s.landWord core id w).hole = false → exec (.copylWordLanding core id w) s = .next (s.landWord core id w)) ∧
  (∀ (core id w : Nat) (s : State) (cs : List Copy) (c : Copy) (x : CopyWord) (g : Workgroup),
    Tbl.find s.copies core = some cs → cs.find? (fun c => decide (c.id = id)) = some c → c.words[w]? = some x → x.landed = false →
    c.parkSeq = none → c.words.any (fun y => y.landed && decide (y.dst = x.dst)) = false →
    (Tbl.find s.launches c.launch.toNat).bind (fun la => la.wgAt c.dstCore) = some g → g.retired = false →
    c.land + 16 ≤ x.dst ∨ x.dst + 4 ≤ c.land →
      let t := s.landWord core id w
      (x.src.host = true → x.src.uncached = true → x.src.pa = x.src.va → x.val = none →
        Claims.landed s t c x (BitVec.ofNat 32 (leValue s.hostMem x.src.pa 4)) ∧ t.mem = s.mem ∧ t.flights = s.flights) ∧
      (∀ v, x.val = some v → Claims.landed s t c x v ∧ t.mem = s.mem ∧ t.flights = s.flights ∧ t.l1 = s.l1) ∧
      (∀ src s0, x.src.host = false → x.val = none → s.copySource core x = (.ok src, s0) →
        let q := s0.copyRequest core c.words src
        ∀ y v, q.2.1 = [] → q.1[w]? = some y → y.val = some v →
          Claims.landed s t c x v ∧ t.mem = q.2.2.mem ∧ t.flights = q.2.2.flights ∧ t.l1 = q.2.2.l1)) ∧
  (∀ (core : Nat) (s : State) (ws : List CopyWord) (src : LaneAddr), s.errors = [] → src.host = false → src.uncached = false →
    let mine (x : CopyWord) : LaneAddr := { x.src with pa := src.pa - src.va % 128 + x.src.va % 128, uncached := false }
    let s1 := s.fillSpans core 4 ((ws.filter (fun x => x.inBlock src)).map mine)
    s.copyRequest core ws src = (ws.map (fun (x : CopyWord) => if x.inBlock src then
      { x with val := some (BitVec.ofNat 32 (s1.l1Value core x.src.ctx x.src.va (mine x).pa 4)) } else x), [], s1))

/-- R156 to R161, R320: EXPAND in lane mode forms its expansion at once and gives every lane the total; in gallery mode it arrives and waits. On
a gallery bound to another workgroup it raises EXPAND in the acting lanes, as R158 and R174 have it, which is the model's reading beside R320
(log entry 78). ENEXT deals each lane its next iteration, and the last deal or .FIN releases the flight; SEGRED contributes to its deal. That OWN and
ITER change as ENEXT issues (log entry 87), and that a SEGRED completed through the released-deal mark is not kept as issued (log entry 86), is the
model's choice. -/
def Obligations.expansions : Prop :=
  (∀ (d a : Reg) (gm : Bool) (e : BitVec 2) (lk : BitVec 4) (n : Reg) (gal : BitVec 6),
    let i := Instr.expand d a gm e lk n gal
    Always i fun s key b f la c =>
      let p := placeOf key b f la c
      let m := f.acting b c
      let slot := 16 * (key / 64) + 4 * (key % 64 / 16) + e.toNat
      let total := ((lanesOf m).map (fun l => (f.g l n).toNat)).sum
      let g := (f.issued b c i).clearMark e.toNat
      (gm = true → (s.bar (keyCore key) gal.toNat).foreign p = true → (∀ l ∈ lanesOf m, f.inRegion l = false) → s.ringRoom ≠ 0 →
        f.kind ≠ .handler → la.takesTraps = true →
          let t := Claims.trapTaken (s.putFlight key g) key b g la (f.slot b).pc i.words m (faultAll .expand m) (plainFault .expand 0)
          t.hole = false → exec i s = .next t) ∧
      (expandBad s p gm gal.toNat slot = false →
      (gm = false → total < 2 ^ 32 →
        let parts := (gatherParts ((lanesOf m).map (fun l => (key % 64, l, f.g l a, f.g l n)))).1
        exec i s = .next (({ s with expans := Tbl.put s.expans slot (formed none parts total) }).moveOn key b i
          (g.addPending b i (f.slot b).pc m false (.write (writesOf m d (fun _ => [BitVec.ofNat 32 total])) [] 0)))) ∧
      (gm = true → (s.bar (keyCore key) gal.toNat).foreign p = false → galleryBad s p gal.toNat = false →
        let x := (Tbl.find s.expans slot).getD
          { gallery := some gal.toNat, isOpen := false, arrivals := [], parts := [], total := 0, flights := [], reds := [] }
        let arr : Arrival := { flight := key % 64, seq := f.nextSeq, d := d.toNat, clause := (f.issued b c i).slot b |>.clause,
                               lanes := (lanesOf m).map (fun l => (l, f.g l a, f.g l n)) }
        total + (x.arrivals.map (fun r => (r.lanes.map (fun q => q.2.2.toNat)).sum)).sum < 2 ^ 32 →
          let t := (({ s with expans := Tbl.put s.expans slot { x with arrivals := x.arrivals ++ [arr] } }).putFlight key
            (g.addPending b i (f.slot b).pc m false (.expand e.toNat))).tryForm slot
          ∃ h, t.flight key = some h ∧ exec i s = .next (t.moveOn key b i h)))) ∧
  (∀ (d : Reg) (fin : Bool) (e : BitVec 2) (lk : BitVec 4) (pd : PReg),
    let i := Instr.enext d fin e lk pd
    Always i fun s key b f la c => ∀ x xf,
      let m := f.acting b c
      let slot := 16 * (key / 64) + 4 * (key % 64 / 16) + e.toNat
      openFor s (placeOf key b f la c) f slot true = some (x, xf) →
        let g0 := (f.issued b c i).clearMark e.toNat
        let left (s : State) (y : XFlight) : State :=
          ({ s with expans := Tbl.put s.expans slot { x with flights := Tbl.put x.flights (key % 64) y } } : State).expanUpdate slot
        (fin = true →
          let t := left (s.putFlight key g0) { xf with released := true }
          ∃ h, t.flight key = some h ∧ exec i s = .next (t.moveOn key b i (h.addPending b i (f.slot b).pc m false .finished))) ∧
        (fin = false →
          let ds := (lanesOf m).map (fun l => (l, x.dealTo key xf.cursor l))
          let spent := decide (x.total ≤ xf.cursor * x.parts.length)
          let gw := ds.flatMap (fun q => (q.2.map (fun r => runWrites d q.1 [r.2.2.1.start + BitVec.ofNat 32 r.2.2.2])).getD [])
          let pw := ds.map (fun q => (pd.toNat, q.1, q.2.isSome))
          ∃ ow it : Cells 32,
            (∀ l, l < 32 → if m.getLsbD l = true then
                (match x.dealTo key xf.cursor l with
                | some (_, o, q, j) => Cells.get ow l = BitVec.ofNat 32 (2147483648 + q.flight * 65536 + q.lane * 256 + o) ∧
                    Cells.get it l = BitVec.ofNat 32 j
                | none => Cells.get ow l = 0 ∧ Cells.get it l = 0)
              else Cells.get ow l = Cells.get f.own l ∧ Cells.get it l = Cells.get f.iter l) ∧
            let g1 : Flight := { g0 with own := ow, iter := it }
            let g := (if spent then g1.setMark e.toNat else g1).addPending b i (f.slot b).pc m false (.write gw pw 0)
            let t := left (s.putFlight key g)
              { cursor := xf.cursor + 1, released := spent, gone := false, deal := ds.filterMap (fun q => q.2.map (fun r => (q.1, r.1))) }
            ∃ h, t.flight key = some h ∧ exec i s = .next (t.moveOn key b i h))) ∧
  (∀ (d a : Reg) (e : BitVec 2) (lk : BitVec 4) (pd : PReg) (op : RedOp),
    let i := Instr.segred d a e lk pd op
    Always i fun s key b f la c =>
      let m := f.acting b c
      let slot := 16 * (key / 64) + 4 * (key % 64 / 16) + e.toNat
      (f.marks.getLsbD e.toNat = true →
        exec i s = .next (s.moveOn key b i (((f.issued b c i).clearMark e.toNat).addPending b i (f.slot b).pc m false
          (.write [] ((lanesOf m).map (fun l => (pd.toNat, l, false))) 0)))) ∧
      (f.marks.getLsbD e.toNat = false → ∀ x xf, openFor s (placeOf key b f la c) f slot false = some (x, xf) → 0 < xf.cursor →
        (∀ r ∈ x.reds, r.flight = key % 64 → r.deal ≠ xf.cursor - 1) →
          let r : RedRec :=
            { flight := key % 64, deal := xf.cursor - 1, op := op, d := d.toNat, pd := pd.toNat, mask := m,
              vals := xf.deal.filterMap (fun q => if m.getLsbD q.1 then some (q.1, q.2, f.g q.1 a) else none),
              seq := f.nextSeq, done := false }
          let t := (({ s with expans := Tbl.put s.expans slot { x with reds := x.reds ++ [r] } }).putFlight key
            (f.waiting b c i (.segred e.toNat))).expanUpdate slot
          ∃ h, t.flight key = some h ∧ exec i s = .next (t.moveOn key b i h)))

/-- R171 to R173: XSECT, XMERGE and SCALEQ read their sources at issue and stay pending with their results. -/
def Obligations.lists_and_scales : Prop :=
  (∀ (d a : Reg) (sgn : Bool) (lk : BitVec 4) (e : Reg) (pd qa qb : PReg) (full : Bool),
    let i := if full then Instr.xmerge d a sgn lk e pd qa qb else Instr.xsect d a sgn lk e pd qa qb
    Always i fun s key b f _ c =>
      let m := f.acting b c
      let list (r : Reg) (q : PReg) := ((lanesOf m).filter (fun l => f.p l q)).map (fun l => (l, f.g l r))
      let out := mergeLists sgn (!full) (list a qa) (list e qb) (countLanes m)
      let at_ (l : Nat) := out.2.2[((lanesOf m).filter (fun k => decide (k < l))).length]?
      exec i s = .next (s.moveOn key b i (f.waiting b c i (.write (writesOf m d (fun l => mergeWords full out (at_ l)))
        ((lanesOf m).map (fun l => (pd.toNat, l, (at_ l).isSome))) 0)))) ∧
  (∀ (d a : Reg) (q : Bool) (lk : BitVec 4) (fmt : BitVec 16),
    let i := Instr.scaleq d a q lk fmt
    Always i fun s key b f _ c =>
      let m := f.acting b c
      let k := (NFmt.ofDesc fmt).scaleCode ((lanesOf m).map (fun l => Fp.ofWord (f.g l a)))
      exec i s = .next (s.moveOn key b i (f.waiting b c i (.write (writesOf m d (fun l =>
        BitVec.ofNat 32 k :: (if q then [BitVec.ofNat 32 ((NFmt.ofDesc fmt).quant k (Fp.ofWord (f.g l a)))] else []))) [] 0))))

namespace Sys2Proof.Claims

/-- An ENG instruction acts for one lane after the other; when no lane faults it stays pending with what the lanes write (R49). -/
def lanesPending (s : State) (key : Nat) (b : Bool) (f : Flight) (c : Clause) (i : Instr) (s0 : State)
    (one : Nat → State → Option LaneWrites × State) : Prop :=
  let r := thread one (lanesOf (f.acting b c)) s0
  (∀ x ∈ r.1, x.isSome = true) →
    pendingWrites s key b f c i r.2 (r.1.flatMap (fun x => (x.map (·.1)).getD []), r.1.flatMap (fun x => (x.map (·.2)).getD []))

/-- The same for one that writes memory for its lanes: it waits while that would change a word reserved for a priority attempt (R252). -/
def lanesWrite (s : State) (key : Nat) (b : Bool) (f : Flight) (c : Clause) (i : Instr) (s0 : State)
    (one : Nat → State → Option LaneWrites × State) : Prop :=
  let r := thread one (lanesOf (f.acting b c)) s0
  ((s.begun key b f c i).disturbs r.2 = false → lanesPending s key b f c i s0 one) ∧
    ((s.begun key b f c i).disturbs r.2 = true → exec i s = .next s)

/-- The slot has no access pending. -/
def noAccess (f : Flight) (b : Bool) : Prop := (f.undone b).any Pending.isAccess = false

/-- SPAWN for one lane (R282): a child group at the end of the core's queue, or false when that holds 1,024. -/
def spawnOne (core : Nat) (f : Flight) (pd : PReg) (a : Reg) (role count : Nat) (l : Nat) (s : State) : Option LaneWrites × State :=
  let q := (Tbl.find s.tasks core).getD []
  if q.length < 1024 then
    let c : ChildGroup := { launch := f.launch, role := role, arg := f.g l a, scope := Cells.get f.scope l, count := count }
    (some ([], [(pd.toNat, l, true)]), { s with tasks := Tbl.put s.tasks core (q ++ [c]) })
  else (some ([], [(pd.toNat, l, false)]), s)

/-- TFETCH for one lane (R283): the next chunk of the launch's dispenser, or false when it is exhausted. -/
def tfetchOne (f : Flight) (d : Reg) (pd : PReg) (l : Nat) (s : State) : Option LaneWrites × State :=
  match (Tbl.find s.launches f.launch.toNat).bind (fun la => la.disp.take) with
  | some r => (some (runWrites d l r.1, [(pd.toNat, l, true)]), s.modLaunch f.launch.toNat (fun la => { la with disp := r.2 }))
  | none => (some ([], [(pd.toNat, l, false)]), s)

/-- ATR.PUSH for one lane (R285): its result record is checked, then it takes the next row or is refused. -/
def pushOne (core : Nat) (la : Launch) (h : Nat) (hd : Option Handle) (f : Flight) (d a c : Reg) (atr n : Nat) (pd : PReg) (l : Nat)
    (s : State) : Option LaneWrites × State :=
  match s.checkRun core la.ctx0 h l hd ((f.g l c).toNat : Int) 36 4 .write with
  | (.error _, s1) => (none, s1)
  | (.ok as, s1) =>
    let x := { s1.atrium core atr with bound := some la.word }
    if x.refuses then (some ([], [(pd.toNat, l, false)]), s1.setAtrium core atr x)
    else (some (runWrites d l [BitVec.ofNat 32 (atr * 2 ^ 24 + (x.push + 1) % 2 ^ 24)], [(pd.toNat, l, true)]),
      s1.setAtrium core atr (x.pushRow (Cells.get f.scope l) as (gWords f l a (n + 1))))

/-- ATR.RET for one lane (R271, R287): nothing for a cancelled row; otherwise status 1 and the results go to the record, as its addresses translate
and permit then, and the row resolves; none for a bad ticket. Where the record cannot be reached or written, the answer itself is none: the
instruction waits. -/
def retOne (core atr : Nat) (f : Flight) (a c : Reg) (n : Nat) (l : Nat) (s : State) : Option (Option LaneWrites) × State :=
  let t := f.g l a
  let x := s.atrium core atr
  match x.named t with
  | none => (some none, s)
  | some r =>
    if t.toNat / 2 ^ 24 ≠ atr ∨ r.state = .queued ∨ r.state = .returned then (some none, s)
    else if r.state ≠ .popped then (some (some ([], [])), s)
    else
      match s.againAll (r.recAt.take (n + 2)) .write with
      | (.error _, s0) => (none, s0)
      | (.ok as, s0) =>
        (some (some ([], [])), ((as.zip (1 :: gWords f l c (n + 1))).foldl (fun s x => s.storeBytes core false x.1 4 x.2.toNat) s0).setAtrium
          core atr { x with rows := Tbl.put x.rows (r.seq % 256) { r with state := .returned } })

/-- POOL.ALLOC for one lane (R275, R299). -/
def allocOne (core : Nat) (la : Launch) (f : Flight) (d : Reg) (pd : PReg) (q l : Nat) (s : State) : Option LaneWrites × State :=
  let r := s.allocNode la.word core la.ctx0 q (Cells.get f.scope l).toNat
  match r.1 with
  | .error _ => (none, r.2)
  | .ok none => (some ([], [(pd.toNat, l, false)]), r.2)
  | .ok (some n) => (some (runWrites d l [BitVec.ofNat 32 n], [(pd.toNat, l, true)]), r.2)

/-- POOL.FREE for one lane (R276, R299). -/
def freeOne (core : Nat) (la : Launch) (f : Flight) (a : Reg) (q l : Nat) (s : State) : Option LaneWrites × State :=
  let r := s.freeNode la.word core la.ctx0 q (f.g l a).toNat
  (if r.1 = none then some ([], []) else none, r.2)

end Sys2Proof.Claims

/-- R282, R283: SPAWN queues a child group for each acting lane; TFETCH takes a chunk for each. -/
def Sys2Proof.Claims.spawning : Prop :=
  (∀ (pd : PReg) (a : Reg) (lk : BitVec 4) (role : BitVec 2) (cnt : BitVec 5),
    let i := Instr.spawn pd a lk role cnt
    Always i fun s key b f la c => noAccess f b → ((la.roles[role.toNat]?).map (fun r => r.spawnable)).getD false = true →
      lanesPending s key b f c i ((s.begun key b f c i).release (keyCore key))
        (spawnOne (keyCore key) f pd a role.toNat (cnt.toNat + 1))) ∧
  (∀ (d : Reg) (lk : BitVec 4) (pd : PReg),
    let i := Instr.tfetch d lk pd
    Always i fun s key b f _ c => lanesPending s key b f c i (s.begun key b f c i) (tfetchOne f d pd))

/-- R284 to R287: ATR.PUSH, ATR.RET and ATR.POP on an atrium of the launch. A pop takes a full tile at once, or what there is when its
timeout is 0; otherwise it waits. Its timeout then takes what there is, for the lanes that are not stopped meanwhile (R330). ATR.RET waits
while a record cannot be reached, which is the model's choice (log entry 81), or is reserved (R252). -/
def Sys2Proof.Claims.atria : Prop :=
  (∀ (d a : Reg) (lk : BitVec 4) (atr : BitVec 2) (n : BitVec 5) (pd : PReg) (h : BitVec 10) (e : Reg),
    let i := Instr.atrPush d a lk atr n pd h e
    Always i fun s key b f la c => (s.atrium (keyCore key) atr.toNat).bound = none ∨ (s.atrium (keyCore key) atr.toNat).bound = some la.word →
      let hd := (s.begun key b f c i).handle (keyCore key) la.ctx0 h.toNat
      lanesPending s key b f c i hd.2 (pushOne (keyCore key) la h.toNat hd.1 f d a e atr.toNat n.toNat pd)) ∧
  (∀ (a : Reg) (lk : BitVec 4) (atr : BitVec 2) (rn : BitVec 3) (e : Reg),
    let i := Instr.atrRet a lk atr rn e
    Always i fun s key b f la c => (s.atrium (keyCore key) atr.toNat).bound = some la.word → noAccess f b →
      let s0 := (s.begun key b f c i).release (keyCore key)
      let one := retOne (keyCore key) atr.toNat f a e rn.toNat
      ((thread one (lanesOf (f.acting b c)) s0).1.contains none = true → exec i s = .next s) ∧
      ((thread one (lanesOf (f.acting b c)) s0).1.contains none = false →
        lanesWrite s key b f c i s0 (fun l s => let v := one l s; (v.1.join, v.2)))) ∧
  (∀ (d : Reg) (lk : BitVec 4) (atr : BitVec 2) (win : BitVec 4) (pd : PReg) (tmo off : BitVec 10),
    let i := Instr.atrPop d lk atr win pd tmo off
    Always i fun s key b f la c =>
      let core := keyCore key
      let x := s.atrium core atr.toNat
      let s1 := (s.begun key b f c i).setAtrium core atr.toNat { x with bound := some la.word }
      f.acting b c = BitVec.allOnes 32 → x.bound = none ∨ x.bound = some la.word →
      la.windows.any (fun w => decide (w.num = win.toNat)) = true → popFits (la.winAt core win.toNat) (128 * off.toNat) = true →
        (x.tileFor (decide (tmo = 0)) = none → tmo ≠ 0 →
          exec i s = .next (s1.moveOn key b i (f.waiting b c i (.atrPop d.toNat pd.toNat atr.toNat win.toNat (128 * off.toNat)
            (if tmo.toNat = 1023 then none else some (s.cycle + 16 * tmo.toNat)))))) ∧
        (x.tileFor (decide (tmo = 0)) ≠ none ∨ tmo = 0 →
          let r := s1.popTile la core atr.toNat d.toNat pd.toNat win.toNat (128 * off.toNat) (x.tileFor (decide (tmo = 0)))
          pendingWrites s key b f c i r.2 r.1)) ∧
  (∀ (fl seq : Nat) (s : State) (f : Flight) (la : Launch) (p : Pending) (d pd atr win off stop : Nat),
    s.flight fl = some f → Tbl.find s.launches f.launch.toNat = some la → f.pending.find? (fun p => decide (p.seq = seq)) = some p →
    p.act = .atrPop d pd atr win off (some stop) → stop ≤ s.cycle → p.done = false →
      let r := s.popTile la (keyCore fl) atr d pd win off ((s.atrium (keyCore fl) atr).tileFor true)
      exec (.atrPopTimeout fl seq) s = .next (r.2.complete fl seq { g := r.1.1.filter (fun w => p.mask.getLsbD w.2.1),
                                                                    p := r.1.2.filter (fun w => p.mask.getLsbD w.2.1), flags := 0 }))

/-- SPAWN, and the atria. -/
def Obligations.spawning_and_atria : Prop := Claims.spawning ∧ Claims.atria

namespace Sys2Proof.Claims

/-- What hands over the commands that the acting lanes' records describe (R225, R290, R291): the engine context takes them all at once,
and each lane receives the future of its last. -/
def handsOver (s : State) (key : Nat) (b : Bool) (f : Flight) (la : Launch) (c : Clause) (i : Instr) (d : Reg) (cx : BitVec 2)
    (one : Nat → State → Option (List CmdKind) × State) : Prop :=
  ∀ ctx, la.ctxAt cx.toNat = some ctx → noAccess f b →
    let r := thread one (lanesOf (f.acting b c)) ((s.begun key b f c i).release (keyCore key))
    let items := ((lanesOf (f.acting b c)).zip r.1).flatMap (fun x =>
      ((List.range (x.2.getD []).length).zip (x.2.getD [])).map (fun k =>
        ({ lane := x.1, scope := Cells.get f.scope x.1, kind := k.2, last := decide (k.1 + 1 = (x.2.getD []).length) } : CmdItem)))
    let v := feedItems la.word (la.wgidAt (keyCore key)) ctx items [] r.2
    (∀ x ∈ r.1, x.isSome = true) → (r.2.cmdWaiters ctx).isEmpty = true → v.2.1 = [] →
      pendingWrites s key b f c i v.2.2 (v.1.flatMap (fun x => runWrites d x.1 [x.2]), [])

/-- The records of CHAIN, CQRY and DSTEP, as one lane's access reads them (R291, R294, R297). -/
def chainOne (core : Nat) (la : Launch) (h : Nat) (f : Flight) (a : Reg) (imm : Int) (n l : Nat) (s : State) :
    Option (List CmdKind) × State :=
  let hd := s.handle core la.ctx0 h
  match hd.2.checkRun core la.ctx0 h l hd.1 (((f.g l a).toNat : Int) + imm) (64 * (n + 1)) 64 .read with
  | (.error _, s1) => (none, s1)
  | (.ok as, s1) =>
    let v := s1.runRead as
    (some ((List.range (n + 1)).map (fun k => .chain ((v.1.drop (16 * k)).take 16))), v.2)

def queryOne (core : Nat) (la : Launch) (h : Nat) (f : Flight) (a : Reg) (imm : Int) (l : Nat) (s : State) :
    Option (List CmdKind) × State :=
  let hd := s.handle core la.ctx0 h
  match hd.2.checkRun core la.ctx0 h l hd.1 (((f.g l a).toNat : Int) + imm) 64 64 .read with
  | (.error _, s1) => (none, s1)
  | (.ok as, s1) =>
    let v := s1.runRead as
    match v.2.checkRun core la.ctx0 h l hd.1 ((v.1.getD 15 0).toNat : Int) 16 16 .write with
    | (.error _, s2) => (none, s2)
    | (.ok at_, s2) => (some [.query v.1 at_], s2)

def stepOne (core : Nat) (la : Launch) (h : Nat) (f : Flight) (a : Reg) (imm : Int) (l : Nat) (s : State) :
    Option (List CmdKind) × State :=
  let hd := s.handle core la.ctx0 h
  match hd.2.checkRun core la.ctx0 h l hd.1 (((f.g l a).toNat : Int) + imm) 48 16 .both with
  | (.error _, s1) => (none, s1)
  | (.ok as, s1) => let v := s1.runRead as; (some [.dyn v.1 as], v.2)

end Sys2Proof.Claims

/-- R288 to R291, R294, R297: CHAIN, CQRY and DSTEP hand over commands; FTEST says which futures are resolved; FWAIT waits for them, and
its timeout ends the wait. -/
def Obligations.engine_commands : Prop :=
  (∀ (d a : Reg) (n lk : BitVec 4) (h : BitVec 10) (cx : BitVec 2) (imm : BitVec 17),
    let i := Instr.chain d a n lk h cx imm
    Always i fun s key b f la c => handsOver s key b f la c i d cx (chainOne (keyCore key) la h.toNat f a imm.toInt n.toNat)) ∧
  (∀ (d a : Reg) (lk : BitVec 4) (h : BitVec 10) (cx : BitVec 2) (imm : BitVec 17),
    (let i := Instr.cqry d a lk h cx imm
     Always i fun s key b f la c => handsOver s key b f la c i d cx (queryOne (keyCore key) la h.toNat f a imm.toInt)) ∧
    (let i := Instr.dstep d a lk h cx imm
     Always i fun s key b f la c => handsOver s key b f la c i d cx (stepOne (keyCore key) la h.toNat f a imm.toInt))) ∧
  (∀ (pd : PReg) (a : Reg) (atr : Bool) (lk : BitVec 4),
    let i := Instr.ftest pd a atr lk
    Always i fun s key b f la c => ∀ v : Nat → Bool, (∀ l ∈ lanesOf (f.acting b c), s.resolved la (keyCore key) atr (f.g l a) = some (v l)) →
      exec i s = .next (s.moveOn key b i (f.waiting b c i
        (.write [] ((lanesOf (f.acting b c)).map (fun l => (pd.toNat, l, v l))) 0)))) ∧
  (∀ (pd : PReg) (a : Reg) (atr : Bool) (lk : BitVec 4) (tmo : BitVec 16),
    let i := Instr.fwait pd a atr lk tmo
    Always i fun s key b f la c => (∀ l ∈ lanesOf (f.acting b c), (s.resolved la (keyCore key) atr (f.g l a)).isSome = true) →
      exec i s = .next (s.moveOn key b i (f.waiting b c i (.fwait pd.toNat atr ((lanesOf (f.acting b c)).map (fun l => (l, f.g l a)))
        (if tmo = 0 then none else some (s.cycle + 16 * tmo.toNat)))))) ∧
  (∀ (fl seq : Nat) (s : State) (f : Flight) (la : Launch) (p : Pending) (pd : Nat) (atr : Bool) (futs : List (Nat × Word)) (stop : Nat),
    s.flight fl = some f → Tbl.find s.launches f.launch.toNat = some la → f.pending.find? (fun p => decide (p.seq = seq)) = some p →
    p.act = .fwait pd atr futs (some stop) → stop ≤ s.cycle → p.done = false →
      exec (.fwaitTimeout fl seq) s = .next (s.complete fl seq
        { g := [], p := futs.map (fun x => (pd, x.1, (s.resolved la (keyCore fl) atr x.2).getD true)), flags := 0 }))

/-- R274 to R276, R299: POOL.ALLOC and POOL.FREE work on a valid pool, one lane after the other. -/
def Sys2Proof.Claims.pools : Prop :=
  (∀ (d : Reg) (lk : BitVec 4) (pd : PReg) (q : BitVec 6),
    let i := Instr.poolAlloc d lk pd q
    Always i fun s key b f la c =>
      let v := (s.begun key b f c i).pool (keyCore key) la.ctx0 q.toNat
      v.1 ≠ none → lanesWrite s key b f c i v.2 (allocOne (keyCore key) la f d pd q.toNat)) ∧
  (∀ (a : Reg) (lk : BitVec 4) (q : BitVec 6),
    let i := Instr.poolFree a lk q
    Always i fun s key b f la c =>
      let v := (s.begun key b f c i).pool (keyCore key) la.ctx0 q.toNat
      v.1 ≠ none → noAccess f b → lanesWrite s key b f c i (v.2.release (keyCore key)) (freeOne (keyCore key) la f a q.toNat))

/-- R274 to R276, R299: an allocation from a valid pool takes the head of the free list, else the node at the bump, and its node heads the scope's
chain; it gets nothing only when the list is empty and the bump has reached the capacity, which adds to the failures and changes no other
byte. A node that is freed lay below bump and capacity, heads the free list, and belongs to no scope any longer. -/
def Sys2Proof.Claims.pool_nodes : Prop :=
  (∀ (s : State) (launch : Word) (core ctx q scope : Nat) (p : Pool), (s.pool core ctx q).1 = some p →
    let r := s.allocNode launch core ctx q scope
    let s1 := (s.pool core ctx q).2
    (r.1 = .ok none ↔ p.free = noNode ∧ p.cap ≤ p.bump) ∧
    (r.1 = .ok none → wordAt r.2.mem (p.at_ + 20) = BitVec.ofNat 32 (min ((wordAt s1.mem (p.at_ + 20)).toNat + 1) 0xFFFFFFFF) ∧
      ∀ a, a < p.at_ + 20 ∨ p.at_ + 24 ≤ a → Cells.get r.2.mem a = Cells.get s1.mem a) ∧
    (∀ n, r.1 = .ok (some n) → n = (if p.free = noNode then p.bump else p.free) ∧
      ∀ la sc, Tbl.find r.2.launches launch.toNat = some la → Tbl.find la.scopes scope = some sc →
        sc.head = some (q, n) ∧ (q, n) ∈ sc.nodes)) ∧
  (∀ (s : State) (launch : Word) (core ctx q n : Nat) (p : Pool), (s.pool core ctx q).1 = some p →
    let r := s.freeNode launch core ctx q n
    (p.cap ≤ n ∨ p.bump ≤ n → r = (some .pool, (s.pool core ctx q).2)) ∧
    (r.1 = none → n < p.cap ∧ n < p.bump ∧ wordAt r.2.mem (p.at_ + 8) = BitVec.ofNat 32 n ∧
      ∀ la, Tbl.find r.2.launches launch.toNat = some la → ∀ e ∈ la.scopes, (q, n) ∉ e.2.nodes ∧ (q, n) ∉ e.2.lost))

/-- R300, R301, R329, R330: SCOPE.OPEN gives each acting lane, or all of them, a new scope while ids are free; SCOPE.CLOSE gives each its
parent; CANCEL begins the cancellation of the scopes that the lanes name. -/
def Sys2Proof.Claims.scopes : Prop :=
  (∀ (d : Reg) (any : Bool) (lk : BitVec 4) (pd : PReg),
    let i := Instr.scopeOpen d true any lk pd
    Always i fun s key b f la c =>
      let m := f.acting b c
      let lead := Cells.get f.scope (lowLane m)
      (∀ l ∈ lanesOf m, Cells.get f.scope l = lead) →
        let r := (s.begun key b f c i).openScope key la.word lead any (lanesOf m)
        let w : List (Nat × Nat × Word) := (r.1.map (fun id => (lanesOf m).flatMap (fun l => runWrites d l [BitVec.ofNat 32 id]))).getD []
        let t := r.2.modFlight key (fun g => g.addPending b i (f.slot b).pc m false (.write w ((lanesOf m).map (fun l => (pd.toNat, l, r.1.isSome))) 0))
        (∀ id, r.1 = some id → ((Tbl.find t.launches la.word.toNat).map (fun la => la.cancels.any (fun x => x.covered.contains id))).getD false = false) →
          ∃ g, t.flight key = some g ∧ exec i s = .next (t.moveOn key b i g)) ∧
  (∀ (d : Reg) (any : Bool) (lk : BitVec 4) (pd : PReg),
    let i := Instr.scopeOpen d false any lk pd
    Always i fun s key b f la c =>
      let m := f.acting b c
      let r := thread (fun l s => let v := s.openScope key la.word (Cells.get f.scope l) any [l]; ((l, v.1), v.2)) (lanesOf m)
        (s.begun key b f c i)
      let w : LaneWrites := (r.1.flatMap (fun x => (x.2.map (fun id => runWrites d x.1 [BitVec.ofNat 32 id])).getD []),
        r.1.map (fun x => (pd.toNat, x.1, x.2.isSome)))
      let t := r.2.modFlight key (fun g => g.addPending b i (f.slot b).pc m false (.write w.1 w.2 0))
      (∀ x ∈ r.1, ∀ id, x.2 = some id →
        ((Tbl.find t.launches la.word.toNat).map (fun la => la.cancels.any (fun y => y.covered.contains id))).getD false = false) →
          ∃ g, t.flight key = some g ∧ exec i s = .next (t.moveOn key b i g)) ∧
  (∀ lk, Always (.scopeClose lk) fun s key b f la c =>
    let i := Instr.scopeClose lk
    let m := f.acting b c
    (∀ l ∈ lanesOf m, Cells.get f.scope l ≠ 0) →
      let up (l : Nat) : Word := BitVec.ofNat 32 (((Tbl.find la.scopes (Cells.get f.scope l).toNat).map (fun r => r.parent)).getD 0)
      ∃ sc, (∀ l, l < 32 → Cells.get sc l = if m.getLsbD l then up l else Cells.get f.scope l) ∧
        let g := ({ f.issued b c i with scope := sc } : Flight).addPending b i (f.slot b).pc m false .finished
        exec i s = .next (((s.putFlight key g).sweepScopes la.word).moveOn key b i g)) ∧
  (∀ (a : Reg) (lk : BitVec 4), Always (.cancel a lk) fun s key b f la c =>
    let i := Instr.cancel a lk
    let m := f.acting b c
    let s1 := (s.begun key b f c i).sweepScopes la.word
    la.word = f.launch → (∀ l ∈ lanesOf m, ∀ ln, Tbl.find s1.launches la.word.toNat = some ln → (Tbl.find ln.scopes (f.g l a).toNat).isSome = true) →
      let s2 := s1.modFlight key (fun g => g.addPending b i (f.slot b).pc m false .cancel)
      let s3 := s2.cancelStart la.word (sortNat ((lanesOf m).map (fun l => (f.g l a).toNat))) (some (key, f.order, f.nextSeq)) (some key)
      s3.hole = false → ∀ g, s3.flight key = some g → exec i s = .next ((s3.moveOn key b i g).retireIf key))

/-- The pools, and the scopes. -/
def Obligations.pools_and_scopes : Prop := Claims.pools ∧ Claims.pool_nodes ∧ Claims.scopes

namespace Sys2Proof.Claims

/-- An arrival that R322 allows: the count, the members and the arrivals of the phase. -/
def mayArrive (x : Barrier) (launch : Word) (flight : Nat) (m : Mask) (n : Option Nat) : Prop :=
  (x.bound = none ∨ x.bound = some launch) ∧
    let k := if x.fixed then x.c else n.getD x.c0
    (k = 0 → m &&& ~~~(Cells.get x.members flight) = 0) ∧ (x.fixed = true → ∀ j, n = some j → j = x.c) ∧
      (k ≠ 0 → x.a + countLanes m ≤ k) ∧ Cells.get x.arrived flight &&& m = 0

/-- A barrier after lanes of a flight arrive (R321): it is bound, the count of the phase is fixed, the arrivals are counted, and a phase
whose arrivals equal its count completes. -/
def arrived (x : Barrier) (launch : Word) (flight : Nat) (m : Mask) (n : Option Nat) : Barrier :=
  let k := if x.fixed then x.c else n.getD x.c0
  let y := { x with bound := some launch, c := k, fixed := true, a := x.a + countLanes m,
                    arrived := Cells.set x.arrived flight (Cells.get x.arrived flight ||| m) }
  if 0 < y.a ∧ y.a = (if k ≠ 0 then k else maskCount y.members) then { y with a := 0, c := 0, fixed := false, phase := y.phase + 1, arrived := [] }
  else y

end Sys2Proof.Claims

/-- R211, R321 to R323: BAR.SYNC, BAR.SYNCN and BAR.ARV release what the slot has written and count its lanes as arrived. A slot that
completes the phase goes on, having acquired, and everyone who waits on the phase departs; a slot that does not waits on the phase.
BAR.ARV gives its lanes the phase number and waits for nothing. BAR.WAIT binds the barrier; it goes on, having acquired, when every lane's token has
been passed, and its slot waits until then. -/
def Sys2Proof.Claims.barriers : Prop :=
  (∀ (k : BitVec 8) (k6 : BitVec 6) (n : BitVec 12) (counted : Bool),
    let i := if counted then Instr.barSyncn k6 n else Instr.barSync k
    let num := if counted then k6.toNat else k.toNat
    let cnt := if counted then some n.toNat else none
    Always i fun s key b f la c =>
      let core := keyCore key
      let x := s.bar core num
      let y := arrived x la.word (key % 64) (f.acting b c) cnt
      let s1 := ((s.begun key b f c i).release core).setBar core num y
      noAccess f b → mayArrive x la.word (key % 64) (f.acting b c) cnt → s1.hole = false →
        (y.phase = x.phase → ∃ g, s1.flight key = some g ∧
          exec i s = .next (s1.moveOn key b i (g.setSlot b { g.slot b with wait := .barrier num x.phase }))) ∧
        (y.phase ≠ x.phase → let s2 := (s1.acquire core).wakeBarriers core
          s2.hole = false → ∃ g, s2.flight key = some g ∧ exec i s = .next (s2.moveOn key b i g))) ∧
  (∀ (d : Reg) (k : BitVec 8),
    let i := Instr.barArv d k
    Always i fun s key b f la c =>
      let core := keyCore key
      let x := s.bar core k.toNat
      let s1 := ((s.begun key b f c i).release core).setBar core k.toNat (arrived x la.word (key % 64) (f.acting b c) none)
      noAccess f b → mayArrive x la.word (key % 64) (f.acting b c) none →
        let s2 := (s1.modFlight key (fun g => g.setGs ((lanesOf (f.acting b c)).map (fun l => (d.toNat, l, x.phase))))).wakeBarriers core
        s2.hole = false → ∃ g, s2.flight key = some g ∧ exec i s = .next (s2.moveOn key b i g)) ∧
  (∀ (a : Reg) (k : BitVec 8),
    let i := Instr.barWait a k
    Always i fun s key b f la c =>
      let core := keyCore key
      let x := s.bar core k.toNat
      (x.bound = none ∨ x.bound = some la.word) → (∀ l ∈ lanesOf (f.acting b c), 1 ≤ (x.phase - f.g l a).toInt) →
        let s1 := ((s.begun key b f c i).setBar core k.toNat { x with bound := some la.word }).acquire core
        s1.hole = false → ∀ g, s1.flight key = some g →
          (∀ h, (s1.moveOn key b i g).flight key = some h → ∀ k' toks, (h.slot b).wait ≠ .barWait k' toks) →
            exec i s = .next (s1.moveOn key b i g)) ∧
  (∀ (a : Reg) (k : BitVec 8),
    let i := Instr.barWait a k
    Always i fun s key b f la c =>
      let core := keyCore key
      let x := s.bar core k.toNat
      let toks := (lanesOf (f.acting b c)).map (fun l => (l, f.g l a))
      (x.bound = none ∨ x.bound = some la.word) → la.word = f.launch → (∃ l ∈ lanesOf (f.acting b c), (x.phase - f.g l a).toInt < 1) →
        exec i s = .next ((s.hold key b (.barWait k.toNat toks)).setBar core k.toNat { x with bound := some la.word }))

/-- R158, R319, R320, R322, R323: JOIN and LEAVE change the membership of the acting lanes in a gallery of their workgroup; BAR.INIT sets
the expected count of a barrier that is not in use. -/
def Sys2Proof.Claims.galleries : Prop :=
  (∀ k, Always (.joinGal k) fun s key b f la c =>
    let core := keyCore key
    let x := s.bar core k.toNat
    let m := Cells.get x.members (key % 64)
    (x.bound = none ∨ x.bound = some la.word) → s.formingUnder core k.toNat = false → m &&& f.acting b c = 0 →
      exec (.joinGal k) s = .next ((s.setBar core k.toNat
        { x with bound := some la.word, members := Cells.set x.members (key % 64) (m ||| f.acting b c) }).moveOn key b (.joinGal k)
          (f.issued b c (.joinGal k)))) ∧
  (∀ k, Always (.leaveGal k) fun s key b f la c =>
    let core := keyCore key
    let x := s.bar core k.toNat
    let m := Cells.get x.members (key % 64)
    (x.bound = none ∨ x.bound = some la.word) → s.formingUnder core k.toNat = false → f.acting b c &&& ~~~m = 0 →
    Cells.get x.arrived (key % 64) &&& f.acting b c = 0 →
      let y := ({ x with members := Cells.set x.members (key % 64) (m &&& ~~~(f.acting b c)) } : Barrier).check
      let t := ((s.begun key b f c (.leaveGal k)).setBar core k.toNat y).wakeBarriers core
      t.hole = false → ∃ g, t.flight key = some g ∧ exec (.leaveGal k) s = .next (t.moveOn key b (.leaveGal k) g)) ∧
  (∀ (k : BitVec 6) (n : BitVec 12), Always (.barInit k n) fun s key b f la c =>
    let core := keyCore key
    let x := s.bar core k.toNat
    (x.bound = none ∨ x.bound = some la.word) → x.a = 0 → maskCount x.members = 0 →
      exec (.barInit k n) s = .next ((s.setBar core k.toNat { x with bound := some la.word, c0 := n.toNat }).moveOn key b (.barInit k n)
        (f.issued b c (.barInit k n))))

/-- The named barriers, and their galleries. -/
def Obligations.barriers_and_galleries : Prop := Claims.barriers ∧ Claims.galleries

/-- R324, R325: LAND.INIT, one lane after the other, arms the landing words that its lanes name and gives their generations, unless they are
in use; LAND.WAIT goes on, having acquired, once every lane's landing word has passed its token, and its slot waits until then. Reading a landing
word corrects single-bit errors in it (R206). -/
def Obligations.landing_words : Prop :=
  (∀ (d a e : Reg) (r : Bool) (pd : PReg),
    let i := Instr.landInit d a e r pd
    Always i fun s key b f la c =>
      (∀ l ∈ lanesOf (f.acting b c), (∃ x, s.landRef (placeOf key b f la c) (f.g l a) = .ok x) ∧ (f.g l e).toNat % 4 = 0 ∧
        1 ≤ (f.g l e).toNat ∧ (f.g l e).toNat ≤ 2 ^ 31) →
        let one (l : Nat) (s : State) : LaneWrites × State :=
          match s.landRef (placeOf key b f la c) (f.g l a) with
          | .error _ => (([], []), s)
          | .ok x =>
            let s := s.landRead x
            let gen := wordAt (s.scr x.1) (x.2 + 8)
            if wordAt (s.scr x.1) (x.2 + 4) ≠ 0 ∨ s.copying (keyCore key) x.1 x.2 = true then (([], [(pd.toNat, l, false)]), s)
            else ((runWrites d l [gen], [(pd.toNat, l, true)]), s.setScr x.1 (putWords (s.scr x.1) x.2 [f.g l e, 0, gen, 1]))
        let r := thread one (lanesOf (f.acting b c)) (s.begun key b f c i)
        ∃ g, r.2.flight key = some g ∧ exec i s = .next (r.2.moveOn key b i
          ((g.setGs (r.1.flatMap (·.1))).setPs (r.1.flatMap (·.2))))) ∧
  (∀ (d a : Reg),
    let i := Instr.landWait d a
    Always i fun s key b f la c =>
      (∀ l ∈ lanesOf (f.acting b c), (∃ x, s.landRef (placeOf key b f la c) (f.g l a) = .ok x ∧
        1 ≤ (wordAt (s.scr x.1) (x.2 + 8) - f.g l d).toInt)) →
        let read (s : State) (l : Nat) : State := match s.landRef (placeOf key b f la c) (f.g l a) with
          | .ok x => s.landRead x
          | .error _ => s
        let t := ((lanesOf (f.acting b c)).foldl read (s.begun key b f c i)).acquire (keyCore key)
        t.hole = false → ∃ g, t.flight key = some g ∧ exec i s = .next (t.moveOn key b i g)) ∧
  (∀ (d a : Reg),
    let i := Instr.landWait d a
    Always i fun s key b f la c =>
      (∀ l ∈ lanesOf (f.acting b c), ∃ x, s.landRef (placeOf key b f la c) (f.g l a) = .ok x) →
      (∃ l ∈ lanesOf (f.acting b c), ∃ x, s.landRef (placeOf key b f la c) (f.g l a) = .ok x ∧
        (wordAt (s.scr x.1) (x.2 + 8) - f.g l d).toInt < 1) →
        exec i s = .next (s.hold key b (.land ((lanesOf (f.acting b c)).map (fun l => (l, f.g l a, f.g l d))))))

namespace Sys2Proof.Claims

/-- Where an FP32 score that is no NaN stands among the others: by its value, the two zeros alike (R332). -/
def scoreRank (w : Word) : Int := if w.toNat < 2 ^ 31 then (w.toNat : Int) else (2 ^ 31 : Int) - w.toNat

/-- What a best cell keeps: at most two ranked offers, none of a generation that is still to come. -/
def cellOk (x : BestCell) : Prop := x.offers.length ≤ 2 ∧ ∀ e ∈ x.offers, e.gen.toNat ≤ x.gen.toNat

end Sys2Proof.Claims

/-- R332: an offer with a NaN score, or past the last generation, leaves the cell as it is; any other takes the next generation, ranks by score
and then by age, and of three the last is dropped; it is told whether it ranks first. -/
def Sys2Proof.Claims.best_offers : Prop :=
  ∀ (x : BestCell) (score plan : Word),
    (((Fp.ofWord score).isNan = true ∨ x.gen = 0xFFFFFFFF) → x.offer score plan = (x, 0, false)) ∧
    ((Fp.ofWord score).isNan = false → x.gen ≠ 0xFFFFFFFF → Claims.cellOk x →
      let o : Offer := { score := score, plan := plan, gen := x.gen + 1 }
      let r := x.offer score plan
      let above (e : Offer) : Prop := Claims.scoreRank e.score < Claims.scoreRank score
      let cell (es : List Offer) : BestCell := { x with offers := es, gen := x.gen + 1 }
      (x.offers = [] → r = (cell [o], x.gen + 1, true)) ∧
      (∀ e, x.offers = [e] → (above e → r = (cell [o, e], x.gen + 1, true)) ∧ (¬ above e → r = (cell [e, o], x.gen + 1, false))) ∧
      (∀ e h, x.offers = [e, h] → (above e → r = (cell [o, e], x.gen + 1, true)) ∧
        (¬ above e → above h → r = (cell [e, o], x.gen + 1, false)) ∧ (¬ above e → ¬ above h → r = (cell [e, h], x.gen + 1, false))))

/-- R332: an invalidation removes the ranked offer of a generation, and marks the latched one of that generation stale; it answers whether it met
either. A take latches the first offer unless one is latched, and returns the latched one with its generation and the stale bit, or zeros. Both
keep the cell's invariant, and so does an offer; a launch starts with an empty cell. -/
def Sys2Proof.Claims.best_removals : Prop :=
  (∀ (x : BestCell), x.inval 0 = (x, false) ∧
    ∀ g, g ≠ 0 →
      let latched : Bool := decide (∃ o ∈ x.latched, o.gen = g)
      x.inval g = ({ x with offers := x.offers.filter (fun e => decide (e.gen ≠ g)), stale := x.stale || latched },
        decide (∃ e ∈ x.offers, e.gen = g) || latched)) ∧
  (∀ (x : BestCell),
    (x.latched = none → x.offers = [] → x.take = (x, [0, 0, 0, 0])) ∧
    (∀ e es, x.latched = none → x.offers = e :: es →
      x.take = ({ x with latched := some e }, [e.score, e.plan, e.gen, if x.stale then 3 else 1])) ∧
    (∀ e, x.latched = some e → x.take = (x, [e.score, e.plan, e.gen, if x.stale then 3 else 1]))) ∧
  (∀ (x : BestCell) (v w : Word), Claims.cellOk x → Claims.cellOk (x.offer v w).1 ∧ Claims.cellOk (x.inval v).1 ∧ Claims.cellOk x.take.1) ∧
  Claims.cellOk { offers := [], latched := none, stale := false, gen := 0 }

namespace Sys2Proof.Claims

/-- The best cell after the acting lanes have worked on it in ascending order, and what each received. -/
def bestAll {α : Type} (x : BestCell) (one : Nat → BestCell → BestCell × α) : List Nat → BestCell × List (Nat × α)
  | [] => (x, [])
  | l :: ls =>
    let r := one l x
    let rest := bestAll r.1 one ls
    (rest.1, (l, r.2) :: rest.2)

end Sys2Proof.Claims

/-- R332: BEST.OFFER, BEST.INVAL and BEST.TAKE work on the best cell of the launch, one lane after the other; an offer first releases what its
slot has written, a take that returns an offer acquires. -/
def Sys2Proof.Claims.best_cell : Prop :=
  (∀ (pd : PReg) (d a e : Reg) (r : Bool),
    let i := Instr.bestOffer pd d a e r
    Always i fun s key b f la c => noAccess f b → la.word = f.launch →
      let v := bestAll la.best (fun l x => x.offer (f.g l a) (f.g l e)) (lanesOf (f.acting b c))
      let g := ((f.issued b c i).setGs (v.2.flatMap (fun x => runWrites d x.1 [x.2.1]))).setPs (v.2.map (fun x => (pd.toNat, x.1, x.2.2)))
      let t := ((s.begun key b f c i).release (keyCore key)).modLaunch la.word.toNat (fun la => { la with best := v.1 })
      t.hole = false → exec i s = .next (t.moveOn key b i g)) ∧
  (∀ (d a : Reg) (r : Bool),
    let i := Instr.bestInval d a r
    Always i fun s key b f la c => la.word = f.launch →
      let v := bestAll la.best (fun l x => x.inval (f.g l a)) (lanesOf (f.acting b c))
      let g := (f.issued b c i).setGs (v.2.flatMap (fun x => runWrites d x.1 [if x.2 then 1 else 0]))
      exec i s = .next ((s.modLaunch la.word.toNat (fun la => { la with best := v.1 })).moveOn key b i g)) ∧
  (∀ (d : Reg) (r : Bool),
    let i := Instr.bestTake d r
    Always i fun s key b f la c => la.word = f.launch →
      let v := bestAll la.best (fun _ x => x.take) (lanesOf (f.acting b c))
      let g := (f.issued b c i).setGs (v.2.flatMap (fun x => runWrites d x.1 x.2))
      let s1 := ((s.begun key b f c i).modLaunch la.word.toNat (fun la => { la with best := v.1 })).putFlight key g
      let t := if v.2.any (fun x => (x.2.getD 3 0).getLsbD 0) then s1.acquire (keyCore key) else s1
      t.hole = false → ∃ h, t.flight key = some h ∧ exec i s = .next (t.moveOn key b i h))

/-- The best cell of a launch. -/
def Obligations.best_cells : Prop := Claims.best_offers ∧ Claims.best_removals ∧ Claims.best_cell

/-- R333, R334: SPEC.MARK records the counters that the lowest acting lane names, the tails of the launch's contexts and the seed. SPEC.COMMIT
lowers each marked counter to its marked value plus a bound; SPEC.BACK restores the marked values and the seed. Without a record
SPEC.COMMIT and SPEC.BACK do nothing. -/
def Obligations.speculation : Prop :=
  (∀ a, Always (.specMark a) fun s key b f la c => ∀ ks xs s1,
    let p := placeOf key b f la c
    markedCounters (f.g (lowLane (f.acting b c)) a) = some ks → (s.begun key b f c (.specMark a)).counters p ks = (.ok xs, s1) →
      let r := thread (fun (x : Nat × LaneAddr) s => let v := s.loadBytes (keyCore key) false x.2 4; ((x.1, x.2, BitVec.ofNat 32 v.1), v.2)) xs s1
      let rec' : SpecRec := { counters := r.1, tails := (la.ctxs.filterMap id).map (fun n => (n, (s.ctx n).tail)), flight := f.order, seed := f.seed }
      let t := r.2.modWg la.word (keyCore key) (fun w => { w with spec := some rec' })
      t.hole = false → ∃ g, t.flight key = some g ∧ exec (.specMark a) s = .next (t.moveOn key b (.specMark a) g)) ∧
  (∀ a, Always (.specCommit a) fun s key b f la c =>
    (la.wgAt (keyCore key)).bind (fun w => w.spec) = none →
      exec (.specCommit a) s = .next (s.moveOn key b (.specCommit a) (f.issued b c (.specCommit a)))) ∧
  (Always .specBack fun s key b f la c =>
    (la.wgAt (keyCore key)).bind (fun w => w.spec) = none →
      exec .specBack s = .next (s.moveOn key b .specBack (f.issued b c .specBack))) ∧
  (∀ (a : Reg) (back : Bool),
    let i := if back then Instr.specBack else Instr.specCommit a
    Always i fun s key b f la c => ∀ rec' xs s1,
      let p := placeOf key b f la c
      (la.wgAt (keyCore key)).bind (fun w => w.spec) = some rec' →
      (s.begun key b f c i).counters p (rec'.counters.map (·.1)) = (.ok xs, s1) →
      (∀ x ∈ xs, x.2.host = false → s1.held key (f.acting b c) x.2.pa 4 = false) →
        let s2 := (xs.zip rec'.counters).foldl (fun s x =>
          let old := s.atHome (keyCore key) x.1.2 4
          old.2.storeBytes (keyCore key) false x.1.2 4
            (if back then (x.2.2.2).toNat else min old.1 (x.2.2.2 + f.g (lowLane (f.acting b c)) a).toNat)) (s1.loadsFirst key b (xs.map (·.2)) 4)
        let reseed (e : Nat × Flight) : Nat × Flight :=
          if e.2.order = rec'.flight ∧ e.2.launch = la.word then (e.1, { e.2 with seed := rec'.seed }) else e
        let late (cx : Nat) (x : Command) : Bool := decide (x.launch = some la.word) && decide (x.issuer = la.wgidAt (keyCore key)) &&
          rec'.tails.any (fun t => decide (t.1 = cx) && decide (t.2 < x.num))
        let s3 := if back then ({ s2 with flights := s2.flights.map reseed } : State).cancelCommands late else s2
        s3.hole = false → ∃ g, s3.flight key = some g ∧
          exec i s = .next ((s3.modWg la.word (keyCore key) (fun w => { w with spec := none })).moveOn key b i g))

namespace Sys2Proof.Claims

/-- The value of RNG as R335 writes it, over numbers mod 2^64. -/
def rngIs (seed stream counter : Nat) : Word :=
  let w := 2 ^ 64
  let x0 := (seed + (stream * 2 ^ 32 + counter) * 0x9E3779B97F4A7C15) % w
  let x1 := (x0 ^^^ (x0 / 2 ^ 30)) * 0xBF58476D1CE4E5B9 % w
  let x2 := (x1 ^^^ (x1 / 2 ^ 27)) * 0x94D049BB133111EB % w
  BitVec.ofNat 32 (x2 ^^^ (x2 / 2 ^ 31))

end Sys2Proof.Claims

/-- R326 to R328, R335: RNG is a function of the seed and two registers; GTIME reads global time; DL.SET writes the deadline register, or its
minimum, at once or when a deadline cancellation ends; TLWAIT goes on once every lane's timeline value is reached, its slot waiting until then, and its timeout ends it with
false in the lanes that it has not reached. -/
def Obligations.time_and_chance : Prop :=
  (∀ (d a e : Reg) (r : Bool), Always (.rng d a e r) fun s key b f _ c => ∃ g,
    exec (.rng d a e r) s = .next (s.moveOn key b (.rng d a e r) g) ∧ SameButRegs (f.issued b c (.rng d a e r)) g ∧
      RegsGiven f g (f.acting b c) d (fun l => [rngIs f.seed.toNat (f.g l a).toNat (f.g l e).toNat])) ∧
  (∀ (d : Reg) (r : Bool), Always (.gtime d r) fun s key b f _ c => ∃ g,
    exec (.gtime d r) s = .next (s.moveOn key b (.gtime d r) g) ∧ SameButRegs (f.issued b c (.gtime d r)) g ∧
      RegsGiven f g (f.acting b c) d (fun _ => [BitVec.ofNat 32 s.time, BitVec.ofNat 32 (s.time / 2 ^ 32)])) ∧
  (∀ (a : Reg) (min : Bool), Always (.dlSet a min) fun s key b f la c => la.word = f.launch →
    let v := (f.g (lowLane (f.acting b c)) a).toNat + (f.gAt (lowLane (f.acting b c)) a 1).toNat * 2 ^ 32
    let new (d : Nat) : Nat := if min then (if v ≠ 0 ∧ (d = 0 ∨ v < d) then v else d) else v
    exec (.dlSet a min) s = .next ((s.modLaunch la.word.toNat (fun la =>
      if la.clearing then { la with dlWrites := la.dlWrites ++ [(v, min)] } else { la with deadline := new la.deadline })).moveOn key b (.dlSet a min)
        (f.issued b c (.dlSet a min)))) ∧
  (∀ (pd : PReg) (cx : BitVec 2) (a : Reg) (tmo : BitVec 16),
    let i := Instr.tlwait pd cx a tmo
    Always i fun s key b f la c => ∀ ctx, la.ctxAt cx.toNat = some ctx →
      (∀ l ∈ lanesOf (f.acting b c), (f.g l a).toNat + (f.gAt l a 1).toNat * 2 ^ 32 ≤ (s.ctx ctx).timeline) →
        let g := (f.issued b c i).setPs ((lanesOf (f.acting b c)).map (fun l => (pd.toNat, l, true)))
        let t := (s.putFlight key g).acquire (keyCore key)
        t.hole = false → ∃ h, t.flight key = some h ∧ exec i s = .next (t.moveOn key b i h)) ∧
  (∀ (pd : PReg) (cx : BitVec 2) (a : Reg) (tmo : BitVec 16),
    let i := Instr.tlwait pd cx a tmo
    Always i fun s key b f la c => ∀ ctx, la.ctxAt cx.toNat = some ctx → (f.slot b).wait = .none →
      (∃ l ∈ lanesOf (f.acting b c), (s.ctx ctx).timeline < (f.g l a).toNat + (f.gAt l a 1).toNat * 2 ^ 32) →
        exec i s = .next (s.hold key b (.timeline ctx pd ((lanesOf (f.acting b c)).map (fun l => (l, f.g64 l a)))
          (if tmo = 0 then none else some (s.cycle + 16 * tmo.toNat))))) ∧
  (∀ (fl : Nat) (b : Bool) (s : State) (f : Flight) (ctx : Nat) (pd : PReg) (vals : List (Nat × DWord)) (stop : Nat),
    s.flight fl = some f → (f.slot b).wait = .timeline ctx pd vals (some stop) → (f.slot b).live = true → stop ≤ s.cycle →
      exec (.tlwaitTimeout fl b) s = .next ((s.tlEnd fl ctx pd.toNat vals).modFlight fl (fun g => g.passed b 2)))

/-- R100 to R102: a GROW that the allotment already meets is true at once; another waits in its partition's queue, and its grant gives the
registers, all zero, its denial false. SHRINK gives registers up once nothing is pending in the flight. -/
def Obligations.allotments : Prop :=
  (∀ (pd : PReg) (n : BitVec 7), Always (.grow pd n) fun s key b f _ c =>
    let i := Instr.grow pd n
    let g := f.issued b c i
    (8 * n.toNat ≤ f.allot → exec i s = .next (s.moveOn key b i (g.setPs ((lanesOf (f.acting b c)).map (fun l => (pd.toNat, l, true)))))) ∧
    (f.allot < 8 * n.toNat → exec i s = .next ((s.setGrowing key (s.growing key ++ [{ flight := key, slotB := b }])).moveOn key b i
      (g.setSlot b { g.slot b with wait := .grow pd (f.acting b c) (8 * n.toNat) })))) ∧
  (∀ (fl : Nat) (b : Bool) (s : State) (f : Flight) (pd : PReg) (m : Mask) (n : Nat),
    s.flight fl = some f → (f.slot b).wait = .grow pd m n → (f.slot b).live = true →
      let rest := s.setGrowing fl ((s.growing fl).filter (fun c => decide (c ≠ { flight := fl, slotB := b })))
      (s.growReady fl b = true → f.allot < n → exec (.growGrant fl b) s = .next (rest.putFlight fl
        ((({ f with gpr := Cells.keep f.gpr (fun i => decide (i < 32 * f.allot)), allot := n } : Flight).setPs
          ((lanesOf m).map (fun l => (pd.toNat, l, true)))).wake b))) ∧
      (s.growDenied fl b = true → exec (.growDenial fl b) s = .next (rest.putFlight fl
        ((f.setPs ((lanesOf m).map (fun l => (pd.toNat, l, false)))).wake b)))) ∧
  (∀ n : BitVec 8, Always (.shrink n) fun s key b f _ c =>
    let i := Instr.shrink n
    let g := f.issued b c i
    (f.allot ≤ 8 * n.toNat → exec i s = .next (s.moveOn key b i g)) ∧
    (8 * n.toNat < f.allot → f.undone false = [] → f.undone true = [] →
      exec i s = .next (s.moveOn key b i { g with gpr := Cells.keep f.gpr (fun j => decide (j < 32 * (8 * n.toNat))), allot := 8 * n.toNat })))

namespace Sys2Proof.Claims

/-- The value of a control and status register as a flight reads it, by the table of R345. -/
def csrIs (s : State) (f : Flight) (n : Nat) : Word :=
  let t (g : TrapInfo → Nat) : Nat := (f.trap.map g).getD 0
  BitVec.ofNat 32 (((([(0x00, s.cycle), (0x01, s.cycle / 2 ^ 32), (0x02, s.pmode.toNat), (0x10, t (fun x => x.code + 256 * x.n.toNat)),
    (0x11, t (fun x => x.pc.toNat)), (0x12, t (fun x => x.mask.toNat)), (0x13, t (fun x => x.who.toNat)), (0x14, t (fun x => x.va)),
    (0x15, t (fun x => x.va / 2 ^ 32 % 65536)), (0x20, s.frBase.toNat), (0x21, s.frBase.toNat / 2 ^ 32), (0x22, s.frLog), (0x23, s.frHead),
    (0x24, s.frTail), (0x30, s.alarm.toNat)] : List (Nat × Nat)).lookup n)).getD 0)

end Sys2Proof.Claims

/-- R345, R346: CSRR gives every acting lane the register's value. CSRW takes the value of the lowest acting lane: the ring's base and size change
only while the ring is empty, and ones clear alarm bits. The bits of FRBASE that R345 shows as zero drop what is written, which is the model's
choice (log entry 48). A CSRW of any other register is refused when its clause is checked; its meaning changes nothing. -/
def Sys2Proof.Claims.control_registers : Prop :=
  (∀ (d : Reg) (n : BitVec 8), Always (.csrr d n) fun s key b f _ c => ∃ g,
    exec (.csrr d n) s = .next (s.moveOn key b (.csrr d n) g) ∧ SameButRegs (f.issued b c (.csrr d n)) g ∧
      RegsGiven f g (f.acting b c) d (fun _ => [csrIs s f n.toNat])) ∧
  (∀ (a : Reg) (n : BitVec 8), Always (.csrw a n) fun s key b f _ c =>
    let i := Instr.csrw a n
    let v := f.g (lowLane (f.acting b c)) a
    let empty := s.frTail = s.frHead
    let done (t : State) : Prop := exec i s = .next (t.moveOn key b i (f.issued b c i))
    (n = 0x20 → empty → done { s with frBase := BitVec.ofNat 48 (s.frBase.toNat / 2 ^ 32 * 2 ^ 32 + v.toNat / 64 * 64) }) ∧
    (n = 0x21 → empty → done { s with frBase := BitVec.ofNat 48 (s.frBase.toNat % 2 ^ 32 + v.toNat % 2 ^ 16 * 2 ^ 32) }) ∧
    (n = 0x22 → empty → done { s with frLog := if 6 ≤ v.toNat ∧ v.toNat ≤ 16 then v.toNat else 6 }) ∧
    (n ∈ [0x20, 0x21, 0x22] → ¬ empty → done s) ∧
    (n = 0x30 → done { s with alarm := s.alarm &&& ~~~(v.setWidth 3) }) ∧
    (n ∉ [0x20, 0x21, 0x22, 0x30] → done s))

/-- R306, R310, R343, R347: HALT halts the queue of the lowest acting lane's number, and the packet that it holds is not served: that a lane serves
the queue of its number is the model's choice (log entry 31). FAULTACK acknowledges records, never more than are
written, and lets what was parked on them go on; TLBI invalidates a range of a context. -/
def Sys2Proof.Claims.privileged_instructions : Prop :=
  (∀ a, Always (.halt a) fun s key b f _ c =>
    let l := lowLane (f.acting b c)
    exec (.halt a) s = .next ((s.setQueue l { s.queue l with halt := true, error := (f.g l a).toNat % 256, held := none }).moveOn key b (.halt a)
      (f.issued b c (.halt a)))) ∧
  (∀ a, Always (.faultack a) fun s key b f _ c =>
    let t := (s.begun key b f c (.faultack a)).ackAll (f.g (lowLane (f.acting b c)) a).toNat
    (s.expans = [] → t.frHead = min (s.frHead + (f.g (lowLane (f.acting b c)) a).toNat) s.frTail ∧ (t.flight key).isSome = true) ∧
      ∀ g, t.flight key = some g → exec (.faultack a) s = .next (t.moveOn key b (.faultack a) g)) ∧
  (∀ (d a e : Reg), Always (.tlbi d a e) fun s key b f la c =>
    let l := lowLane (f.acting b c)
    let wide (r : Reg) : Nat := (f.g l r).toNat + (f.gAt l r 1).toNat * 2 ^ 32
    (f.kind = .handler → la.ctxs.contains (some (f.g l d).toNat) = true) →
      let t := (s.begun key b f c (.tlbi d a e)).tlbi (f.g l d).toNat (wide a) (wide e)
      t.hole = false → (∃ g, t.flight key = some g ∧ exec (.tlbi d a e) s = .next (t.moveOn key b (.tlbi d a e) g)) ∧
        (wide a < wide e → ∀ x ∈ t.tlb, x.ctx = (f.g l d).toNat → ¬ (x.base < wide e ∧ wide a < x.base + x.size)))

/-- The control registers, and the privileged instructions. -/
def Obligations.control_and_privileged : Prop := Claims.control_registers ∧ Claims.privileged_instructions

/-- R344, R347: ERET of a handler flight completes when nothing of the flight is pending, it disposes of the trap that the flight serves, if it serves
one, and no lane of the flight is left; in the firmware flight it acts as NOP. That no expansion is still forming rules out faults of other
flights that their forming could raise in the same step (R156, R157). -/
def Sys2Proof.Claims.eret_completes : Prop :=
  (∀ a, Always (.eret a) fun s key b f _ c => f.kind = .firmware →
    f.trap = none → exec (.eret a) s = .next (s.moveOn key b (.eret a) (f.issued b c (.eret a)))) ∧
  (∀ a, Always (.eret a) fun s key _ f _ _ => f.kind = .handler → f.undone false = [] → f.undone true = [] → f.regions = [] →
    (∀ tr, f.trap = some tr → tr.flight ≠ key) → (∀ e ∈ s.expans, e.2.isOpen = true) →
      ∃ t, exec (.eret a) s = .next t ∧ ∀ g, t.flight key = some g → g.alive = 0) ∧
  (∀ a, Always (.eret a) fun s key b f _ c => f.kind = .handler → f.undone false = [] → f.undone true = [] → f.regions = [] →
    ∀ tr, f.trap = some tr →
      let s1 := (s.begun key b f c (.eret a)).dispose tr (f.g (lowLane (f.acting b c)) a).toNat
      let s2 := (s1.modFlight key (fun g => { ((g.closeWindows false).closeWindows true).stop f.alive with trap := none })).leaveAll key f.alive
      s2.hole = false → ∀ g, s2.flight key = some g →
        let t := (s2.moveOn key b (.eret a) g).retireIf key
        t.hole = false → exec (.eret a) s = .next (t.retireIf tr.flight))

/-- R344, R347: how the value of ERET disposes of a trap, for the trapped lanes that are still in its slot. 1 replays the instruction for them, from
its checks on where those had refused it (codes 1, 3 and 4), and decodes a refused clause again; 2 goes on after the instruction, or at the clause
after a refused one, and so does any value when no trapped lane is left; another value, or 2 where the header of a clause was refused, ends them
as EXIT would, once the slot has nothing pending (R50), and the other lanes go on after the instruction. -/
def Sys2Proof.Claims.trap_disposed : Prop :=
  ∀ (s : State) (t : TrapInfo) (f : Flight), s.flight t.flight = some f → (f.slot t.slotB).trapped &&& t.mask ≠ 0 → t.late = none →
    let b := t.slotB
    let x := f.slot b
    let m := x.trapped &&& t.mask &&& x.mask
    let y : Slot := { x with trapped := x.trapped &&& ~~~t.mask }
    (m ≠ 0 → t.decode = false → t.code ∉ [1, 3, 4] → s.dispose t 1 = s.putFlight t.flight (f.setSlot b { y with replay := some m })) ∧
    (m ≠ 0 → t.decode = true ∨ t.code ∈ [1, 3, 4] → s.dispose t 1 = s.putFlight t.flight (f.setSlot b { y with replay := none })) ∧
    (∀ v, v = 2 ∨ m = 0 → t.hdrBad = false → t.decode = false →
      s.dispose t v = s.putFlight t.flight (((f.setSlot b { y with replay := none }).advance b t.count).settle)) ∧
    (∀ v, v = 2 ∨ m = 0 → t.hdrBad = false → t.decode = true →
      s.dispose t v = s.putFlight t.flight (((f.setSlot b { y with replay := none }).goto b (y.pc + BitVec.ofNat 32 (4 * t.count))).settle)) ∧
    (∀ v, m ≠ 0 → v ≠ 1 ∧ v ≠ 2 ∨ v = 2 ∧ t.hdrBad = true →
      let skip := if t.decode then 0 else t.count
      (f.undone b ≠ [] → (∀ n l, x.wait ≠ .ending n l) →
        s.dispose t v = s.putFlight t.flight (f.setSlot b { x with wait := .ending skip m, replay := none })) ∧
      (f.undone b = [] → (∀ n l, x.wait ≠ .ending n l) →
        let g := (((f.closeWindows b).setSlot b { y with wait := .none, replay := none }).exitLanes b m).settle
        let h := if skip ≠ 0 ∧ (g.slot b).live = true then (g.advance b skip).settle else g
        s.dispose t v = (((s.putFlight t.flight h).leaveAll t.flight m).lanesGone (keyCore t.flight)).tidyFlight t.flight))

/-- R344, R347: the return from an exception. -/
def Obligations.return_from_trap : Prop := Claims.eret_completes ∧ Claims.trap_disposed

/-! What happens by itself: events of slots, flights, launches, engines, caches, queues and the device. -/

namespace Sys2Proof.Claims

/-- An event whose effect is t carries it out, unless an access of it went where no memory is (log entry 2). -/
def Happens (i : Instr) (s t : State) : Prop := t.hole = false → exec i s = .next t

end Sys2Proof.Claims

/-- R26, R39, R42, R49, R55, R89: a slot whose waits are over opens the clause at its PC when it keeps the checks; a ready slot that 256 issues of
other slots of its class have passed over becomes aged, and one that is not ready loses its age and its count; a sleeping slot wakes at its
cycle; a pending instruction that knows its results writes them and is done, a CVT instruction once its window is over or its slot waits (log
entry 14). -/
def Obligations.slot_events : Prop :=
  (∀ (fl : Nat) (b : Bool) (s : State) (f : Flight) (la : Launch) (idx : Nat) (s1 s2 : State),
    s.flight fl = some f → Tbl.find s.launches f.launch.toNat = some la → s.slotClear fl f b = true → (f.slot b).clause = none →
    la.wordIdx (f.slot b).pc = some idx → (f.undone b).any (hdrWaits (la.code.getD idx 0)) = false →
    (s.putFlight fl (f.setSlot b { f.slot b with wait := .none, replay := none })).fetchDeny la idx = (none, s1) →
    s1.fetchDeny la (min (idx + hdrCount (la.code.getD idx 0)) (la.code.length - 1)) = (none, s2) →
    clauseCheck s.accepted la.code idx = none → s2.hole = false →
      ∃ t g, exec (.clauseDecode fl b) s = .next t ∧ t.flight fl = some g ∧ (g.slot b).pc = (f.slot b).pc + 4 ∧
        (g.slot b).mask = (f.slot b).mask ∧ (g.slot b).clause = some { hdr := la.code.getD idx 0, base := (f.slot b).pc, guard := none } ∧
        g.gpr = f.gpr ∧ g.preds = f.preds ∧ g.stack = f.stack) ∧
  (∀ (fl : Nat) (b : Bool) (s : State) (f : Flight), s.flight fl = some f →
    let x := f.slot b
    (s.slotReady fl f b = false → exec (.slotAged fl b) s = .next (s.putFlight fl (f.setSlot b { x with aged := 0, old := false }))) ∧
    (s.slotReady fl f b = true → 256 ≤ x.aged → exec (.slotAged fl b) s = .next (s.putFlight fl (f.setSlot b { x with old := true }))) ∧
    (s.slotReady fl f b = true → x.aged < 256 → exec (.slotAged fl b) s = .next s)) ∧
  (∀ (fl : Nat) (b : Bool) (s : State) (f : Flight) (stop : Nat), s.flight fl = some f → (f.slot b).wait = .sleep stop → stop ≤ s.cycle →
    exec (.sleepExpiry fl b) s = .next (s.putFlight fl (f.wake b))) ∧
  (∀ (fl seq : Nat) (s : State) (f : Flight) (la : Launch) (p : Pending) (gw : List (Nat × Nat × Word)) (pw : List (Nat × Nat × Bool)) (fs : Word)
      (idle : List (Nat × Nat)),
    s.flight fl = some f → Tbl.find s.launches f.launch.toNat = some la → f.pending.find? (fun q => decide (q.seq = seq)) = some p →
    (p.act = .write gw pw fs ∧ idle = [] ∨ (∃ ag, p.act = .reading gw ag) ∧ pw = [] ∧ fs = 0 ∧ idle = [] ∨
      (∃ ag, p.act = .product gw idle ag) ∧ pw = [] ∧ fs = 0 ∨ p.act = .finished ∧ gw = [] ∧ pw = [] ∧ fs = 0 ∧ idle = []) →
      Claims.completesWith fl seq s f p gw pw fs idle)

/-- R21, R33, R34, R71, R282, R300, R344: a core's task queue starts a flight of the role that it serves next: its oldest groups, as many as 32
lanes hold, leave the queue, and each thread has its group's argument, its index, the group's count and the scope of the SPAWN; and a workgroup's oldest held event starts
its handler flight: for a trap, register 0 says 1 and register 1 the code, and the flight serves that trap. The deadline fires when global time
reaches the deadline register; where it is not due, the event lets cancellations go on that have waited for a reserved word (log entry 79). -/
def Obligations.flight_starts : Prop :=
  (∀ (core : Nat) (s : State) (la : Launch) (n : Nat) (r : Role) (pos : Nat), s.nextSpawn core = some (la, n, r, pos) →
    let mine := ((Tbl.find s.tasks core).getD []).filter (fun x => decide (x.launch = la.word) && decide (x.role = n))
    let count := ((takeGroups 0 mine).map (fun x => x.count)).sum
    ∃ t g, exec (.taskQueueFlightStart core) s = .next t ∧ t.flight (64 * core + pos) = some g ∧ g.launch = la.word ∧ g.kind = .spawned ∧
      g.role = n ∧ g.allot = r.allot ∧ g.a.pc = la.pcOf r.entry ∧ g.a.mask = maskOf (List.range count) ∧ g.b.mask = 0 ∧ g.stack = [] ∧
      g.seed = la.seed ∧ g.fmask = 0 ∧ g.fpstat = 0 ∧ t.flightSeq = s.flightSeq + 1 ∧ g.preds = [] ∧ g.unif = [] ∧
      (let cs := takeGroups 0 mine
       let ts := cs.flatMap (fun x => (List.range x.count).map (fun i => (x, i)))
       mine.take cs.length = cs ∧ count ≤ 32 ∧ (∀ x, mine[cs.length]? = some x → 32 < count + x.count) ∧
       (((Tbl.find t.tasks core).getD []).filter (fun x => decide (x.launch = la.word) && decide (x.role = n)) = mine.drop cs.length) ∧
       (((Tbl.find t.tasks core).getD []).filter (fun x => !(decide (x.launch = la.word) && decide (x.role = n))) =
         ((Tbl.find s.tasks core).getD []).filter (fun x => !(decide (x.launch = la.word) && decide (x.role = n)))) ∧
       (∀ l x i, ts[l]? = some (x, i) → Cells.get g.gpr l = x.arg ∧ Cells.get g.gpr (32 + l) = BitVec.ofNat 32 i ∧
         Cells.get g.gpr (64 + l) = BitVec.ofNat 32 x.count ∧ Cells.get g.scope l = x.scope) ∧
       (∀ k, 96 ≤ k → Cells.get g.gpr k = 0))) ∧
  (∀ (launch : Word) (core : Nat) (s : State) (la : Launch) (w : Workgroup) (n : Nat) (r : Role) (e : HeldEvent) (es : List HeldEvent) (pos : Nat),
    Tbl.find s.launches launch.toNat = some la → la.wgAt core = some w →
    ((List.range la.roles.length).zip la.roles).find? (fun x => x.2.handler) = some (n, r) → w.held = e :: es → w.handlerPos = some pos →
    w.running = false → w.retired = false →
      ∃ t g, exec (.heldEventHandlerStart launch core) s = .next t ∧ t.flight (64 * core + pos) = some g ∧ g.launch = la.word ∧
        g.kind = .handler ∧ g.allot = r.allot ∧ g.a.pc = la.pcOf r.entry ∧ g.a.mask = BitVec.allOnes 32 ∧
        (e = .deadline → g.deadlineEvent = true ∧ g.trap = none ∧ g.gpr = []) ∧
        (∀ x, e = .trap x → g.trap = some x ∧ g.deadlineEvent = false ∧
          ∀ l, l < 32 → Cells.get g.gpr l = 1 ∧ Cells.get g.gpr (32 + l) = BitVec.ofNat 32 x.code)) ∧
  (∀ (launch : Word) (s : State) (la : Launch), Tbl.find s.launches launch.toNat = some la → s.deadlineDue la = true →
    let s2 := (s.modLaunch launch.toNat (fun x => { x with wgs := x.wgs.map (fun w =>
      if la.handlerRole.isSome ∧ la.serving = some w.wgid then { w with dlPending := true } else w) })).sweepScopes launch
    ∀ ln, Tbl.find s2.launches launch.toNat = some ln →
      Happens (.deadlineFire launch) s (s2.cancelStart launch ((ln.scopes.filter (fun e => e.2.anytime)).map (fun e => e.1)) none none)) ∧
  (∀ (launch : Word) (s : State) (la : Launch), Tbl.find s.launches launch.toNat = some la → s.deadlineDue la = false →
    (la.cancels = [] → exec (.deadlineFire launch) s = .next s) ∧
    (la.cancels ≠ [] → Happens (.deadlineFire launch) s s.cancelAdvance))

namespace Sys2Proof.Claims

/-- What a core has when a launch has started there: each entry flight of each role at its place, its 32 lanes live in slot A at the role's entry
with every register zero, and the windows cleared (R16, R71, R192). -/
def startedOn (t : State) (la : Launch) (core : Nat) (sp : Spot) : Prop :=
  (∀ x ∈ sp.flights, ∀ r, la.roles[x.2]? = some r → ∃ g, t.flight (64 * core + x.1) = some g ∧ g.launch = la.word ∧ g.kind = .resident ∧
    g.role = x.2 ∧ g.allot = r.allot ∧ g.a.pc = la.pcOf r.entry ∧ g.a.mask = BitVec.allOnes 32 ∧ g.b.mask = 0 ∧ g.stack = [] ∧ g.gpr = [] ∧
    g.preds = [] ∧ g.unif = [] ∧ g.scope = [] ∧ g.privs = [] ∧ g.regions = [] ∧ g.pending = [] ∧ g.seed = la.seed ∧ g.fmask = 0 ∧ g.fpstat = 0) ∧
  (∀ w ∈ la.windows, ∀ at_, Tbl.find sp.wins w.num = some at_ → ∀ a, at_ ≤ a → a < at_ + w.space → Cells.get (t.scr core) a = 0)

/-- What a place found for a launch's workgroup on a core is (R16, R17, R192): the entry flights of the roles in role order, each at a free
position of its own, and for each window a free stretch of the scratchpad at its alignment, clear of every other window. -/
def placed (s : State) (la : Launch) (core : Nat) (sp : Spot) : Prop :=
  sp.flights.map (fun x => x.2) = ((List.range la.roles.length).zip la.roles).flatMap (fun r => List.replicate r.2.flights r.1) ∧
  (sp.flights.map (fun x => x.1)).Nodup ∧ (∀ x ∈ sp.flights, x.1 < 64 ∧ s.flight (64 * core + x.1) = none) ∧
  (∀ w ∈ la.windows, ∃ at_, Tbl.find sp.wins w.num = some at_ ∧ at_ % w.align = 0 ∧ at_ + w.space ≤ 131072 ∧
    (∀ v ∈ s.takenWindows core, at_ + w.space ≤ v.1 ∨ v.1 + v.2 ≤ at_) ∧
    ∀ v ∈ la.windows, v.num ≠ w.num → ∀ p, Tbl.find sp.wins v.num = some p → at_ + w.space ≤ p ∨ p + v.space ≤ at_)

end Sys2Proof.Claims

/-- R13, R16, R17, R192: what a launch that starts has. Its workgroups stand where they were placed and it keeps all that its packet and image gave
it, its start time being now. A flight goes to the partition that has the most registers free, among equals to the first; that it takes the lowest free
position there, and that a partition with no free position is passed over, is the model's choice (log entries 32 and 66). -/
def Sys2Proof.Claims.launch_places : Prop :=
  (∀ (s : State) (la : Launch) (fence : BitVec 3) (sps : List Spot), s.spots la = some sps → (la.wgs.map (fun w => w.core)).Nodup →
    (∀ sp ∈ sps, sp.flights ≠ []) →
      let t := s.startLaunch la fence sps
      Tbl.find t.launches la.word.toNat = some { la with
        wgs := (la.wgs.zip sps).map (fun e => { e.1 with wins := e.2.wins, handlerPos := e.2.handler }), start := s.time } ∧
      (∀ e ∈ la.wgs.zip sps, Claims.startedOn t la e.1.core e.2) ∧ t.mem = s.mem ∧ t.hostMem = s.hostMem) ∧
  (∀ (s : State) (la : Launch) (core : Nat) (sp : Spot), s.spotOn la core = some sp → (la.windows.map (fun w => w.num)).Nodup →
    Claims.placed s la core sp) ∧
  (∀ (x y : Occ) (allot k : Nat), x.place allot = some (k, y) → (∀ e ∈ x, ∀ q ∈ e.2, q < 16) →
    let free (q : Nat) : Nat := (x.getD q (0, [])).1
    let pos (q : Nat) : List Nat := (x.getD q (0, [])).2
    (pos (k / 16)).head? = some (k % 16) ∧ 32 * allot ≤ free (k / 16) ∧
      ∀ q, q < x.length → pos q ≠ [] → 32 * allot ≤ free q → free q < free (k / 16) ∨ free q = free (k / 16) ∧ k / 16 ≤ q)

/-- R18, R22, R316: a waiting launch that fits starts; a launch whose gangs have retired and whose commands have completed ends with its
record, written through its first context, and its vector. -/
def Sys2Proof.Claims.launches_run : Prop :=
  (∀ (q : Nat) (s : State) (w : Waiting) (la : Launch) (s1 : State) (sps : List Spot), q ≠ 0 → (s.queue q).waiting = some w →
    (Tbl.find s.launches w.launch.word.toNat).isSome = false → s.reflex.windowOpen = false → s.prepare w = (.ok la, s1) →
    s1.spots la = some sps → Happens (.launchStart q) s ((s1.startLaunch la w.fence sps).launchGone q true)) ∧
  (∀ (launch : Word) (s : State) (la : Launch), Tbl.find s.launches launch.toNat = some la → s.launchDone la = true →
    let s1 := if (s.launchFence la).getLsbD 1 then s.writeBackLaunch la (la.wgs.map (fun w => w.core)) else s
    let fmask := la.wgs.foldl (fun m w => m ||| w.fmask) 0
    let rec' : List Word :=
      [BitVec.ofNat 32 (la.fault * 256 + (if la.ended = [] then 0 else 2)), la.word, fmask, BitVec.ofNat 32 la.overrun.toNat,
       BitVec.ofNat 32 la.lost, 0, BitVec.ofNat 32 la.start, BitVec.ofNat 32 (la.start / 2 ^ 32), BitVec.ofNat 32 s.time,
       BitVec.ofNat 32 (s.time / 2 ^ 32), 0, 0, 0, 0, 0, 0]
    Happens (.launchCompletion launch) s
      (s.unlessHeld (({ s1 with launches := Tbl.del s1.launches launch.toNat } : State).putRecord la.ctx0 la.record rec' la.irq)))

/-- R13, R16 to R18, R22, R192, R316: how a launch starts, what it has then, and how it ends. -/
def Obligations.launches_start_and_end : Prop := Claims.launches_run ∧ Claims.launch_places

/-- R142, R338 to R342: pre-empting a gang without open regions, in which nothing started has still to end, takes its flights off their cores
and keeps one image of it; the record of a flight holds its slots, specials, lane arrays, predicates, kinds of pending entries, stack, uniform
and general registers at the places of R339; a core section starts at each offset that the header lists. A matrix instruction that has not
finished fetching is abandoned and replayed whole from what it read at issue; that an entry of the choices tape says which one has not is log
entry 26; one whose unit is free again has fetched them (R139). The image is written to device memory; that it is kept as data too is the
model's choice (log entry 13). -/
def Sys2Proof.Claims.saving : Prop :=
  (∀ (launch : Word) (gang : Nat) (s : State) (la : Launch), Tbl.find s.launches launch.toNat = some la → la.word = launch →
    la.runningGang gang ≠ [] → Tbl.sorted s.flights = true →
    (∀ e ∈ s.flights, e.2.launch = launch → e.2.regions = [] ∧ ∀ p ∈ e.2.pending, p.done = true ∨ p.kind ≠ 1) →
    (s.preempt launch gang).hole = false →
      ∃ t img, exec (.preemptionRequest launch gang) s = .next t ∧ t.saved = s.saved ++ [img] ∧ img.launch = launch ∧ img.gang = gang ∧
        (∃ u : State, t.mem = (u.writeImage img la.gang).mem) ∧
        img.time = s.time ∧ img.members.map (fun m => (m.core, m.wgid)) = (la.runningGang gang).map (fun w => (w.core, w.wgid)) ∧
        (∀ m ∈ img.members, ∀ k f, k < 64 → (Tbl.find m.flights k = some f ↔
          ∃ g, s.flight (64 * m.core + k) = some g ∧ g.launch = launch ∧ f = g.rested)) ∧
        ∀ e ∈ t.flights, e.2.launch = launch → ∀ w ∈ la.runningGang gang, e.1 / 64 ≠ w.core) ∧
  (∀ (m : SavedMember) (fl : Nat) (f : Flight), Tbl.find m.flights fl = some f →
    m.recordWord fl 0 = some f.a.pc ∧ m.recordWord fl 4 = some f.a.mask ∧ m.recordWord fl 0x10 = some f.b.pc ∧ m.recordWord fl 0x14 = some f.b.mask ∧
    m.recordWord fl 0x28 = some f.fmask ∧ m.recordWord fl 0x2C = some f.fpstat ∧ m.recordWord fl 0x38 = some (f.a.park ||| f.a.trapped) ∧
    m.recordWord fl 0x3C = some (f.b.park ||| f.b.trapped) ∧
    (∀ b : Bool, ∃ v, m.recordWord fl (if b then 0x1C else 0x0C) = some v ∧
      v.getLsbD 0 = (decide ((f.slot b).mask ≠ 0) && decide ((f.slot b).trapped = 0)) ∧ v.getLsbD 1 = decide ((f.slot b).join = .waiting) ∧
      v.getLsbD 2 = decide ((f.slot b).park ≠ 0) ∧ v.getLsbD 3 = decide ((f.slot b).trapped ≠ 0) ∧ v.getLsbD 4 = (f.slot b).inGrow) ∧
    (∀ l, l < 32 → m.recordWord fl (0x40 + 4 * l) = some (Cells.get f.own l) ∧ m.recordWord fl (0xC0 + 4 * l) = some (Cells.get f.iter l) ∧
      m.recordWord fl (0x140 + 4 * l) = some (Cells.get f.scope l) ∧ m.recordWord fl (0x1C0 + 4 * l) = some (Cells.get f.astat l) ∧
      m.recordWord fl (0x240 + 4 * l) = some (Cells.get f.idle l) ∧
      ∃ v, m.recordWord fl (0x2C0 + 4 * l) = some v ∧ v.getLsbD 15 = true ∧ ∀ n, n < 15 → v.getLsbD n = (Cells.get f.preds n).getLsbD l) ∧
    (∀ n, n < 63 → m.recordWord fl (0x340 + 4 * n) = some (Cells.get f.unif n)) ∧
    (∀ n p, n < 16 → (f.pending.filter (fun p => !p.done && decide (p.kind ≠ 0)))[n]? = some p →
      m.recordWord fl (0x440 + 32 * n) = some (BitVec.ofNat 32 p.kind)) ∧
    (∀ n x, n < 64 → f.stack[n]? = some x → m.recordWord fl (0x640 + 16 * n) = some x.pc ∧ m.recordWord fl (0x644 + 16 * n) = some x.mask) ∧
    (∀ n l, n < f.allot → l < 32 → m.recordWord fl (0xA40 + 128 * n + 4 * l) = some (Cells.get f.gpr (32 * n + l)))) ∧
  (∀ (g : SavedGang) (size : Nat), g.coreOffsets.length = g.members.length ∧ g.coreOffsets.Pairwise (fun x y => x + 256 ≤ y) ∧
    (∀ o ∈ g.coreOffsets, o % 256 = 0) ∧
    g.header size = [0x49584354, 1, BitVec.ofNat 32 size, g.launch] ++ g.members.map (fun m => BitVec.ofNat 32 m.core) ++
      [BitVec.ofNat 32 g.time, BitVec.ofNat 32 (g.time / 2 ^ 32)] ++ g.coreOffsets.map (BitVec.ofNat 32)) ∧
  (∀ (s : State) (key : Nat) (f : Flight) (p : Pending) (gw : List (Nat × Nat × Word)) (idle : List (Nat × Nat)) (a : Again),
    s.flight key = some f → f.pending = [p] → p.done = false → p.act = .product gw idle (some a) →
    s.choose.1 = true →
      let unit := (Tbl.find s.matBusy (4 * (key / 64) + key % 64 / 16)).getD 0
      (s.cycle < unit → ∃ g, (s.haltFlight key).flight key = some g ∧ g.pending = [{ p with act := .again a 0 }]) ∧
      (unit ≤ s.cycle → s.abandon key = s))

/-- R338, R339: what firmware writes of an image: the words that the rules give, at the offsets of its sections, each on a 256-byte boundary, in
LPDDR-6 memory that no engine context maps; no byte outside the image changes, nor one on a mapped page. Where the image lies, and its other
bytes, are free values (log entry 13). -/
def Sys2Proof.Claims.image_written : Prop :=
  ∀ (s : State) (g : SavedGang) (size : Nat),
    let t := s.writeImage g size
    let base := imageBase g.extent s.freeCtr
    base % 256 = 0 ∧ { t with mem := s.mem, freeCtr := s.freeCtr } = s ∧
    (∀ a, a < base ∨ base + g.extent ≤ a ∨ (∃ e ∈ s.leaves, e.pa ≤ a ∧ a < e.pa + e.size) → Cells.get t.mem a = Cells.get s.mem a) ∧
    (g.extent ≤ Config.lpddrBytes → base + g.extent ≤ Config.lpddrBytes ∧
      ∀ o w, (o, some w) ∈ g.words size → (∀ e ∈ s.leaves, base + o < e.pa ∨ e.pa + e.size ≤ base + o) → wordAt t.mem (base + o) = w) ∧
    (∀ x ∈ (g.header size).zipIdx, x.2 < 64 → (4 * x.2, some x.1) ∈ g.words size) ∧
    (∀ m ∈ g.members, ∀ e ∈ m.flights, ∃ st, st % 256 = 0 ∧ ∀ o w, o % 4 = 0 → o < 0xA40 + 128 * e.2.allot → m.recordWord e.1 o = some w →
      (st + o, some w) ∈ g.words size) ∧
    ∀ m ∈ g.members, ∀ x ∈ m.windows, ∃ st, st % 256 = 0 ∧ ∀ o, o % 4 = 0 → o + 4 ≤ x.2.1 → (st + o, some (wordAt x.2.2 o)) ∈ g.words size

namespace Sys2Proof.Claims

/-- A flight that resumes on a core: it is as its record has it, a trap that it serves is one of that core's, and its loads are to be issued again
(R340, R342). -/
def broughtBack (f : Flight) (core : Nat) : Flight :=
  { f with trap := f.trap.map (fun t => { t with flight := 64 * core + t.flight % 64 }),
           pending := f.pending.map (fun p => { p with act := match p.act with
             | .load d wd ord ls => .again (.mem d wd ord ls) 0
             | .bad d wd ord _ ls => .again (.mem d wd ord ls) 0
             | .reading _ a => .again a 0
             | a => a }) }

/-- What a core has when a member of a gang has been restored there (R205, R342): its flights and no other, its barriers, expansions and atria, its
child groups behind those queued there, its listed copies, its workgroup with the windows that it got, and in them the bytes that they held. -/
def restoredOn (s t : State) (la : Launch) (m : SavedMember) (core : Nat) (wins : Tbl Nat) : Prop :=
  (∀ k f, Tbl.find m.flights k = some f → t.flight (64 * core + k) = some (broughtBack f core)) ∧
  (∀ k, (∀ e ∈ m.flights, k ≠ 64 * core + e.1) → t.flight k = s.flight k) ∧
  (∀ k x, Tbl.find m.barriers k = some x → t.bar core k = x) ∧ (∀ k x, Tbl.find m.expans k = some x → Tbl.find t.expans (16 * core + k) = some x) ∧
  (∀ k x, Tbl.find m.atria k = some x → t.atrium core k = x) ∧
  Tbl.find t.tasks core = some ((Tbl.find s.tasks core).getD [] ++ m.tasks) ∧
  ((Tbl.find t.copies core).getD []).map (fun x => x.id) = ((Tbl.find s.copies core).getD [] ++ m.copies).map (fun x => x.id) ∧
  (∀ ln, Tbl.find t.launches la.word.toNat = some ln → ∀ w ∈ ln.wgs, w.wgid = m.wgid → w.core = core ∧ w.saved = false ∧ w.wins = wins) ∧
  (∀ x ∈ m.windows, ∀ at_, Tbl.find wins x.1 = some at_ → ∀ a, a < x.2.1 → Cells.get (t.scr core) (at_ + a) = Cells.get x.2.2 a) ∧
  (∀ k, k ≠ core → t.scr k = s.scr k) ∧ (∀ x ∈ t.gather, x.core ≠ core) ∧ (∀ d ∈ t.descs, d.core ≠ core) ∧ t.mem = s.mem ∧
  t.hostMem = s.hostMem

/-- The windows of a saved member are listed by the image, its bytes lie in them, and where they go they keep clear of one another. -/
def windowsApart (la : Launch) (m : SavedMember) (wins : Tbl Nat) : Prop :=
  (∀ x ∈ m.windows, (Tbl.find wins x.1).isSome = true ∧ (∃ w ∈ la.windows, w.num = x.1 ∧ w.space = x.2.1) ∧ Cells.wf x.2.2 = true ∧
    ∀ e ∈ x.2.2, e.1 < x.2.1) ∧
  m.windows.Pairwise (fun x y => ∀ p q, Tbl.find wins x.1 = some p → Tbl.find wins y.1 = some q → p + x.2.1 ≤ q ∨ q + y.2.1 ≤ p)

end Sys2Proof.Claims

/-- R205, R212, R257, R340, R342: a gang resumes where every member fits and its result slots are filled, and nowhere else. Each member is restored on its
core, which acquires and drops the descriptors it has cached; then a CANCEL that is over completes, what has nothing left retires, and instructions that wait for room in a command queue go
on. Where a gang resumes, and that its child groups stand behind those queued there, is the model's choice (log entries 36 and 52). -/
def Sys2Proof.Claims.resuming : Prop :=
  (∀ (launch : Word) (gang first : Nat) (s : State), Happens (.gangResume launch gang first) s (s.resume launch gang first)) ∧
  (∀ (launch : Word) (gang first : Nat) (s : State) (la : Launch) (img : SavedGang), Tbl.find s.launches launch.toNat = some la →
    s.saved.find? (fun g => decide (g.launch = launch) && decide (g.gang = gang)) = some img →
    ((la.gang = 0 ∨ first % la.gang ≠ 0 ∨ 128 < first + la.gang ∨ img.unfilled la = true ∨
      ∃ m ∈ img.members, s.memberFits la m (first + m.index) = none) → s.resume launch gang first = s) ∧
    (∀ places : List (SavedMember × Nat × Tbl Nat), la.gang ≠ 0 → first % la.gang = 0 → first + la.gang ≤ 128 → img.unfilled la = false →
      places.map (fun p => p.1) = img.members →
      (∀ p ∈ places, p.2.1 = first + p.1.index ∧ s.memberFits la p.1 p.2.1 = some p.2.2) →
        let s1 := { s with saved := s.saved.filter (fun x => decide (x ≠ img)) }
        let s2 := places.foldl (fun s p => s.restoreMember la p.1 p.2.1 p.2.2 places) s1
        let live := ((Tbl.find s2.launches launch.toNat).map (fun la => la.cancels)).getD []
        let keys := places.flatMap (fun p => p.1.flights.map (fun e => 64 * p.2.1 + e.1))
        let s3 := (keys.foldl (fun s k => (s.modFlight k (fun f => f.cancelOver live)).retireIf k) s2).tidyLaunch launch
        s.resume launch gang first = s3.ctxs.foldl (fun s e => s.feedWaiters e.1) s3)) ∧
  (∀ (s : State) (la : Launch) (m : SavedMember) (core : Nat) (wins : Tbl Nat) (peers : List (SavedMember × Nat × Tbl Nat)),
    Tbl.sorted m.flights = true → Tbl.sorted m.barriers = true → Tbl.sorted m.expans = true → Tbl.sorted m.atria = true →
    (∀ e ∈ m.barriers, e.1 < 64) → (∀ e ∈ m.atria, e.1 < 4) → Claims.windowsApart la m wins →
      Claims.restoredOn s (s.restoreMember la m core wins peers) la m core wins)

/-- Saving a gang, writing its image, and resuming it. -/
def Obligations.preemption : Prop := Claims.saving ∧ Claims.image_written ∧ Claims.resuming

/-- R28 to R31, R349: the reflex window opens, a boundary passes and the window closes when they are due; a boundary starts the reflex launch whose
packet stood at the head of queue 0 a microsecond before and which fits, and no other; that a launch retires with its last gang (log entry 54), that
a packet stands at the head from its fetch on and that each boundary counts one overrun (log entry 39) is the model's choice; the power cap keeps the matrix units
outside the reserve halls busy and leaves the others alone. -/
def Obligations.reflex_and_power : Prop :=
  (∀ s : State, s.windowDue = true →
    let s1 := (s.lowerGangs ((List.range 128).filter (fun c => s.inReserve c)) 0).foldl (fun s g => s.preempt g.1 g.2) s
    Happens .reflexWindowOpen s { s1 with reflex := { s1.reflex with windowOpen := true, openedAt := s1.time } }) ∧
  (∀ s : State, s.reserveStands = true → s.reflex.lastBoundary < s.reflex.reached s.time → s.reflexRuns = false →
    (∀ w, (s.queue 0).waiting = some w → s.reflex.at_ (s.reflex.reached s.time) < w.since + 1000) →
    Happens .reflexBoundary s { s with reflex := { s.reflex with lastBoundary := s.reflex.reached s.time, windowOpen := true, running := none } }) ∧
  (∀ (s : State) (w : Waiting) (la : Launch) (s2 : State) (sps : List Spot), s.reserveStands = true →
    s.reflex.lastBoundary < s.reflex.reached s.time → s.reflexRuns = false → (s.queue 0).waiting = some w →
    w.since + 1000 ≤ s.reflex.at_ (s.reflex.reached s.time) → w.launch.cls = 0 → (Tbl.find s.launches w.launch.word.toNat).isSome = false →
    ({ s with reflex := { s.reflex with lastBoundary := s.reflex.reached s.time, windowOpen := true } } : State).prepare w = (.ok la, s2) →
    s2.spots la = some sps →
      let t := (s2.startLaunch la w.fence sps).launchGone 0 true
      (t.queue 0).active.any (fun a => decide (a.cond = .launch w.launch.word)) = true →
        Happens .reflexBoundary s { t with reflex := { t.reflex with running := some w.launch.word } }) ∧
  (∀ (s : State) (w : Word), s.reserveStands = true → s.reflex.lastBoundary < s.reflex.reached s.time → s.reflexRuns = true →
    s.reflex.running = some w → s.hole = false →
      ∃ t, exec .reflexBoundary s = .next t ∧ t.reflex.overruns = s.reflex.overruns + 1 ∧
        ∀ la, Tbl.find s.launches w.toNat = some la → Tbl.find t.launches w.toNat = some { la with overrun := true }) ∧
  (∀ s : State, s.closeDue = true →
    exec .reflexWindowClose s = .next { s with reflex := { s.reflex with windowOpen := false, running := none } }) ∧
  (∀ (n : Nat) (s : State), ∃ t, exec (.powerCapWithhold n) s = .next t ∧ { t with matBusy := s.matBusy } = s ∧
    ∀ k, k < 512 → (Tbl.find t.matBusy k).getD 0 =
      if s.reflex.halls.getLsbD (k / 16) = true then (Tbl.find s.matBusy k).getD 0 else max ((Tbl.find s.matBusy k).getD 0) (s.cycle + n))

namespace Sys2Proof.Claims

/-- An aligned address of device memory that was checked. -/
def deviceWord (a : LaneAddr) : Prop := a.host = false ∧ a.pa % 4 = 0

/-- R291, R292: one unit of work of a command of a chain (log entries 17 and 33: one unit a step, and the commands of a context one after the
other). A block of a FILL holds the fill word. A block of a COPY, here with no word owned by a core, holds the words of its source, and no
other byte of memory changes. -/
def chainBlocks : Prop :=
  (∀ (ctx num : Nat) (s : State) (c : Command) (ws : List Word) (d : Desc), s.workable ctx num = some c → c.kind = .chain ws → descOf ws = some d →
    let t := s.unlessHeld (s.chainWork ctx c d)
    (d.op = 1 → Happens (.copyCmd ctx num) s t) ∧ (d.op = 2 → Happens (.fillCmd ctx num) s t) ∧
    (d.op = 3 → Happens (.reduceCopyCmd ctx num) s t) ∧ (d.op = 4 → Happens (.nopCmd ctx num) s t) ∧
    (d.op = 4 → s.chainWork ctx c d = s.modCmd ctx c.num (fun x => { x with started := true, finished := true }))) ∧
  (∀ (s : State) (cx : Nat) (c : Command) (d : Desc) (bs : List LaneAddr) (s1 : State), d.op = 2 → c.started = true →
    s.engRun (s.cmdCtx cx c) d.dst ((d.doff + c.pos : Nat) : Int) (min (d.len - c.pos) (128 - (d.doff + c.pos) % 128)) 4 .write = (.ok bs, s1) →
    c.pos + min (d.len - c.pos) (128 - (d.doff + c.pos) % 128) < d.len → c.finished = false → s1.combining = [] → s1.l1 = [] →
    (∀ a ∈ bs, deviceWord a) → bs.Pairwise (fun x y => x.pa ≠ y.pa) →
      let t := s.chainWork cx c d
      (∀ a ∈ bs, wordAt t.mem a.pa = d.fill) ∧
      (∀ x, (∀ a ∈ bs, x < a.pa ∨ a.pa + 4 ≤ x) → Cells.get t.mem x = Cells.get s1.mem x) ∧
      t.ctxs = (s1.modCmd cx c.num (fun x =>
        { x with started := true, pos := c.pos + min (d.len - c.pos) (128 - (d.doff + c.pos) % 128) })).ctxs) ∧
  (∀ (s : State) (cx : Nat) (c : Command) (d : Desc) (as bs : List LaneAddr) (s1 s2 : State), d.op = 1 → c.started = true →
    s.engRun (s.cmdCtx cx c) d.src ((d.soff + c.pos : Nat) : Int) (min (d.len - c.pos) (128 - (d.doff + c.pos) % 128)) 4 .read = (.ok as, s1) →
    s1.engRun (s.cmdCtx cx c) d.dst ((d.doff + c.pos : Nat) : Int) (min (d.len - c.pos) (128 - (d.doff + c.pos) % 128)) 4 .write = (.ok bs, s2) →
    as.length = bs.length → s2.combining = [] → s2.l1 = [] → (∀ a ∈ as, deviceWord a) → (∀ a ∈ bs, deviceWord a) →
    bs.Pairwise (fun x y => x.pa ≠ y.pa) →
      let t := s.chainWork cx c d
      (∀ (k : Nat) (x y : LaneAddr), as[k]? = some x → bs[k]? = some y → wordAt t.mem y.pa = wordAt s2.mem x.pa) ∧
      (∀ x, (∀ a ∈ bs, x < a.pa ∨ a.pa + 4 ≤ x) → Cells.get t.mem x = Cells.get s2.mem x))

/-- R278, R292: the words that a REDUCE-COPY sends to one block of device memory, where no core owns a word: with no entry for the block and none
free in the hall they are combined with their destination at once, and counted; with a free entry they wait there; a standing entry of the
operation combines them; and an entry that departs combines its words with those at the home. An entry combines one operation, and departs when
nothing more is awaited (log entry 35). -/
def reductions : Prop :=
  (∀ (s : State) (cx : Nat) (c : Command) (d : Desc) (as bs : List LaneAddr) (s1 s2 : State), d.op = 3 → c.started = true → c.finished = false →
    c.pos + d.chunk c.pos < d.len →
    s.engRun (s.cmdCtx cx c) d.src ((d.soff + c.pos : Nat) : Int) (d.chunk c.pos) 4 .read = (.ok as, s1) →
    s1.engRun (s.cmdCtx cx c) d.dst ((d.doff + c.pos : Nat) : Int) (d.chunk c.pos) 4 .write = (.ok bs, s2) → s2.errors = [] → s2.l1 = [] →
    (∀ a ∈ as, deviceWord a) → (∀ a ∈ bs, deviceWord a) → (∀ a ∈ as, a.pa + 4 ≤ Config.deviceBytes) →
      s.chainWork cx c d = ((s2.contribute (s2.cmdHall c) cx c.num d.rop (bs.zip (as.map (fun a => wordAt s2.mem a.pa)))).modCmd cx c.num
        (fun x => { x with started := true, pos := c.pos + d.chunk c.pos })).combSettle) ∧
  (∀ (s : State) (hall cx num block : Nat) (op : RedOp) (ws : List (LaneAddr × Word)), ws ≠ [] → s.l1 = [] →
    (∀ x ∈ ws, deviceWord x.1 ∧ x.1.pa / 128 = block) → ws.Pairwise (fun x y => x.1.pa ≠ y.1.pa) →
    let t := s.contribute hall cx num op ws
    ((∀ e ∈ s.combining, ¬ (e.hall = hall ∧ e.block = block)) → 16 ≤ (s.combining.filter (fun e => decide (e.hall = hall))).length →
      (∀ x ∈ ws, wordAt t.mem x.1.pa = redStep op (wordAt s.mem x.1.pa) x.2) ∧
      (∀ a, (∀ x ∈ ws, a < x.1.pa ∨ x.1.pa + 4 ≤ a) → Cells.get t.mem a = Cells.get s.mem a) ∧
      t.combining = s.combining ∧ t.telemetry = { s.telemetry with uncombined := countUp s.telemetry.uncombined hall }) ∧
    ((∀ e ∈ s.combining, ¬ (e.hall = hall ∧ e.block = block)) → (s.combining.filter (fun e => decide (e.hall = hall))).length < 16 →
      ∃ e : CombEntry, t = { s with combining := s.combining ++ [e] } ∧ e.hall = hall ∧ e.block = block ∧ e.op = op ∧ e.from_ = [(cx, num)] ∧
        (∀ w, w < 32 → (e.got.getLsbD w = true ↔ ∃ x ∈ ws, x.1.pa % 128 / 4 = w)) ∧
        ∀ x ∈ ws, Cells.get e.words (x.1.pa % 128 / 4) = x.2) ∧
    (∀ e, s.combining = [e] → e.hall = hall → e.block = block → e.op = op →
      ∃ e', t = { s with combining := [e'] } ∧ e'.hall = hall ∧ e'.block = block ∧ e'.op = op ∧ (cx, num) ∈ e'.from_ ∧
        ∀ x ∈ ws, Cells.get e'.words (x.1.pa % 128 / 4) =
          if e.got.getLsbD (x.1.pa % 128 / 4) then redStep op (Cells.get e.words (x.1.pa % 128 / 4)) x.2 else x.2)) ∧
  (∀ (s : State) (e : CombEntry), s.l1 = [] → s.errors = [] →
    let t := s.combDepart e
    e ∉ t.combining ∧
    (∀ w, w < 32 → e.got.getLsbD w = true →
      wordAt t.mem (128 * e.block + 4 * w) = redStep e.op (wordAt s.mem (128 * e.block + 4 * w)) (Cells.get e.words w)) ∧
    (∀ a, (∀ w, w < 32 → e.got.getLsbD w = true → a < 128 * e.block + 4 * w ∨ 128 * e.block + 4 * w + 4 ≤ a) →
      Cells.get t.mem a = Cells.get s.mem a)) ∧
  (∀ s : State, (∀ e ∈ s.combining, s.awaited e = true) → s.combSettle = s)

/-- The box of octant k of a node: its edge is half the node's, and on each axis whose bit of k is set it starts that much higher (R295). -/
def octantBox (fr : WalkFrame) (k : Nat) : List Word × List Word × Word :=
  let h := fMul fr.edge fHalf
  let lo := ((List.range 3).zip fr.lo).map (fun e => if k / 2 ^ e.1 % 2 = 1 then fAdd e.2 h else e.2)
  (lo, lo.map (fun x => fAdd x h), h)

/-- R295: the overlap test. A sphere: the sum of the squares of its distances from the box on the axes, against the square of its radius. A capsule:
the sphere round the point of its axis that lies nearest the centre of the box. -/
def overlapTests : Prop :=
  let away (x lo hi : Word) : Word := if fLt x lo then fSub lo x else if fLt hi x then fSub x hi else 0
  (∀ (q0 q1 q2 r l0 l1 l2 u0 u1 u2 : Word),
    let e0 := away q0 l0 u0
    let e1 := away q1 l1 u1
    let e2 := away q2 l2 u2
    sphereHits [q0, q1, q2] r [l0, l1, l2] [u0, u1, u2] =
      fLe (fAdd (fAdd (fMul e0 e0) (fMul e1 e1)) (fMul e2 e2)) (fMul r r)) ∧
  (∀ (p0 p1 p2 q0 q1 q2 r l0 l1 l2 h : Word) (hi : List Word),
    let u0 := fSub q0 p0
    let u1 := fSub q1 p1
    let u2 := fSub q2 p2
    let w0 := fSub (fAdd l0 (fMul h fHalf)) p0
    let w1 := fSub (fAdd l1 (fMul h fHalf)) p1
    let w2 := fSub (fAdd l2 (fMul h fHalf)) p2
    let uu := fAdd (fAdd (fMul u0 u0) (fMul u1 u1)) (fMul u2 u2)
    let wu := fAdd (fAdd (fMul w0 u0) (fMul w1 u1)) (fMul w2 u2)
    let t := if fcmpHolds .eq (Fp.ofWord uu) (Fp.ofWord 0) then 0 else clampUnit (fDiv wu uu)
    capsuleHits [p0, p1, p2] [q0, q1, q2] r [l0, l1, l2] hi h =
      sphereHits [fAdd p0 (fMul t u0), fAdd p1 (fMul t u1), fAdd p2 (fMul t u2)] r [l0, l1, l2] hi) ∧
  (∀ (qw lo hi : List Word) (h : Word), queryHits qw lo hi h =
    if (qw.getD 0 0).getLsbD 0 then capsuleHits (vec3 qw 8) (vec3 qw 11) (qw.getD 14 0) lo hi h
    else sphereHits (vec3 qw 8) (qw.getD 14 0) lo hi)

/-- R294 to R296, R302: the steps of a collision query. A record that breaks its layout ends it with status 3 (log entry 34). An empty octant, and one
that the shape does not overlap, is passed over; a full or unknown one that it overlaps is a hit; a mixed one is descended into; a node whose
octants are done gives way to its parent, and the root then ends the query as clear. A cancelled query has its status to write. That a mixed octant
at level 0 is an error as its node is read, before any octant of it is looked at, is the model's choice (log entry 91). -/
def queries : Prop :=
  overlapTests ∧
  (∀ (ctx num : Nat) (s : State) (c : Command) (qw : List Word) (seen : List LaneAddr), s.workable ctx num = some c → c.kind = .query qw seen →
    (c.cancelled = true → Happens (.collisionQuery ctx num) s
      (s.unlessHeld (s.cmdEnd ctx c [2, 0, c.version, BitVec.ofNat 32 c.visited]))) ∧
    (c.cancelled = false →
      (c.walk = [] → queryOk qw = false → Happens (.collisionQuery ctx num) s (s.unlessHeld (s.queryEnd ctx c 3 0 0 0))) ∧
      (c.walk = [] → queryOk qw = true → Happens (.collisionQuery ctx num) s
        (s.unlessHeld (s.queryNode ctx c qw (qw.getD 2 0).toNat (qw.getD 3 0).toNat (vec3 qw 4) (qw.getD 7 0)))) ∧
      (∀ fr, c.walk = [fr] → 8 ≤ fr.octant → Happens (.collisionQuery ctx num) s (s.unlessHeld (s.queryEnd ctx c 0 0 0 0))) ∧
      (∀ fr, c.walk.getLast? = some fr → 2 ≤ c.walk.length → 8 ≤ fr.octant →
        Happens (.collisionQuery ctx num) s (s.modCmd ctx num (fun x => { x with walk := x.walk.dropLast }))) ∧
      (∀ fr, c.walk.getLast? = some fr → fr.octant < 8 →
        let k := fr.octant
        let box := octantBox fr k
        let overlaps := queryHits qw box.1 box.2.1 box.2.2
        let on := c.walk.dropLast ++ [{ fr with octant := k + 1 }]
        (octState fr.occ k = 0 ∨ overlaps = false →
          Happens (.collisionQuery ctx num) s (s.modCmd ctx num (fun x => { x with walk := on }))) ∧
        ((octState fr.occ k = 1 ∨ octState fr.occ k = 3) → overlaps = true →
          Happens (.collisionQuery ctx num) s (s.unlessHeld (s.queryEnd ctx c 1 (c.walk.length - 1) k fr.node))) ∧
        (octState fr.occ k = 2 → overlaps = true →
          Happens (.collisionQuery ctx num) s (s.unlessHeld (s.queryNode ctx { c with walk := on } qw
            (fr.base.toNat + ((List.range k).filter (fun j => decide (octState fr.occ j = 2))).length) (fr.level - 1) box.1 box.2.2)))))) ∧
  (∀ (s : State) (cx : Nat) (c : Command) (qw : List Word) (node level : Nat) (lo : List Word) (edge : Word) (as : List LaneAddr) (s1 : State),
    s.engRun (s.cmdCtx cx c) ((qw.getD 1 0).toNat % 1024) ((16 * node : Nat) : Int) 16 16 .read = (.ok as, s1) →
    let v := s1.runRead as
    let w (i : Nat) : Word := v.1.getD i 0
    let c1 : Command := { c with started := true, visited := c.visited + 1, version := if c.visited = 0 then w 2 else c.version }
    let bad : Prop := (w 0).toNat / 2 ^ 24 ≠ 0 ∨ w 3 ≠ 0 ∨ (w 0).toNat / 2 ^ 16 % 256 ≠ level ∨ (level = 0 ∧ ∃ k, k < 8 ∧ octState (w 0) k = 2)
    (bad → s.queryNode cx c qw node level lo edge = v.2.queryEnd cx c1 3 0 0 0) ∧
    (¬ bad → s.queryNode cx c qw node level lo edge = v.2.modCmd cx c.num (fun x =>
      { x with
        started := true, visited := c1.visited, version := c1.version,
        walk := c.walk ++ [{ node := node, level := level, lo := lo, edge := edge, occ := w 0, base := w 1, octant := 0 }] }))) ∧
  (∀ (s : State) (cx : Nat) (c : Command) (status depth octant node : Nat) (as : List LaneAddr) (s1 : State), status < 4 → octant < 8 → depth < 256 →
    s.againAll c.statusAt .write = (.ok as, s1) →
      s.queryEnd cx c status depth octant node =
        (s1.runWrite as [BitVec.ofNat 32 (status + 256 * octant + 65536 * depth), BitVec.ofNat 32 node, c.version,
          BitVec.ofNat 32 c.visited]).modCmd cx c.num (fun x => { x with started := true, finished := true }))

/-- R297, R298, R302: the steps of a dynamics step. All bodies are looked at before the first is stepped; the last one ends the command with status 1
and the count; a body that breaks its layout ends it with status 3 and nothing stepped (log entry 34: the same of a record that does). A cancelled
step has its status to write. -/
def dynamics : Prop :=
  ∀ (ctx num : Nat) (s : State) (c : Command) (sw : List Word) (seen : List LaneAddr), s.workable ctx num = some c → c.kind = .dyn sw seen →
    (c.cancelled = true → Happens (.dynamicsStep ctx num) s (s.unlessHeld (s.cmdEnd ctx c [2, BitVec.ofNat 32 c.pos]))) ∧
    (c.cancelled = false →
      (c.started = false → stepOk sw = false → Happens (.dynamicsStep ctx num) s (s.unlessHeld (s.stepEnd ctx c 3 0))) ∧
      (∀ s1, c.started = false → stepOk sw = true → s.stepProbe (s.cmdCtx ctx c) sw = (.ok true, s1) →
        Happens (.dynamicsStep ctx num) s (s.unlessHeld (s1.modCmd ctx c.num (fun x => { x with started := true })))) ∧
      (∀ s1, c.started = false → stepOk sw = true → s.stepProbe (s.cmdCtx ctx c) sw = (.ok false, s1) →
        Happens (.dynamicsStep ctx num) s (s.unlessHeld (s1.stepEnd ctx c 3 0))) ∧
      (c.started = true → (sw.getD 3 0).toNat ≤ c.pos → Happens (.dynamicsStep ctx num) s (s.unlessHeld (s.stepEnd ctx c 1 c.pos))) ∧
      (∀ as body comp s1, c.started = true → c.pos < (sw.getD 3 0).toNat →
        s.stepRead (s.cmdCtx ctx c) sw ((sw.getD 2 0).toNat + c.pos) = (.ok (as, body, comp), s1) →
          let s2 := (stepBody body comp (sw.getD 4 0) (vec3 sw 5)).elim s1 (fun ws => s1.runWrite as ws)
          let s3 := s2.modCmd ctx c.num (fun x => { x with pos := c.pos + 1 })
          (c.pos + 1 < (sw.getD 3 0).toNat → Happens (.dynamicsStep ctx num) s (s.unlessHeld s3)) ∧
          (c.pos + 1 = (sw.getD 3 0).toNat → Happens (.dynamicsStep ctx num) s (s.unlessHeld (s3.stepEnd ctx c 1 (c.pos + 1))))))

/-- R224, R227, R268, R313: a page of a restripe is handed over after every earlier restripe of it; the first finished command of a context
completes when no combining entry holds words of it, and the timeline becomes its number. -/
def restripesEnd : Prop :=
  (∀ (ctx num : Nat) (s : State) (c : Command) (va pages size : Nat) (place : Word) (e : TlbEntry), s.workable ctx num = some c →
    c.kind = .restripe va pages size place → walkFrom s ctx (va + size * c.pos) 4 0 (s.ctx ctx).root = .leaf e → e.size = size →
    (s.restripedBefore c.order e = true → exec (.restripeHandover ctx num) s = .next s) ∧
    (s.restripedBefore c.order e = false →
      Happens (.restripeHandover ctx num) s ((s.handoverPage e place).modCmd ctx num (fun x =>
        { x with started := true, pos := c.pos + 1, finished := decide (pages ≤ c.pos + 1) })))) ∧
  (∀ (ctx : Nat) (s : State) (c : Command) (cs : List Command), (s.ctx ctx).cmds = c :: cs → c.finished = true →
    let s1 := s.unlessHeld s.combSettle
    (s1.combining.any (fun e => e.from_.contains (ctx, c.num)) = true → Happens (.engineCommandCompletion ctx) s s1) ∧
    (s1.combining.any (fun e => e.from_.contains (ctx, c.num)) = false → Happens (.engineCommandCompletion ctx) s
      (((s1.modCtx ctx (fun x => { x with timeline := c.num, cmds := x.cmds.drop 1 })).feedWaiters ctx).cancelAdvance)))

end Sys2Proof.Claims

/-- R224, R227, R278, R290 to R298: an engine works on the command that is next: one block of a COPY, FILL or REDUCE-COPY, a NOP at once, one node
or octant of a collision query, one body of a dynamics step, one page of a restripe; the first finished command of a context completes and the
timeline becomes its number. One unit of work a step, one command of a context after the other, status 3 of a malformed record, and when
combining entries depart are the model's choices (log entries 17, 33, 34, 35). -/
def Obligations.engine_work : Prop :=
  Claims.chainBlocks ∧ Claims.reductions ∧ Claims.queries ∧ Claims.dynamics ∧ Claims.restripesEnd

/-- R180, R189, R223, R252, R270: an eviction writes a block's dirty bytes to memory and leaves no block with its tag, unless a priority attempt has
reserved a word that it would change; the dirty words of a block of private words go to the flight's private memory. That such blocks are numbered
after the core's global ones, flight by flight, is the model's choice (log entry 19); a dropped translation leaves its hotness in its shadow byte; a reservation lapses after 4,096 cycles; a fine region without
a recall for 4,096 cycles is coarse again and nobody's. -/
def Obligations.cache_events : Prop :=
  (∀ (core n : Nat) (s : State) (x : L1Block), (s.l1.filter (fun y => decide (y.core = core)))[n]? = some x → s.reserved = [] →
    ∃ t, exec (.l1Eviction core n) s = .next t ∧ t.flights = s.flights ∧ t.hostMem = s.hostMem ∧
      (∀ y ∈ t.l1, ¬ (y.core = x.core ∧ y.asid = x.asid ∧ y.block = x.block)) ∧
      (∀ i, i < 128 → x.dirty.getLsbD i = true → Cells.get t.mem (x.page + i) = x.data.extractLsb' (8 * i) 8) ∧
      (∀ i, i < 128 → x.dirty.getLsbD i = false → Cells.get t.mem (x.page + i) = Cells.get s.mem (x.page + i)) ∧
      (∀ a, (a < x.page ∨ x.page + 128 ≤ a) → Cells.get t.mem a = Cells.get s.mem a)) ∧
  (∀ (core n : Nat) (s : State) (x : L1Block) (r : Reservation), (s.l1.filter (fun y => decide (y.core = core)))[n]? = some x → r ∈ s.reserved →
    (∃ i, i < 128 ∧ r.pa = x.page + i ∧ i % 4 = 0 ∧ x.dirty.getLsbD i = true ∧ Cells.get s.mem r.pa ≠ x.data.extractLsb' (8 * i) 8) →
      exec (.l1Eviction core n) s = .next s) ∧
  (∀ (core n i key : Nat) (s : State) (f : Flight) (b : PrivBlock) (pre post : Tbl Flight), key / 64 = core →
    s.flights = pre ++ (key, f) :: post → Tbl.sorted s.flights = true → f.pblocks[i]? = some b →
    n = (s.l1.filter (fun y => decide (y.core = core))).length +
      ((pre.filter (fun e => decide (e.1 / 64 = core))).map (fun e => e.2.pblocks.length)).sum + i →
      ∃ t g, exec (.l1Eviction core n) s = .next t ∧ t.flight key = some g ∧ g.pblocks = f.pblocks.eraseIdx i ∧ t.mem = s.mem ∧ t.l1 = s.l1 ∧
        (∀ l, l < 32 → Cells.get g.privs (32 * b.index + l) = if b.dirty.getLsbD l then Cells.get b.words l else Cells.get f.privs (32 * b.index + l)) ∧
        (∀ k, k / 32 ≠ b.index → Cells.get g.privs k = Cells.get f.privs k) ∧ (∀ k, k ≠ key → t.flight k = s.flight k)) ∧
  (∀ (n : Nat) (s : State) (e : TlbEntry), s.tlb[n]? = some e →
    ∃ t, exec (.translationEviction n) s = .next t ∧ e ∉ t.tlb ∧ Cells.get t.mem (e.leaf + 12) = BitVec.ofNat 8 e.hot ∧
      ∀ a, a ≠ e.leaf + 12 → Cells.get t.mem a = Cells.get s.mem a) ∧
  (∀ (pa : Nat) (s : State), ∃ t, exec (.priorityReservationExpiry pa) s = .next t ∧ { t with reserved := s.reserved } = s ∧
    ∀ r, r ∈ t.reserved ↔ r ∈ s.reserved ∧ (r.pa = pa → s.cycle < r.cycle + 4096)) ∧
  (∀ (k : Nat) (s : State) (d : DirEntry), Tbl.find s.dir k = some d → d.fine = true → d.lastRecall + 4096 ≤ s.cycle →
    ∃ t, exec (.regionMerge k) s = .next t ∧ Tbl.find t.dir k = some { d with holder := none, fine := false } ∧ t.flights = s.flights ∧
      t.telemetry = { s.telemetry with merges := countUp s.telemetry.merges (k % 64) } ∧
      (∀ b ∈ t.l1, ∀ w, w < 32 → b.owned.getLsbD w = true → regionKey s (b.page + 4 * w) ≠ k))

namespace Sys2Proof.Claims

/-- A packet that its queue holds and that may start now, once completed packets are taken off (R311, R313), has the effect t. -/
def Serves (i : Instr) (h : PktHdr) (s t : State) : Prop := s.prune.mayServe h.q i = true → Happens i s t

end Sys2Proof.Claims

/-- R310 to R315: what each packet does once its class lets it start. That descriptors, a SIGNAL's address or a context that cannot be reached
halt the queue with code 5, that FENCE's acquire acts on every core, and how buffers of INDIRECT nest, are the model's reading (log entry 31). -/
def Obligations.packets : Prop :=
  ∀ (h : PktHdr) (s : State),
    let p := s.prune
    (let i := Instr.nopPkt h
     Serves i h s (p.served h.q i .now)) ∧
    (let i := Instr.stopPkt h
     Serves i h s ((p.served h.q i .now).haltQueue h.q 0)) ∧
    (∀ ctx value, let i := Instr.waitTimelinePkt h ctx value
      Serves i h s (p.served h.q i (.timeline ctx.toNat value.toNat))) ∧
    (∀ ctx irq vector va value, let i := Instr.signalPkt h ctx irq vector va value
      ((p.ctx ctx.toNat).valid = false → Serves i h s (p.badPkt h.q i 5)) ∧
      (∀ s1, (p.ctx ctx.toNat).valid = true →
        p.ctxWrite ctx.toNat va.toNat [BitVec.ofNat 32 value.toNat, BitVec.ofNat 32 (value.toNat / 2 ^ 32)] = some s1 →
          Serves i h s (State.served { s1 with irqs := if irq then s1.irqs ++ [vector.toNat] else s1.irqs } h.q i .now))) ∧
    (let i := Instr.fencePkt h
     Serves i h s ((if h.fence.getLsbD 0 then (List.range 128).foldl (fun s c => s.acquire c) p else p).served h.q i .now)) ∧
    (∀ ctx pages va place, let i := Instr.restripePkt h ctx pages va place
      (p.restripeSize ctx.toNat va.toNat pages.toNat place = none → Serves i h s (p.badPkt h.q i 5)) ∧
      (∀ n, p.restripeSize ctx.toNat va.toNat pages.toNat place = some n →
        let r := p.accept ctx.toNat none 0 0 (.restripe va.toNat pages.toNat n place)
        r.1 = (p.ctx ctx.toNat).tail + 1 ∧ Serves i h s (r.2.served h.q i (.timeline ctx.toNat r.1)))) ∧
    (∀ body, let i := Instr.launchPkt h body
      let word := BitVec.ofNat 32 (h.q * 2 ^ 27 + ((p.queue h.q).launches - 1) % 2 ^ 27)
      (p.recordOk body = false → Serves i h s (p.badPkt h.q i 7)) ∧
      (∀ w s1, p.recordOk body = true → p.judge word h.q h.fence body = (.ok w, s1) →
        let s2 := s1.served h.q i (.launch word)
        Serves i h s (s2.setQueue h.q { s2.queue h.q with waiting := some { w with since := (p.queue h.q).heldAt } })) ∧
      (∀ r s1, p.recordOk body = true → p.judge word h.q h.fence body = (.error r, s1) →
        Serves i h s ((s1.refuseLaunch word (((bodyCtxs body).headD none).getD 0) body.record.toNat
          (if body.flags.getLsbD 2 = true ∧ body.vector.toNat ≤ 31 then some body.vector.toNat else none) r).served h.q i .now))) ∧
    (∀ ctx count va, let i := Instr.chainPkt h ctx count va
      ((p.ctx ctx.toNat).valid = false ∨ va.toNat % 64 ≠ 0 → Serves i h s (p.badPkt h.q i 5)) ∧
      (∀ s1, (p.ctx ctx.toNat).valid = true → va.toNat % 64 = 0 → p.ctxRead ctx.toNat va.toNat (16 * count.toNat) = (none, s1) →
        Serves i h s (s1.badPkt h.q i 5)) ∧
      (∀ ws s1, (p.ctx ctx.toNat).valid = true → va.toNat % 64 = 0 → p.ctxRead ctx.toNat va.toNat (16 * count.toNat) = (some ws, s1) →
        let r := (entries 16 ws count.toNat).foldl (fun (a : Nat × State) d => a.2.accept ctx.toNat none 0 0 (.chain d)) (0, s1)
        Serves i h s (r.2.served h.q i (.timeline ctx.toNat r.1)))) ∧
    (∀ ctx count va, let i := Instr.indirectPkt h ctx count va
      let x := p.queue h.q
      let again := x.indirect.any (fun y => decide (y.ctx = ctx.toNat) && decide (y.va ≤ va.toNat) && decide (va.toNat < y.va + 256 * y.count))
      (5 ≤ x.indirect.length ∨ again = true → Serves i h s (p.badPkt h.q i 4)) ∧
      (x.indirect.length < 5 → again = false →
        let s1 := p.served h.q i .indirect
        Serves i h s (s1.setQueue h.q { s1.queue h.q with indirect := (s1.queue h.q).indirect ++
          [{ ctx := ctx.toNat, va := va.toNat, count := count.toNat, next := 0, pkt := x.nextId, last := none }] }))) ∧
    (∀ launch deadline, let i := Instr.setDeadlinePkt h launch deadline
      Serves i h s ((p.modLaunch launch.toNat (fun la =>
        if la.clearing then { la with dlWrites := la.dlWrites ++ [(deadline.toNat, false)] } else { la with deadline := deadline.toNat })).served
          h.q i .now)) ∧
    (∀ ctx valid root hbase tbase pbase, let i := Instr.contextPkt h ctx valid root hbase tbase pbase
      let s1 := p.dropTlb (fun e => decide (e.ctx = ctx.toNat))
      let e : EngineCtx := { valid := valid, root := root.toNat, hbase := hbase.toNat, tbase := tbase.toNat, pbase := pbase.toNat,
                             timeline := if valid then 0 else (p.ctx ctx.toNat).timeline,
                             tail := if valid then 0 else (p.ctx ctx.toNat).tail, cmds := [] }
      Serves i h s (State.served { s1 with descs := s1.descs.filter (fun d => decide (d.ctx ≠ ctx.toNat)), ctxs := Tbl.put s1.ctxs ctx.toNat e }
        h.q i .now))

/-- R306 to R309, R313: the queue registers and the fetch of slots. The trailer of the next slot of the ring is read first; the slot is taken when
it lies below the producer count and its trailer carries the lap, and stays when it does not; a slot that cannot be read halts the queue with code 6;
a round of the firmware core begins with the fetch of the ready slots, serves one type and holds the others a round longer. A slot counts as
consumed when it is fetched, and a LAUNCH takes its number then; and the doorbell of a queue that closes reads 0 afterwards: both are the model's
readings (log entry 31). -/
def Obligations.queues : Prop :=
  (∀ (q : Nat) (s : State) (x : Queue), s.queue q = x → x.opened = true → x.halt = false →
    s.security.halted = false → x.held = none → x.waiting = none → x.indirect = [] → x.consumed < x.doorbell →
    let at_ := x.base + 256 * (x.consumed % 2 ^ x.n)
    (∀ s1, s.ringWords x (at_ + 252) 1 = (none, s1) →
      Happens (.slotFetch q) s ((s1.setQueue q { x with consumed := x.consumed + 1 }).haltQueue q 6)) ∧
    (∀ t s1, s.ringWords x (at_ + 252) 1 = (some [t], s1) → t.toNat / 2 ^ 24 ≠ (x.consumed / 2 ^ x.n + 1) % 256 →
      exec (.slotFetch q) s = .next (s1.setQueue q x)) ∧
    (∀ t s1 ws s2, s.ringWords x (at_ + 252) 1 = (some [t], s1) → t.toNat / 2 ^ 24 = (x.consumed / 2 ^ x.n + 1) % 256 →
      s1.ringWords x at_ 64 = (some ws, s2) →
      let y := { x with
        consumed := x.consumed + 1, heldAt := s2.time,
        launches := if (ws.getD 63 0).toNat % 256 = 6 then x.launches + 1 else x.launches }
      (∀ i, decodeSlot q ws = .ok i → Happens (.slotFetch q) s (s2.setQueue q { y with held := some i, age := 0 })) ∧
      (∀ e, decodeSlot q ws = .error e → Happens (.slotFetch q) s ((s2.setQueue q y).haltQueue q e)))) ∧
  (∀ s : State, s.fetchAll.prune.holding ≠ [] →
    let p := s.fetchAll.prune
    let r := p.servedRank p.holding
    Happens .firmwareCoreRound s (p.holding.foldl (fun t h =>
      if pktRank h.2 = r then (if t.mayServe h.1 h.2 then t.serve h.2 else t)
      else t.setQueue h.1 { t.queue h.1 with age := (t.queue h.1).age + 1 }) { p with round := p.round + 1 })) ∧
  (∀ s : State, s.fetchAll = (List.range 32).foldl (fun t q => match exec (.slotFetch q) t with
    | .next u => u
    | _ => t) s) ∧
  (∀ (q : Nat) (v : BitVec 64) (s : State), q < 32 → 3 ≤ s.security.booted → s.security.halted = false →
    exec (.doorbell q v) s = .next (if (s.queue q).doorbell ≤ v.toNat then s.setQueue q { s.queue q with doorbell := v.toNat } else s)) ∧
  (∀ (q : Nat) (s : State), q < 32 → 3 ≤ s.security.booted → s.security.halted = false → (s.queue q).en = false →
    (4 ≤ (s.queue q).n → (s.queue q).n ≤ 12 →
      exec (.queueOpen q) s = .next (s.setQueue q (if s.acceptedW then
        { s.queue q with en := true, opened := true, consumed := 0, launches := 0, held := none, age := 0, indirect := [] }
        else { s.queue q with en := true }))) ∧
    (¬ (4 ≤ (s.queue q).n ∧ (s.queue q).n ≤ 12) → exec (.queueOpen q) s = .next s)) ∧
  (∀ (q : Nat) (s : State), q < 32 → 3 ≤ s.security.booted → s.security.halted = false → (s.queue q).en = true →
    ∃ t, exec (.queueClose q) s = .next t ∧ (t.queue q).en = false ∧ (t.queue q).opened = false ∧ (t.queue q).doorbell = 0 ∧
      (t.queue q).held = none ∧ (t.queue q).waiting = none ∧ ∀ k, k ≠ q → t.queue k = s.queue k) ∧
  (∀ (q : Nat) (s : State), q < 32 → 3 ≤ s.security.booted → s.security.halted = false → (s.queue q).halt = true →
    exec (.haltClear q) s = .next (s.setQueue q { s.queue q with halt := false, error := 0 }))

/-- R178, R279, R306, R307, R317, R318: what the host does. The first write of accepted word 0 fixes the accepted features and opens the enabled
queues; later ones do nothing. A doorbell count reads as zero, a queue's status shows whether it is open, and the register of a context its timeline.
Reads and writes of device memory act on aligned words at their homes; a write that would change a reserved word waits, and so do the accesses behind
it. A register is named by its offset and written whole (log entry 41), and an access of device memory is of one aligned word with byte enables (log
entry 46). -/
def Obligations.host_actions : Prop :=
  (∀ (v : BitVec 64) (s : State), 3 ≤ s.security.booted → s.security.halted = false →
    (s.acceptedW = false → exec (.acceptedWord0Write v) s = .next { s with
      accepted := v &&& 0x3FF01, acceptedW := true, security := { s.security with booted := 6 },
      queues := s.queues.map (fun e => if e.2.en then (e.1, e.2.start) else e) }) ∧
    (s.acceptedW = true → exec (.acceptedWord0Write v) s = .next s)) ∧
  (∀ (v : BitVec 64) (s : State), 3 ≤ s.security.booted → s.security.halted = false →
    exec (.registerWrite 0x20 v) s = exec (.acceptedWord0Write v) s ∧
    (s.acceptedW = true → ∀ o, o < 0x80 → exec (.registerWrite (0x800 + o) v) s = .next s) ∧
    (s.acceptedW = false →
      exec (.registerWrite 0x800 v) s = .next { s with reflex := { s.reflex with halls := v.setWidth 32 } } ∧
      exec (.registerWrite 0x808 v) s = .next { s with reflex := { s.reflex with
        period := if 1 ≤ v.toNat % 32 ∧ v.toNat % 32 ≤ 20 then v.toNat % 32 else 5 } } ∧
      exec (.registerWrite 0x840 v) s = .next { s with pmode := if v.toNat % 4 = 3 then 1 else v.setWidth 2 }) ∧
    (∀ q, q < 32 → (s.queue q).en = false → exec (.registerWrite (0x1000 + 64 * q) v) s =
      .next (s.setQueue q { s.queue q with base := v.toNat % 2 ^ 48 / 256 * 256, space := v.getLsbD 0 })) ∧
    (∀ q, q < 32 → exec (.registerWrite (0x1000 + 64 * q + 0x10) v) s = exec (.doorbell q v) s)) ∧
  (∀ (s : State) (q c : Nat), s.security.halted = false → q < 32 → c < 256 →
    s.hostRegister 0 = some 0x3FF01 ∧ s.hostRegister 0x20 = some s.accepted ∧
    s.hostRegister (0x1000 + 64 * q + 0x10) = some 0 ∧
    (∀ v, s.hostRegister (0x1000 + 64 * q + 0x18) = some v → v.getLsbD 0 = ((s.queue q).opened && !(s.queue q).halt) ∧
      v.getLsbD 1 = (s.queue q).halt ∧ v.toNat / 2 ^ 8 % 2 ^ 8 = (s.queue q).error % 2 ^ 8 ∧ v.toNat / 2 ^ 32 = (s.queue q).consumed % 2 ^ 32) ∧
    s.hostRegister (0x2000 + 8 * c) = some (BitVec.ofNat 64 (s.ctx c).timeline)) ∧
  (∀ (pa : Nat) (s : State), s.security.halted = false → pa % 4 = 0 → pa + 4 ≤ Config.deviceBytes →
    (s.hostOps = [] →
      let r := (s.consume 128 pa 4 false).2.homeRead pa 4
      exec (.hostCxlMemRead pa) s = .next { r.2 with hostReads := s.hostReads ++ [(pa, BitVec.ofNat 32 r.1)] }) ∧
    (s.hostOps ≠ [] → exec (.hostCxlMemRead pa) s = .next { s with hostOps := s.hostOps ++ [.read pa] })) ∧
  (∀ (pa : Nat) (v : Word) (be : BitVec 4) (s : State), s.security.halted = false → pa % 4 = 0 → pa + 4 ≤ Config.deviceBytes →
    (s.hostOps = [] → s.reserved = [] →
      ∃ t, exec (.hostCxlMemWrite pa v be) s = .next t ∧
        (∀ i, i < 4 → be.getLsbD i = true → Cells.get t.mem (pa + i) = BitVec.ofNat 8 (v.toNat / 256 ^ i)) ∧
        (∀ a, a < pa ∨ pa + 4 ≤ a → Cells.get t.mem a = Cells.get s.mem a) ∧ t.flights = s.flights ∧ t.hostMem = s.hostMem) ∧
    (s.hostOps ≠ [] ∨ (be = 15 ∧ (∃ r ∈ s.reserved, r.pa = pa) ∧ wordAt s.mem pa ≠ v) →
      exec (.hostCxlMemWrite pa v be) s = .next { s with hostOps := s.hostOps ++ [.write pa v be] })) ∧
  (∀ (line : Nat) (s : State),
    exec (.cxlCacheSnoop line .giveUp) s = .next { s with hostLines := s.hostLines.filter (fun x => decide (x.line ≠ line)) } ∧
    exec (.cxlCacheSnoop line .downgrade) s = .next { s with hostLines := s.hostLines.map (fun x =>
      if x.line = line then { x with exclusive := false } else x) })

/-- R206, R326, R348, R350, R351: resets, alarms, attestation and background activity. A class A alarm zeroes the keys and halts; a class B alarm sets
its bit, raises vector 31 and resets the device; the first synchronisation takes the host's time over and never goes back, and later ones set the rate
of global time within 200 ppm; scrubbing corrects single-bit errors, but not on a reserved channel while a reflex launch runs or the window is open; the host reads the
attestation record, after a class A alarm too, and telemetry, for which the spec gives no offset (log entry 62).
That the first synchronisation takes the later of the two times (log entry 40), that a calibration changes nothing that the spec gives (log entry
46), what a reset keeps (log entry 12), the values of digest, version, fault ring and signature (log entries 7 and 38) and of the rate (log entry 63) are the
model's own: the free values are stated as such. -/
def Obligations.device_events : Prop :=
  (∀ (warm : Bool) (s : State), s.security.halted = false ∨ warm = false →
    (∃ t, exec (.resetDevice warm true) s = .next t ∧ t.security.booted = 3 ∧ t.security.halted = false ∧ t.flights = [] ∧ t.launches = [] ∧
      t.accepted = 0 ∧ t.acceptedW = false ∧ t.pmode = 1 ∧ t.hostMem = s.hostMem ∧ t.mem = (if warm then s.mem else []) ∧
      t.alarm = (if warm then s.alarm else 0) ∧ t.security.digest = Config.firmwareDigest s.freeCtr ∧
      t.security.version = Config.firmwareVersion s.freeCtr ∧ t.frBase.toNat % 64 = 0 ∧ 6 ≤ t.frLog ∧ t.frLog ≤ 16 ∧ t.frHead = 0 ∧ t.frTail = 0) ∧
    (∃ t, exec (.resetDevice warm false) s = .next t ∧ t.security.halted = true ∧ t.security.keysZero = true)) ∧
  (∀ s : State, s.security.halted = true → ∀ ok, exec (.resetDevice true ok) s = .next s) ∧
  (∀ s : State, s.security.keysZero = false → 3 ≤ s.security.booted →
    exec .attestationSign s = .next { s with
      freeCtr := s.freeCtr + 1, security := { s.security with signature := some (Config.attestationSignature s.freeCtr) } }) ∧
  (∀ (cause : AlarmA) (s : State),
    exec (.classAAlarm cause) s = .next { s with security := { s.security with keysZero := true, halted := true } }) ∧
  (∀ s : State,
    (2 ≤ s.security.booted ∨ s.security.halted = true →
      s.hostAttestation = some (s.security.digest, s.security.version, s.security.signature)) ∧
    (s.security.halted = true → s.hostTelemetry = none ∧ ∀ off, s.hostRegister off = none) ∧
    (s.security.halted = false → 3 ≤ s.security.booted → s.hostTelemetry = some (s.telemetry, s.reflex.overruns))) ∧
  (∀ (cause : AlarmB) (s : State), s.security.halted = false → ∃ t, exec (.classBAlarm cause) s = .next t ∧
    t.alarm = s.alarm ||| (match cause with
      | .voltage => 1
      | .clock => 2
      | .temperature => 4) ∧
    t.irqs = s.irqs ++ [31] ∧ t.launches = [] ∧ t.flights = [] ∧ t.mem = s.mem ∧ t.hostMem = s.hostMem) ∧
  (∀ (v : BitVec 64) (s : State),
    (s.synced = false → exec (.ptmTimeSync v) s = .next { s with time := max s.time v.toNat, synced := true }) ∧
    (s.synced = true → ∃ t, exec (.ptmTimeSync v) s = .next t ∧ { t with rate := s.rate, freeCtr := s.freeCtr } = s ∧
      999800 ≤ t.rate ∧ t.rate ≤ 1000200)) ∧
  (∀ (pa : Nat) (s : State), 3 ≤ s.security.booted → s.security.halted = false → pa + 4 ≤ Config.deviceBytes →
    (s.onReserved pa = true → s.reflexRuns = true ∨ s.reflex.windowOpen = true → exec (.patrolScrub pa) s = .next s) ∧
    (s.onReserved pa = false ∨ (s.reflexRuns = false ∧ s.reflex.windowOpen = false) → ∃ t, exec (.patrolScrub pa) s = .next t ∧
      { t with errors := s.errors, telemetry := s.telemetry } = s ∧
      ∀ e, e ∈ t.errors ↔ e ∈ s.errors ∧ ¬ (e.fatal = false ∧ pa ≤ e.addr ∧ e.addr < pa + 4 ∧
        (e.place = .channel ∨ e.place = .vault ∨ e.place = .l2)))) ∧
  (∀ place unit addr fatal (s : State), place ≠ .priv → exec (.softError place unit addr fatal) s =
    .next { s with errors := s.errors ++ [{ place := place, unit := unit, addr := addr, fatal := fatal }] }) ∧
  (∀ unit addr fatal (s : State) (f : Flight), s.flight unit = some f → exec (.softError .priv unit addr fatal) s =
    .next (s.putFlight unit { f with privErrs := f.privErrs ++ [(addr, fatal)] })) ∧
  (∀ (ch : Nat) (s : State), exec (.channelCalibration ch) s = .next s)

/-! Encodings, checks at decode, the step, reset, invariants, memory at its homes, and denied accesses. -/

/-- R36, R43, R52, R308 to R310, R315: a well-formed instruction of a program is read back from its words, bit 27 of the first saying whether there
is a second, and a packet within its limits is read back from its slot. -/
def Obligations.decode_encode : Prop :=
  (∀ i : Instr, i.wf = true → encode i ≠ [] →
    (∃ w, encode i = [w] ∧ hasX w = false ∧ ∀ x, decode w x = .ok i) ∨
    (∃ w x, encode i = [w, x] ∧ hasX w = true ∧ decode w x = .ok i)) ∧
  (∀ (i : Instr) (h : PktHdr) (lap : BitVec 8), pktHdr i = some h → packetOk i = true →
    (encodeSlot lap i).length = 64 ∧ decodeSlot h.q (encodeSlot lap i) = .ok i ∧
      ((encodeSlot lap i).getD 63 0).toNat / 2 ^ 24 = lap.toNat)

/-- Words that the manual writes out beside their instructions are read as those instructions. -/
def Obligations.decoding_words : Prop :=
  decode 0x08038206 0x08000000 = .ok (.imad 7 2 3 false 4) ∧
  decode 0x20050206 0 = .ok (.icmpI 1 .lt 2 3) ∧
  decode 0xC00C0018 0 = .ok (.grow 3 12) ∧
  decode 0x180B942A 0x2C000000 = .ok (.ffma 23 20 21 false 22 .rne) ∧
  decode 0x31480F01 0 = .ok (.fsinr 16 15 1) ∧
  decode 0x68028201 0x00C80010 = .ok (.ld 5 2 false 1 3 .weak .w32 16) ∧
  decode 0x78030311 0x00980008 = .ok (.atom 6 3 .minI 1 2 .strong false 8) ∧
  decode 0x88100000 0x01021050 = .ok (.mma 32 false false 0 1 2 4 5) ∧
  decode 0x990A0410 0x0A824000 = .ok (.xmerge 20 4 true 0 5 4 1 2) ∧
  decode 0xA8000400 0x24E00000 = .ok (.spawn 2 4 0 1 7) ∧
  decode 0xB8400000 0x00005040 = .ok (.barSyncn 5 64) ∧
  decode 0xC181040C 0 = .ok (.tlbi 2 4 6)

namespace Sys2Proof.Claims

/-- The first n words of a clause are whole instructions, of one word or of two, which pass their checks; the others follow. -/
inductive PassesTo (accepted : BitVec 64) (h : Word) : List Word → Nat → List Word → Prop
  | start (ws : List Word) : PassesTo accepted h ws 0 ws
  | one (w : Word) (ws : List Word) (n : Nat) (rest : List Word) : hasX w = false → instrCheck accepted h w none ws.isEmpty = none →
      PassesTo accepted h ws n rest → PassesTo accepted h (w :: ws) (n + 1) rest
  | two (w x : Word) (ws : List Word) (n : Nat) (rest : List Word) : hasX w = true → instrCheck accepted h w (some x) ws.isEmpty = none →
      PassesTo accepted h ws n rest → PassesTo accepted h (w :: x :: ws) (n + 2) rest

end Sys2Proof.Claims

/-- R55: the checks on a clause stop at the first that fails: the header, its length, then instruction by instruction in address order, and the
failing word is that instruction's first; a clause all of whose checks hold has no fault, and no other has none; what each failing check of an
instruction is called, the fields of a defined function (check 8) and the place of a transfer (check 9) among them (log entry 20: the fault of a
check). -/
def Obligations.clause_checks : Prop :=
  (∀ (accepted : BitVec 64) (code : List Word) (idx : Nat) (h : Word) (ws : List Word), code.drop idx = h :: ws →
    (hdrOk h = false → clauseCheck accepted code idx = some (.header, idx)) ∧
    (hdrOk h = true → ws.length < hdrCount h → clauseCheck accepted code idx = some (.pastEnd, idx)) ∧
    (hdrOk h = true → hdrCount h ≤ ws.length →
      let body := ws.take (hdrCount h)
      (∀ n w rest e, Claims.PassesTo accepted h body n (w :: rest) → hasX w = false → instrCheck accepted h w none rest.isEmpty = some e →
        clauseCheck accepted code idx = some (e, idx + 1 + n)) ∧
      (∀ n w x rest e, Claims.PassesTo accepted h body n (w :: x :: rest) → hasX w = true →
        instrCheck accepted h w (some x) rest.isEmpty = some e → clauseCheck accepted code idx = some (e, idx + 1 + n)) ∧
      (∀ n w e, Claims.PassesTo accepted h body n [w] → hasX w = true → instrCheck accepted h w none true = some e →
        clauseCheck accepted code idx = some (e, idx + 1 + n))) ∧
    (clauseCheck accepted code idx = none ↔
      hdrOk h = true ∧ hdrCount h ≤ ws.length ∧ Claims.PassesTo accepted h (ws.take (hdrCount h)) (hdrCount h) [])) ∧
  (∀ h : Word, hdrOk h = true ↔ (h.toNat / 2 ^ 28 = 15 ∧ h.toNat / 2 ^ 24 % 16 ≠ 0 ∧ h.toNat / 2 ^ 8 % 8 = 0 ∧ h.toNat % 128 = 0)) ∧
  (∀ (accepted : BitVec 64) (h w : Word) (x : Option Word) (last : Bool),
    let op := w.toNat / 2 ^ 22
    let r := instrCheck accepted h w x last
    (960 ≤ op → r = some .classF) ∧
    (op < 960 → opDefined op = false → r = some .noFunction) ∧
    (opDefined op = true → accepted.getLsbD (featureOf op) = false → r = some .notAccepted) ∧
    (opDefined op = true → accepted.getLsbD (featureOf op) = true →
      (engineOf (op / 64) ≠ h.toNat / 2 ^ 21 % 8 → r = some .wrongEngine) ∧
      (engineOf (op / 64) = h.toNat / 2 ^ 21 % 8 →
        (w.toNat / 2 ^ 27 % 2 = 1 → x = none → r = some .lastWord) ∧
        (∀ e, (w.toNat / 2 ^ 27 % 2 = 1 → x ≠ none) → decode w (x.getD 0) = .error e → e = .badField ∧ r = some .badField) ∧
        (∀ i, (w.toNat / 2 ^ 27 % 2 = 1 → x ≠ none) → decode w (x.getD 0) = .ok i →
          (r = none ∨ r = some .badTransfer) ∧
          (r = none ↔ (i.isTransfer = true → last = true ∧ ((h.toNat / 2 ^ 16 % 16 = 15 ∧ h.toNat / 2 ^ 20 % 2 = 0) ∨ i.mayGuard = true))))))) ∧
  (∀ w x : Word, (960 ≤ w.toNat / 2 ^ 22 → decode w x = .error .classF) ∧
    (w.toNat / 2 ^ 22 < 960 → opDefined (w.toNat / 2 ^ 22) = false → decode w x = .error .noFunction)) ∧
  (Reject.code .header = .clause ∧ Reject.code .pastEnd = .clause ∧ Reject.code .classF = .clause ∧ Reject.code .noFunction = .undef ∧
    Reject.code .notAccepted = .undef ∧ Reject.code .wrongEngine = .clause ∧ Reject.code .lastWord = .clause ∧
    Reject.code .badField = .undef ∧ Reject.code .badTransfer = .clause)

/-- R82: the fields of PBOOL, the refused operations, and its value. -/
def Obligations.pbool : Prop :=
  (∀ w x : Word, w.toNat / 2 ^ 22 = 0x84 →
    let pd : PReg := BitVec.ofNat 4 (w.toNat / 2 ^ 18)
    let pa : PReg := BitVec.ofNat 4 (w.toNat / 2 ^ 8)
    let pb : PReg := BitVec.ofNat 4 (w.toNat / 2)
    let na := decide (w.toNat / 2 ^ 14 % 2 = 1)
    let nb := decide (w.toNat / 2 ^ 7 % 2 = 1)
    let code := w.toNat / 2 ^ 15 % 8
    if w.toNat / 2 ^ 12 % 4 = 0 ∧ w.toNat / 2 ^ 5 % 4 = 0 ∧ w.toNat % 2 = 0 then
      (code = 0 → decode w x = .ok (.pbool pd .and na pa nb pb)) ∧ (code = 1 → decode w x = .ok (.pbool pd .or na pa nb pb)) ∧
        (code = 2 → decode w x = .ok (.pbool pd .xor na pa nb pb)) ∧ (3 ≤ code → decode w x = .error .badField)
    else decode w x = .error .badField) ∧
  (∀ (pd pa pb : PReg) (op : BoolOp) (na nb : Bool), Always (.pbool pd op na pa nb pb) fun s key b f _ c =>
    let i := Instr.pbool pd op na pa nb pb
    ∃ g, exec i s = .next (s.moveOn key b i g) ∧ SameButPreds (f.issued b c i) g ∧
      PredGiven f g (f.acting b c) pd (fun l =>
        let x := f.p l pa != na
        let y := f.p l pb != nb
        match op with
        | .and => x && y
        | .or => x || y
        | .xor => x != y))

/-- R165, R166: the fields and the values of SWZ and SHFL: a lane takes its partner's register when the partner is active, its own otherwise. -/
def Obligations.lane_exchange : Prop :=
  (∀ w x : Word, w.toNat / 2 ^ 22 = 0x240 → decode w x =
    if w.toNat % 256 < 32 then .ok (.swz (BitVec.ofNat 7 (w.toNat / 2 ^ 15)) (BitVec.ofNat 7 (w.toNat / 2 ^ 8)) (BitVec.ofNat 5 w.toNat))
    else .error .badField) ∧
  (∀ w x : Word, w.toNat / 2 ^ 22 = 0x241 → decode w x = .ok (.shfl (BitVec.ofNat 7 (w.toNat / 2 ^ 15)) (BitVec.ofNat 7 (w.toNat / 2 ^ 8))
    (BitVec.ofNat 7 (w.toNat / 2)) (decide (w.toNat % 2 = 1)))) ∧
  (∀ x : Word, decode 0x90018201 x = .ok (.swz 3 2 1)) ∧
  (∀ (d a : Reg) (x : BitVec 5), Always (.swz d a x) fun s key b f _ c =>
    ∃ g, exec (.swz d a x) s = .next (s.moveOn key b (.swz d a x) g) ∧ SameButRegs (f.issued b c (.swz d a x)) g ∧
      RegsGiven f g (f.acting b c) d (fun l =>
        [if (f.acting b c).getLsbD (Nat.xor l x.toNat) then f.g (Nat.xor l x.toNat) a else f.g l a])) ∧
  (∀ (d a e : Reg) (r : Bool), Always (.shfl d a e r) fun s key b f _ c =>
    ∃ g, exec (.shfl d a e r) s = .next (s.moveOn key b (.shfl d a e r) g) ∧ SameButRegs (f.issued b c (.shfl d a e r)) g ∧
      RegsGiven f g (f.acting b c) d (fun l =>
        [if (f.acting b c).getLsbD ((f.g l e).toNat % 32) then f.g ((f.g l e).toNat % 32) a else f.g l a]))

/-- R259: when a handle table entry is invalid; the use of an invalid one raises HANDLE, and every access through a handle of size 0 raises
BOUNDS. -/
def Obligations.handle_entries : Prop :=
  (∀ ws : List Word, ws.length = 8 →
    let w (i : Nat) : Nat := (ws.getD i 0).toNat
    handleOf ws = none ↔
      (w 4 / 2 ^ 31 = 0 ∨
        (w 0 % 256 ≠ 0 ∨ w 1 / 2 ^ 16 ≠ 0 ∨ w 3 / 2 ^ 16 ≠ 0 ∨ w 4 / 2 ^ 6 % 2 ^ 25 ≠ 0 ∨ w 5 ≠ 0 ∨ w 6 ≠ 0 ∨ w 7 ≠ 0) ∨
        w 4 / 16 % 4 = 3 ∨ 2 ^ 48 < w 0 + w 1 % 2 ^ 16 * 2 ^ 32 + (w 2 + w 3 % 2 ^ 16 * 2 ^ 32))) ∧
  (∀ (s : State) (core ctx idx lane : Nat) (o : Int) (n : Nat) (need : Need) (na : Bool),
    ∃ d, s.check core ctx idx lane none o n need na = (.error d, s) ∧ d.code = .handle ∧ d.handle = idx) ∧
  (∀ (s : State) (core ctx idx lane : Nat) (h : Handle) (o : Int) (n : Nat) (need : Need) (na : Bool), h.size = 0 → 1 ≤ n →
    ∃ d, s.check core ctx idx lane (some h) o n need na = (.error d, s) ∧ d.code = .bounds ∧ d.handle = idx) ∧
  (∀ (d a : Reg) (na : Bool) (lk : BitVec 4) (h : BitVec 10) (ord : Order) (wd : Width) (imm : BitVec 17),
    Always (.ld d a na lk h ord wd imm) fun s key b f la c => f.regions = [] →
      let i := Instr.ld d a na lk h ord wd imm
      let hd := (s.begun key b f c i).handle (keyCore key) la.ctx0 h.toNat
      (hd.1 = none → ∀ r ∈ (checksOf (s.begun key b f c i) key la h (Width.bytes wd) .read na (offsetsOf f (f.acting b c) a imm.toInt)).1,
        ∃ x, r.2 = .error x ∧ x.code = .handle) ∧
      (∀ e, hd.1 = some e → e.size = 0 →
        ∀ r ∈ (checksOf (s.begun key b f c i) key la h (Width.bytes wd) .read na (offsetsOf f (f.acting b c) a imm.toInt)).1,
          ∃ x, r.2 = .error x ∧ x.code = .bounds))

/-- R6, R177, R303, R343, R344: a lane's denied access is recorded in the fault ring, or its record waits while the ring is full; the lanes of page faults alone park in their slot, and with another
fault and a handler that takes user traps the lowest code is the trap that the workgroup's handler will serve. What is checked first: the handle,
the bounds, the alignment. That a record for which the ring has no room stands in a queue until there is is the model's choice (log entry 15). -/
def Obligations.denied_accesses : Prop :=
  (∀ (idx : Nat) (h : Handle) (o : Int) (n al : Nat) (w : Bool), 1 ≤ al →
    let r := reach idx (some h) o n al w
    let va := (((h.base : Int) + o) % 2 ^ 48).toNat
    ((o < 0 ∨ (h.size : Int) < o + n) → ∃ d, r = .error d ∧ d.code = .bounds ∧ d.va = va ∧ d.w = w) ∧
    (0 ≤ o → o + n ≤ h.size → (va % al ≠ 0 → ∃ d, r = .error d ∧ d.code = .align ∧ d.va = va ∧ d.w = w) ∧ (va % al = 0 → r = .ok (h, va)))) ∧
  (∀ (s : State) (key : Nat) (b : Bool) (f : Flight) (ctx : Nat) (pc : Word) (x : LaneFault), x.lane < 32 → s.ringRoom ≠ 0 →
    s.ringAt + 64 ≤ Config.deviceBytes →
    let t := s.records key f b ctx pc [x]
    t.ringQueue = s.ringQueue ∧ t.frTail = s.frTail + 1 ∧ t.flights = s.flights ∧ t.launches = s.launches ∧
      (∀ a, a < s.ringAt ∨ s.ringAt + 64 ≤ a → Cells.get t.mem a = Cells.get s.mem a) ∧
      wordsAt t.mem s.ringAt 16 =
        [BitVec.ofNat 32 (x.code.num + (if x.mal then 512 else 0) + (if x.w then 1024 else 0) + ctx * 2 ^ 24), f.launch,
         BitVec.ofNat 32 (key / 64 + key % 64 * 2 ^ 8 + x.lane * 2 ^ 16 + (if b then 2 ^ 21 else 0)), pc,
         BitVec.ofNat 32 x.va, BitVec.ofNat 32 (x.va / 2 ^ 32 % 2 ^ 16), Cells.get f.own x.lane, Cells.get f.iter x.lane,
         BitVec.ofNat 32 x.handle, BitVec.ofNat 32 x.n, BitVec.ofNat 32 s.time, BitVec.ofNat 32 (s.time / 2 ^ 32), 0, 0, 0, 0]) ∧
  (∀ (s : State) (key : Nat) (b : Bool) (f : Flight) (ctx : Nat) (pc : Word) (x : LaneFault), x.lane < 32 → s.ringRoom = 0 →
    ∃ r : RingWait, r.order = some f.order ∧ r.slotB = b ∧ r.words.take 10 =
        [BitVec.ofNat 32 (x.code.num + (if x.mal then 512 else 0) + (if x.w then 1024 else 0) + ctx * 2 ^ 24), f.launch,
         BitVec.ofNat 32 (key / 64 + key % 64 * 2 ^ 8 + x.lane * 2 ^ 16 + (if b then 2 ^ 21 else 0)), pc,
         BitVec.ofNat 32 x.va, BitVec.ofNat 32 (x.va / 2 ^ 32 % 2 ^ 16), Cells.get f.own x.lane, Cells.get f.iter x.lane,
         BitVec.ofNat 32 x.handle, BitVec.ofNat 32 x.n] ∧
      s.records key f b ctx pc [x] = { s with ringQueue := s.ringQueue ++ [r] }) ∧
  (∀ (d a : Reg) (na : Bool) (lk : BitVec 4) (h : BitVec 10) (wd : Width) (imm : BitVec 17),
    Always (.ld d a na lk h .weak wd imm) fun s key b f la c => f.regions = [] →
      let i := Instr.ld d a na lk h .weak wd imm
      let rs := checksOf (s.begun key b f c i) key la h (Width.bytes wd) .read na (offsetsOf f (f.acting b c) a imm.toInt)
      let fs := denied rs.1
      let bad := maskOf (fs.map (fun x => x.lane))
      let g := (f.issued b c i).addPending b i (f.slot b).pc (f.acting b c &&& ~~~bad) false (.load d.toNat wd .weak (passed rs.1))
      let s1 := (rs.2.putFlight key g).records key g b la.ctx0 (f.slot b).pc fs
      fs ≠ [] → rs.2.ringRoom ≠ 0 →
        ((∀ x ∈ fs, x.code = .page) →
          let t := s1.putFlight key (g.setSlot b { g.slot b with park := bad, parkSeq := s1.frTail + s1.ringQueue.length, replay := none })
          t.hole = false → exec i s = .next t) ∧
        (∀ e, lowestCode fs = some e → e ≠ .ecc → f.kind ≠ .handler → la.takesTraps = true → s1.hole = false →
          ∃ (t : State) (tr : TrapInfo), exec i s = .next t ∧ t.mem = s1.mem ∧ t.frTail = s1.frTail ∧ t.ringQueue = s1.ringQueue ∧
            t.flight key = some (g.setSlot b { g.slot b with trapped := bad, replay := none }) ∧
            t.launches = (s1.modWg f.launch (keyCore key) (fun w => { w with held := w.held ++ [.trap tr] })).launches ∧
            tr.code = e.num ∧ tr.pc = (f.slot b).pc ∧ tr.mask = bad ∧ tr.decode = false ∧ tr.flight = key ∧ tr.slotB = b))

/-- R40, R48: an instruction with no acting lane changes nothing but its slot's place and its windows: the slot moves past it, one instruction has
been counted in each of its open windows, EXIT closes them, and a long-latency instruction, done at once and with nothing to write, opens its own.
(A flight that has nothing left retires as after any CANCEL or ERET.) -/
def Obligations.no_acting_lane : Prop :=
  ∀ (s : State) (i : Instr) (key : Nat) (b : Bool) (f : Flight) (la : Launch) (c : Clause),
    Machine.Instr.inProgram i = true → s.cur = { flight := key, slotB := b } → s.flight key = some f → Tbl.find s.launches f.launch.toNat = some la →
    (f.slot b).clause = some c → s.ready key f b i = true → (∀ r ∈ i.use.gr ++ i.use.gw, r < f.allot) → i.allowed f.kind = true →
    ((f.slot b).replay.isSome = true ∨ hazard f b i = false) → f.acting b c = 0 → (i = .exit → f.undone b = []) →
      ∃ g, ((∀ a lk, i ≠ .cancel a lk) → (∀ a, i ≠ .eret a) → exec i s = .next (s.moveOn key b i g)) ∧
        (∀ a lk, i = .cancel a lk → exec i s = .next ((s.moveOn key b i g).retireIf key)) ∧
        (∀ a, i = .eret a → exec i s = .next (match f.trap with
          | some tr => (s.moveOn key b i g).retireIf tr.flight
          | none => s.moveOn key b i g)) ∧
        { g with pending := f.pending, nextSeq := f.nextSeq, a := f.a, b := f.b } = f ∧ g.slot (!b) = f.slot (!b) ∧
        g.slot b = { f.slot b with clause := some { c with guard := some (f.guardMask c) }, wait := .none, aged := 0, old := false } ∧
        (let counted := if (f.slot b).replay.isSome then f.pending else
           (f.pending.map (fun p => if p.slotB = b then { p with window := p.window - 1 } else p)).filter (fun p =>
             !(p.done && decide (p.window = 0)))
         (i.lookahead = none → g.nextSeq = f.nextSeq ∧
           g.pending = if i = .exit then counted.filter (fun p => decide (p.slotB ≠ b) || !p.done) else counted) ∧
         (∀ w, i.lookahead = some w → g.nextSeq = f.nextSeq + 1 ∧
           ∃ p : Pending, p.slotB = b ∧ p.seq = f.nextSeq ∧ p.instr = i ∧ p.pc = (f.slot b).pc ∧ p.mask = 0 ∧ p.window = w ∧
             p.gdest = i.use.gw ∧ p.pdest = i.use.pw ∧ p.done = true ∧ p.act = .finished ∧ p.own = f.own ∧ p.iter = f.iter ∧
             g.pending = counted ++ (if w = 0 then [] else [p])))

namespace Sys2Proof.Claims

/-- When nothing stands in the inputs and no access of the host waits to take effect, on a device that is not halted. -/
structure Free (s : State) : Prop where
  inputs : s.inputs = []
  runs   : s.security.halted = false
  host   : s.hostNext = none

/-- When no deadline, queue 0 or boundary has anything to do. -/
structure Calm (s : State) : Prop extends Free s where
  calm : s.urgent.find? (fun m => s.would m) = none

end Sys2Proof.Claims

/-- R1, R25 to R27, R35, R252, R326: what a step does. An input is carried out first; then an access of the host that has waited; then what is
urgent; in even cycles the chosen slot issues the instruction that its words decode to, in odd cycles an event comes first. After each of the last
three a cycle passes, 10/17 ns at the rate that global time has, and after an issue the ready slots of the class that were passed over age; a slot that
is not ready has no age and is not aged. The order of events is the model's own (log entry 5), and an input that cannot happen is passed over (log entry 4). -/
def Obligations.step_runs_decoded : Prop :=
  (∀ (s : State) (i : Instr) (rest : List Instr), s.inputs = i :: rest →
    (s.passes i = false → step s = exec i { s with inputs := rest }) ∧ (s.passes i = true → step s = .next { s with inputs := rest })) ∧
  (∀ (s : State) (i : Instr), s.security.halted = false → (s.passes i = true ↔ encode i ≠ [])) ∧
  (∀ s : State, s.inputs = [] → s.security.halted = true → step s = .next s) ∧
  (∀ s t : State, s.inputs = [] → s.security.halted = false → s.hostNext = some t → step s = .next t) ∧
  (∀ (s : State) (m : Move), Free s → s.urgent.find? (fun m => s.would m) = some m →
    ∀ t, exec m.1 s = .next t → step s = .next t.unaged.tick) ∧
  (∀ (s : State) (c : Cur) (f : Flight) (la : Launch) (cl : Clause) (i : Instr), Calm s →
    (s.cycle % 2 = 0 ∨ s.event = none) → s.pick = some c → s.flight c.flight = some f →
    Tbl.find s.launches f.launch.toNat = some la → (f.slot c.slotB).clause = some cl → la.instrAt (f.slot c.slotB).pc = some i →
      (∀ t, exec i (s.aim c) = .next t → step s = .next (s.after { instr := i, slot := some c } t)) ∧
      (∀ r, exec i (s.aim c) = .fault r → step s = .fault r) ∧ (∀ r, exec i (s.aim c) = .refused r → step s = .refused r)) ∧
  (∀ (s : State) (c : Cur) (f : Flight), Calm s → (s.cycle % 2 = 0 ∨ s.event = none) → s.pick = some c → s.flight c.flight = some f →
    (f.slot c.slotB).clause = none → ∀ t, exec (.clauseDecode c.flight c.slotB) (s.aim c) = .next t → step s = .next t.unaged.tick) ∧
  (∀ (s : State) (i : Instr), Calm s → (s.cycle % 2 = 1 ∨ s.issueNext = none) → s.event = some i →
    ∀ t, exec i s = .next t → step s = .next t.unaged.tick) ∧
  (∀ s : State, Calm s → s.issueNext = none → s.event = none → step s = .next s.unaged.tick) ∧
  (∀ (la : Launch) (pc : Word) (i : Instr), la.instrAt pc = some i ↔
    ∃ n, n < la.code.length ∧ (pc - la.pcOf 0).toNat = 4 * n ∧ decode (la.code.getD n 0) (la.code.getD (n + 1) 0) = .ok i) ∧
  (∀ (s t : State) (i : Instr) (c : Cur), (∀ fl b, i ≠ .clauseDecode fl b) → s.after { instr := i, slot := some c } t = (s.ageing c t).unaged.tick) ∧
  (∀ (s t : State) (c d : Cur) (f : Flight), t.flight d.flight = some f →
    let cls (g : Flight) : Option Nat := (Tbl.find s.launches g.launch.toNat).map (fun la => la.cls)
    let passed := d ≠ c ∧ d.flight / 16 = c.flight / 16 ∧ cls f = (s.flight c.flight).bind cls ∧ s.curReady d = true
    ∃ g, (s.ageing c t).flight d.flight = some g ∧ (passed → (g.slot d.slotB).aged = (f.slot d.slotB).aged + 1) ∧
      (¬ passed → (g.slot d.slotB).aged = (f.slot d.slotB).aged)) ∧
  (∀ (s : State) (d : Cur) (f : Flight), s.flight d.flight = some f →
    ∃ g, s.unaged.flight d.flight = some g ∧ (g.slot d.slotB).aged = (if s.curReady d then (f.slot d.slotB).aged else 0) ∧
      (g.slot d.slotB).old = (s.curReady d && (f.slot d.slotB).old)) ∧
  (∀ s : State, s.tick.cycle = s.cycle + 1 ∧ 17000000 * s.tick.time + s.tick.subNs = 17000000 * s.time + s.subNs + 10 * s.rate ∧
    { s.tick with cycle := s.cycle, time := s.time, subNs := s.subNs } = s)

/-- R279, R306, R307, R345, R349: the registers after reset, as their tables give them; global time starts at 0 (R326). -/
def Obligations.reset_values : Prop :=
  let s := State.reset
  s.accepted = 0 ∧ s.acceptedW = false ∧ Config.advertised = 0x3FF01 ∧
  (∀ q, (s.queue q).base = 0 ∧ (s.queue q).space = false ∧ (s.queue q).en = false ∧ (s.queue q).n = 4 ∧ (s.queue q).doorbell = 0 ∧
    (s.queue q).consumed = 0 ∧ (s.queue q).error = 0 ∧ (s.queue q).halt = false ∧ (s.queue q).opened = false) ∧
  s.reflex.halls = 3 ∧ s.reflex.channels = 0 ∧ s.reflex.period = 5 ∧ s.reflex.phase = 0 ∧ s.reflex.contexts = 0 ∧ s.pmode = 1 ∧ s.alarm = 0 ∧
  s.alarmStat = 0 ∧ s.frBase = 0 ∧ s.frLog = 6 ∧ s.frHead = 0 ∧ s.frTail = 0 ∧ s.time = 0 ∧ s.rate = 1000000 ∧ s.synced = false ∧ (∀ c, (s.ctx c).valid = false) ∧
  s.flights = [] ∧ s.launches = [] ∧ s.mem = []

/-- The invariant of step_keeps_invariant holds after reset. -/
def Obligations.reset_invariant : Prop := State.reset.memOk = true ∧ State.reset.regsOk = true

/-- Every step keeps both memories in canonical form, and the device registers at values that their rules allow: accepted features are advertised
ones (R279), the power mode is one of the three (R349), the reflex period is 1 to 20 ms (R28), the fault ring's size and base are legal and its
acknowledged records are not ahead of the written ones (R303, R345). -/
def Obligations.step_keeps_invariant : Prop :=
  ∀ s t : State, s.memOk = true → s.regsOk = true → step s = .next t → t.memOk = true ∧ t.regsOk = true

/-- R180, R215, R219, R222: bytes written at their home are read back there, and no byte outside the aligned words that hold them changes; bytes
stored in a core's L1 are read back by that core. -/
def Obligations.home_memory : Prop :=
  (∀ (s : State) (core pa n v : Nat), 1 ≤ n → pa % 128 + n ≤ 128 →
    let t := s.homeWrite core pa n v
    (t.homeRead pa n).1 = v % 256 ^ n ∧ (∀ a, a < pa / 4 * 4 ∨ (pa + n + 3) / 4 * 4 ≤ a → Cells.get t.mem a = Cells.get s.mem a) ∧
      t.hostMem = s.hostMem ∧ t.flights = s.flights) ∧
  (∀ (s : State) (core ctx va pa n v : Nat), 1 ≤ n → va % 128 + n ≤ 128 →
    let t := s.storeL1 core ctx va pa n v
    t.l1Value core ctx va pa n = v % 256 ^ n ∧ t.hostMem = s.hostMem ∧
      ((∃ b ∈ s.l1, b.core = core) ∨ s.privBlocks core < 1024 → t.flights = s.flights)) ∧
  (∀ (s : State) (core pa n : Nat), 1 ≤ n → pa % 128 + n ≤ 128 →
    let t := s.recall pa n
    (∀ b ∈ t.l1, b.page = pa / 128 * 128 → ∀ w, pa % 128 / 4 ≤ w → w ≤ (pa % 128 + n - 1) / 4 → w < 32 → b.owned.getLsbD w = false) ∧
      (t.surrender core pa n).hostMem = s.hostMem) ∧
  (∀ (s : State) (core : Nat),
    let t := s.acquire core
    (∀ b ∈ t.l1, b.core = core → b.valid &&& ~~~(b.dirtyWords ||| b.owned) = 0) ∧ (∀ g ∈ t.gather, g.core ≠ core) ∧ t.mem = s.mem ∧
      (∀ b ∈ s.l1, b.core ≠ core → b ∈ t.l1))
end

