-- ==== Sys2Proof/Laws/Cells.lean ====
section
/-! SUPPORT. Laws of sparse tables: reading after writing, and the canonical form that every operation keeps. -/

namespace Sys2Proof.Laws

open Sys2Proof Sys2Proof.Machine

variable {α : Type}

theorem find_del_same (t : Tbl α) (a : Nat) : Tbl.find (Tbl.del t a) a = none := by
  induction t with
  | nil => rfl
  | cons e t ih =>
    obtain ⟨k, v⟩ := e
    by_cases h : a = k
    · simpa only [Tbl.del, h, if_true] using h ▸ ih
    · simpa only [Tbl.del, h, if_false, Tbl.find] using ih

theorem find_del_ne (t : Tbl α) {a b : Nat} (h : b ≠ a) : Tbl.find (Tbl.del t a) b = Tbl.find t b := by
  induction t with
  | nil => rfl
  | cons e t ih =>
    obtain ⟨k, v⟩ := e
    by_cases hk : a = k
    · subst hk; simp [Tbl.del, Tbl.find, h, ih]
    · by_cases hb : b = k <;> simp [Tbl.del, Tbl.find, hk, hb, ih]

theorem find_ins_ne (t : Tbl α) {a b : Nat} (x : α) (h : b ≠ a) : Tbl.find (Tbl.ins t a x) b = Tbl.find t b := by
  induction t with
  | nil => simp [Tbl.ins, Tbl.find, h]
  | cons e t ih =>
    obtain ⟨k, v⟩ := e
    by_cases hk : a < k <;> by_cases hb : b = k <;> simp [Tbl.ins, Tbl.find, hk, hb, h, ih]
    all_goals intro hba; omega

theorem find_ins_same (t : Tbl α) (a : Nat) (x : α) (h : Tbl.find t a = none) : Tbl.find (Tbl.ins t a x) a = some x := by
  induction t with
  | nil => simp [Tbl.ins, Tbl.find]
  | cons e t ih =>
    obtain ⟨k, v⟩ := e
    by_cases hk : a = k
    · simp [Tbl.find, hk] at h
    · simp only [Tbl.find, hk, if_false] at h
      by_cases hl : a < k <;> simp [Tbl.ins, Tbl.find, hl, hk, ih h]

theorem find_put_same (t : Tbl α) (a : Nat) (x : α) : Tbl.find (Tbl.put t a x) a = some x :=
  find_ins_same _ _ _ (find_del_same t a)

theorem find_put_ne (t : Tbl α) {a b : Nat} (x : α) (h : b ≠ a) : Tbl.find (Tbl.put t a x) b = Tbl.find t b := by
  rw [Tbl.put, find_ins_ne _ _ h, find_del_ne _ h]

theorem del_of_none (t : Tbl α) (a : Nat) (h : Tbl.find t a = none) : Tbl.del t a = t := by
  induction t with
  | nil => rfl
  | cons e t ih =>
    obtain ⟨k, v⟩ := e
    by_cases hk : a = k
    · simp [Tbl.find, hk] at h
    · simp only [Tbl.find, hk, if_false] at h
      simp [Tbl.del, hk, ih h]

theorem del_ins (t : Tbl α) (a : Nat) (x : α) (h : Tbl.find t a = none) : Tbl.del (Tbl.ins t a x) a = t := by
  induction t with
  | nil => simp [Tbl.ins, Tbl.del]
  | cons e t ih =>
    obtain ⟨k, v⟩ := e
    by_cases hk : a = k
    · simp [Tbl.find, hk] at h
    · simp only [Tbl.find, hk, if_false] at h
      by_cases hl : a < k
      · simp [Tbl.ins, Tbl.del, hl, hk, del_of_none _ _ h]
      · simp [Tbl.ins, Tbl.del, hl, hk, ih h]

/-- The later of two records listed under a number stays. -/
theorem put_put (t : Tbl α) (a : Nat) (x y : α) : Tbl.put (Tbl.put t a x) a y = Tbl.put t a y := by
  simp only [Tbl.put]
  rw [del_ins _ _ _ (find_del_same t a)]

/-! The canonical form. -/

/-- All numbers of a table lie above a bound. -/
def above (t : Tbl α) (n : Nat) : Prop := ∀ e ∈ t, n < e.1

theorem sorted_cons {k : Nat} {v : α} {t : Tbl α} : Tbl.sorted ((k, v) :: t) = true ↔ above t k ∧ Tbl.sorted t = true := by
  induction t generalizing k v with
  | nil => simp [Tbl.sorted, above]
  | cons e t ih =>
    obtain ⟨k', v'⟩ := e
    simp only [Tbl.sorted, Bool.and_eq_true, decide_eq_true_eq]
    constructor
    · rintro ⟨h, hs⟩
      refine ⟨?_, hs⟩
      intro e he
      rcases List.mem_cons.mp he with rfl | he
      · exact h
      · exact Nat.lt_trans h ((ih.mp hs).1 e he)
    · rintro ⟨h, hs⟩
      exact ⟨h (k', v') (by simp), hs⟩

theorem mem_del {t : Tbl α} {a : Nat} {e : Nat × α} (h : e ∈ Tbl.del t a) : e ∈ t ∧ e.1 ≠ a := by
  induction t with
  | nil => simp [Tbl.del] at h
  | cons x t ih =>
    obtain ⟨k, v⟩ := x
    by_cases hk : a = k
    · simp only [Tbl.del, hk, if_true] at h
      rw [← hk] at h
      exact ⟨List.mem_cons_of_mem _ (ih h).1, (ih h).2⟩
    · simp only [Tbl.del, hk, if_false, List.mem_cons] at h
      rcases h with rfl | h
      · exact ⟨by simp, fun h => hk h.symm⟩
      · exact ⟨List.mem_cons_of_mem _ (ih h).1, (ih h).2⟩

theorem mem_ins {t : Tbl α} {a : Nat} {x : α} {e : Nat × α} (h : e ∈ Tbl.ins t a x) : e = (a, x) ∨ e ∈ t := by
  induction t with
  | nil => simpa [Tbl.ins] using h
  | cons y t ih =>
    obtain ⟨k, v⟩ := y
    by_cases hk : a < k
    · simpa [Tbl.ins, hk] using h
    · simp only [Tbl.ins, hk, if_false, List.mem_cons] at h
      rcases h with rfl | h
      · simp
      · rcases ih h with h | h <;> simp [h]

theorem sorted_del {t : Tbl α} (a : Nat) (h : Tbl.sorted t = true) : Tbl.sorted (Tbl.del t a) = true := by
  induction t with
  | nil => rfl
  | cons e t ih =>
    obtain ⟨k, v⟩ := e
    obtain ⟨h1, h2⟩ := sorted_cons.mp h
    by_cases hk : a = k
    · simpa [Tbl.del, hk] using hk ▸ ih h2
    · simp only [Tbl.del, hk, if_false]
      exact sorted_cons.mpr ⟨fun e he => h1 e (mem_del he).1, ih h2⟩

theorem sorted_ins {t : Tbl α} (a : Nat) (x : α) (h : Tbl.sorted t = true) (hn : Tbl.find t a = none) :
    Tbl.sorted (Tbl.ins t a x) = true := by
  induction t with
  | nil => rfl
  | cons e t ih =>
    obtain ⟨k, v⟩ := e
    obtain ⟨h1, h2⟩ := sorted_cons.mp h
    by_cases hk : a = k
    · simp [Tbl.find, hk] at hn
    · simp only [Tbl.find, hk, if_false] at hn
      by_cases hl : a < k
      · simp only [Tbl.ins, hl, if_true]
        refine sorted_cons.mpr ⟨?_, h⟩
        intro e he
        rcases List.mem_cons.mp he with rfl | he
        · exact hl
        · exact Nat.lt_trans hl (h1 e he)
      · simp only [Tbl.ins, hl, if_false]
        refine sorted_cons.mpr ⟨?_, ih h2 hn⟩
        intro e he
        rcases mem_ins he with rfl | he
        · show k < a; omega
        · exact h1 e he

theorem sorted_put {t : Tbl α} (a : Nat) (x : α) (h : Tbl.sorted t = true) : Tbl.sorted (Tbl.put t a x) = true :=
  sorted_ins _ _ (sorted_del _ h) (find_del_same _ _)

theorem sorted_filter {t : Tbl α} (p : Nat × α → Bool) (h : Tbl.sorted t = true) : Tbl.sorted (t.filter p) = true := by
  induction t with
  | nil => rfl
  | cons e t ih =>
    obtain ⟨k, v⟩ := e
    obtain ⟨h1, h2⟩ := sorted_cons.mp h
    by_cases hp : p (k, v) = true
    · simp only [List.filter_cons, hp, if_true]
      exact sorted_cons.mpr ⟨fun e he => h1 e (List.mem_filter.mp he).1, ih h2⟩
    · simpa [List.filter_cons, hp] using ih h2

variable {w : Nat}

theorem wf_iff {c : Cells w} : Cells.wf c = true ↔ Tbl.sorted c = true ∧ ∀ e ∈ c, e.2 ≠ 0 := by
  simp [Cells.wf]

/-- The empty array is in canonical form. -/
theorem wf_nil : Cells.wf ([] : Cells w) = true := rfl

/-- A write keeps the canonical form. -/
theorem wf_set {c : Cells w} (a : Nat) (v : BitVec w) (h : Cells.wf c = true) : Cells.wf (Cells.set c a v) = true := by
  obtain ⟨h1, h2⟩ := wf_iff.mp h
  by_cases hv : v = 0
  · simp only [Cells.set, hv, if_true]
    exact wf_iff.mpr ⟨sorted_del _ h1, fun e he => h2 e (mem_del he).1⟩
  · simp only [Cells.set, hv, if_false]
    refine wf_iff.mpr ⟨sorted_put _ _ h1, ?_⟩
    intro e he
    rcases mem_ins he with rfl | he
    · exact hv
    · exact h2 e (mem_del he).1

theorem wf_setList {c : Cells w} (a : Nat) (vs : List (BitVec w)) (h : Cells.wf c = true) :
    Cells.wf (Cells.setList c a vs) = true := by
  induction vs generalizing c a with
  | nil => exact h
  | cons v vs ih => exact ih _ (wf_set _ _ h)

theorem wf_keep {c : Cells w} (p : Nat → Bool) (h : Cells.wf c = true) : Cells.wf (Cells.keep c p) = true := by
  obtain ⟨h1, h2⟩ := wf_iff.mp h
  exact wf_iff.mpr ⟨sorted_filter _ h1, fun e he => h2 e (List.mem_filter.mp he).1⟩

/-- A list of writes keeps the canonical form. -/
theorem wf_foldl {β : Type} (g : Cells w → β → Cells w) (hg : ∀ c x, Cells.wf c = true → Cells.wf (g c x) = true) (xs : List β)
    {c : Cells w} (h : Cells.wf c = true) : Cells.wf (xs.foldl g c) = true := by
  induction xs generalizing c with
  | nil => exact h
  | cons x xs ih => exact ih (hg _ _ h)

/-- Reading the word just written. -/
theorem get_set_same (c : Cells w) (a : Nat) (v : BitVec w) : Cells.get (Cells.set c a v) a = v := by
  by_cases hv : v = 0
  · rw [Cells.get, Cells.set, if_pos hv, find_del_same, hv]; rfl
  · rw [Cells.get, Cells.set, if_neg hv, find_put_same]; rfl

/-- Reading another word than the one written. -/
theorem get_set_ne (c : Cells w) {a b : Nat} (v : BitVec w) (h : b ≠ a) : Cells.get (Cells.set c a v) b = Cells.get c b := by
  by_cases hv : v = 0
  · rw [Cells.get, Cells.set, if_pos hv, find_del_ne _ h, Cells.get]
  · rw [Cells.get, Cells.set, if_neg hv, find_put_ne _ _ h, Cells.get]

theorem get_set (c : Cells w) (a b : Nat) (v : BitVec w) :
    Cells.get (Cells.set c a v) b = if b = a then v else Cells.get c b := by
  by_cases h : b = a
  · simp [h, get_set_same]
  · simp [h, get_set_ne _ _ h]

theorem setList_before (c : Cells w) (a b : Nat) (vs : List (BitVec w)) (h : b < a) :
    Cells.get (Cells.setList c a vs) b = Cells.get c b := by
  induction vs generalizing c a with
  | nil => rfl
  | cons v vs ih => rw [Cells.setList, ih _ _ (by omega), get_set_ne _ _ (by omega)]

/-- Reading after a run of writes: the run's own word inside it, the old word outside. -/
theorem get_setList (c : Cells w) (a b : Nat) (vs : List (BitVec w)) :
    Cells.get (Cells.setList c a vs) b = if a ≤ b ∧ b < a + vs.length then vs.getD (b - a) 0 else Cells.get c b := by
  induction vs generalizing c a with
  | nil => simp [Cells.setList] <;> omega
  | cons v vs ih =>
    rw [Cells.setList]
    by_cases hb : b = a
    · subst hb
      rw [setList_before _ _ _ _ (by omega), get_set_same]
      simp
    · rw [ih, get_set_ne _ _ hb]
      by_cases h1 : a + 1 ≤ b ∧ b < a + 1 + vs.length
      · rw [if_pos h1, if_pos (by simp; omega)]
        obtain ⟨n, rfl⟩ : ∃ n, b = a + 1 + n := ⟨b - (a + 1), by omega⟩
        have e1 : a + 1 + n - (a + 1) = n := by omega
        have e2 : a + 1 + n - a = n + 1 := by omega
        rw [e1, e2]; simp
      · rw [if_neg h1, if_neg (by simp; omega)]

end Sys2Proof.Laws
end

