-- ==== Sys2Proof/Laws/State.lean ====
section
/-! SUPPORT. What each elementary update of the state leaves as it was: one lemma for each field and update. -/

namespace Sys2Proof.Laws

open Sys2Proof Sys2Proof.Machine

/-! putFlight changes flights. -/

@[simp] theorem putFlight_mem (s : State) (key : Nat) (f : Flight) : (s.putFlight key f).mem = s.mem := rfl
@[simp] theorem putFlight_hostMem (s : State) (key : Nat) (f : Flight) : (s.putFlight key f).hostMem = s.hostMem := rfl
@[simp] theorem putFlight_placed (s : State) (key : Nat) (f : Flight) : (s.putFlight key f).placed = s.placed := rfl
@[simp] theorem putFlight_spanInPage (s : State) (key : Nat) (f : Flight) : (s.putFlight key f).spanInPage = s.spanInPage := rfl
@[simp] theorem putFlight_errors (s : State) (key : Nat) (f : Flight) : (s.putFlight key f).errors = s.errors := rfl
@[simp] theorem putFlight_hostLines (s : State) (key : Nat) (f : Flight) : (s.putFlight key f).hostLines = s.hostLines := rfl
@[simp] theorem putFlight_l1 (s : State) (key : Nat) (f : Flight) : (s.putFlight key f).l1 = s.l1 := rfl
@[simp] theorem putFlight_gather (s : State) (key : Nat) (f : Flight) : (s.putFlight key f).gather = s.gather := rfl
@[simp] theorem putFlight_descs (s : State) (key : Nat) (f : Flight) : (s.putFlight key f).descs = s.descs := rfl
@[simp] theorem putFlight_tlb (s : State) (key : Nat) (f : Flight) : (s.putFlight key f).tlb = s.tlb := rfl
@[simp] theorem putFlight_dir (s : State) (key : Nat) (f : Flight) : (s.putFlight key f).dir = s.dir := rfl
@[simp] theorem putFlight_reserved (s : State) (key : Nat) (f : Flight) : (s.putFlight key f).reserved = s.reserved := rfl
@[simp] theorem putFlight_combining (s : State) (key : Nat) (f : Flight) : (s.putFlight key f).combining = s.combining := rfl
@[simp] theorem putFlight_ctxs (s : State) (key : Nat) (f : Flight) : (s.putFlight key f).ctxs = s.ctxs := rfl
@[simp] theorem putFlight_flightSeq (s : State) (key : Nat) (f : Flight) : (s.putFlight key f).flightSeq = s.flightSeq := rfl
@[simp] theorem putFlight_launches (s : State) (key : Nat) (f : Flight) : (s.putFlight key f).launches = s.launches := rfl
@[simp] theorem putFlight_scratch (s : State) (key : Nat) (f : Flight) : (s.putFlight key f).scratch = s.scratch := rfl
@[simp] theorem putFlight_tasks (s : State) (key : Nat) (f : Flight) : (s.putFlight key f).tasks = s.tasks := rfl
@[simp] theorem putFlight_atria (s : State) (key : Nat) (f : Flight) : (s.putFlight key f).atria = s.atria := rfl
@[simp] theorem putFlight_barriers (s : State) (key : Nat) (f : Flight) : (s.putFlight key f).barriers = s.barriers := rfl
@[simp] theorem putFlight_expans (s : State) (key : Nat) (f : Flight) : (s.putFlight key f).expans = s.expans := rfl
@[simp] theorem putFlight_copies (s : State) (key : Nat) (f : Flight) : (s.putFlight key f).copies = s.copies := rfl
@[simp] theorem putFlight_copySeq (s : State) (key : Nat) (f : Flight) : (s.putFlight key f).copySeq = s.copySeq := rfl
@[simp] theorem putFlight_cmdSeq (s : State) (key : Nat) (f : Flight) : (s.putFlight key f).cmdSeq = s.cmdSeq := rfl
@[simp] theorem putFlight_growers (s : State) (key : Nat) (f : Flight) : (s.putFlight key f).growers = s.growers := rfl
@[simp] theorem putFlight_lastIssue (s : State) (key : Nat) (f : Flight) : (s.putFlight key f).lastIssue = s.lastIssue := rfl
@[simp] theorem putFlight_matBusy (s : State) (key : Nat) (f : Flight) : (s.putFlight key f).matBusy = s.matBusy := rfl
@[simp] theorem putFlight_saved (s : State) (key : Nat) (f : Flight) : (s.putFlight key f).saved = s.saved := rfl
@[simp] theorem putFlight_queues (s : State) (key : Nat) (f : Flight) : (s.putFlight key f).queues = s.queues := rfl
@[simp] theorem putFlight_round (s : State) (key : Nat) (f : Flight) : (s.putFlight key f).round = s.round := rfl
@[simp] theorem putFlight_frBase (s : State) (key : Nat) (f : Flight) : (s.putFlight key f).frBase = s.frBase := rfl
@[simp] theorem putFlight_frLog (s : State) (key : Nat) (f : Flight) : (s.putFlight key f).frLog = s.frLog := rfl
@[simp] theorem putFlight_frHead (s : State) (key : Nat) (f : Flight) : (s.putFlight key f).frHead = s.frHead := rfl
@[simp] theorem putFlight_frTail (s : State) (key : Nat) (f : Flight) : (s.putFlight key f).frTail = s.frTail := rfl
@[simp] theorem putFlight_ringQueue (s : State) (key : Nat) (f : Flight) : (s.putFlight key f).ringQueue = s.ringQueue := rfl
@[simp] theorem putFlight_alarm (s : State) (key : Nat) (f : Flight) : (s.putFlight key f).alarm = s.alarm := rfl
@[simp] theorem putFlight_alarmStat (s : State) (key : Nat) (f : Flight) : (s.putFlight key f).alarmStat = s.alarmStat := rfl
@[simp] theorem putFlight_pmode (s : State) (key : Nat) (f : Flight) : (s.putFlight key f).pmode = s.pmode := rfl
@[simp] theorem putFlight_accepted (s : State) (key : Nat) (f : Flight) : (s.putFlight key f).accepted = s.accepted := rfl
@[simp] theorem putFlight_acceptedW (s : State) (key : Nat) (f : Flight) : (s.putFlight key f).acceptedW = s.acceptedW := rfl
@[simp] theorem putFlight_reflex (s : State) (key : Nat) (f : Flight) : (s.putFlight key f).reflex = s.reflex := rfl
@[simp] theorem putFlight_security (s : State) (key : Nat) (f : Flight) : (s.putFlight key f).security = s.security := rfl
@[simp] theorem putFlight_telemetry (s : State) (key : Nat) (f : Flight) : (s.putFlight key f).telemetry = s.telemetry := rfl
@[simp] theorem putFlight_irqs (s : State) (key : Nat) (f : Flight) : (s.putFlight key f).irqs = s.irqs := rfl
@[simp] theorem putFlight_hostReads (s : State) (key : Nat) (f : Flight) : (s.putFlight key f).hostReads = s.hostReads := rfl
@[simp] theorem putFlight_hostOps (s : State) (key : Nat) (f : Flight) : (s.putFlight key f).hostOps = s.hostOps := rfl
@[simp] theorem putFlight_time (s : State) (key : Nat) (f : Flight) : (s.putFlight key f).time = s.time := rfl
@[simp] theorem putFlight_subNs (s : State) (key : Nat) (f : Flight) : (s.putFlight key f).subNs = s.subNs := rfl
@[simp] theorem putFlight_rate (s : State) (key : Nat) (f : Flight) : (s.putFlight key f).rate = s.rate := rfl
@[simp] theorem putFlight_synced (s : State) (key : Nat) (f : Flight) : (s.putFlight key f).synced = s.synced := rfl
@[simp] theorem putFlight_cycle (s : State) (key : Nat) (f : Flight) : (s.putFlight key f).cycle = s.cycle := rfl
@[simp] theorem putFlight_inputs (s : State) (key : Nat) (f : Flight) : (s.putFlight key f).inputs = s.inputs := rfl
@[simp] theorem putFlight_choices (s : State) (key : Nat) (f : Flight) : (s.putFlight key f).choices = s.choices := rfl
@[simp] theorem putFlight_freeCtr (s : State) (key : Nat) (f : Flight) : (s.putFlight key f).freeCtr = s.freeCtr := rfl
@[simp] theorem putFlight_cur (s : State) (key : Nat) (f : Flight) : (s.putFlight key f).cur = s.cur := rfl
@[simp] theorem putFlight_hole (s : State) (key : Nat) (f : Flight) : (s.putFlight key f).hole = s.hole := rfl

/-! modFlight changes flights. -/

@[simp] theorem modFlight_mem (s : State) (key : Nat) (g : Flight → Flight) : (s.modFlight key g).mem = s.mem := rfl
@[simp] theorem modFlight_hostMem (s : State) (key : Nat) (g : Flight → Flight) : (s.modFlight key g).hostMem = s.hostMem := rfl
@[simp] theorem modFlight_placed (s : State) (key : Nat) (g : Flight → Flight) : (s.modFlight key g).placed = s.placed := rfl
@[simp] theorem modFlight_spanInPage (s : State) (key : Nat) (g : Flight → Flight) : (s.modFlight key g).spanInPage = s.spanInPage := rfl
@[simp] theorem modFlight_errors (s : State) (key : Nat) (g : Flight → Flight) : (s.modFlight key g).errors = s.errors := rfl
@[simp] theorem modFlight_hostLines (s : State) (key : Nat) (g : Flight → Flight) : (s.modFlight key g).hostLines = s.hostLines := rfl
@[simp] theorem modFlight_l1 (s : State) (key : Nat) (g : Flight → Flight) : (s.modFlight key g).l1 = s.l1 := rfl
@[simp] theorem modFlight_gather (s : State) (key : Nat) (g : Flight → Flight) : (s.modFlight key g).gather = s.gather := rfl
@[simp] theorem modFlight_descs (s : State) (key : Nat) (g : Flight → Flight) : (s.modFlight key g).descs = s.descs := rfl
@[simp] theorem modFlight_tlb (s : State) (key : Nat) (g : Flight → Flight) : (s.modFlight key g).tlb = s.tlb := rfl
@[simp] theorem modFlight_dir (s : State) (key : Nat) (g : Flight → Flight) : (s.modFlight key g).dir = s.dir := rfl
@[simp] theorem modFlight_reserved (s : State) (key : Nat) (g : Flight → Flight) : (s.modFlight key g).reserved = s.reserved := rfl
@[simp] theorem modFlight_combining (s : State) (key : Nat) (g : Flight → Flight) : (s.modFlight key g).combining = s.combining := rfl
@[simp] theorem modFlight_ctxs (s : State) (key : Nat) (g : Flight → Flight) : (s.modFlight key g).ctxs = s.ctxs := rfl
@[simp] theorem modFlight_flightSeq (s : State) (key : Nat) (g : Flight → Flight) : (s.modFlight key g).flightSeq = s.flightSeq := rfl
@[simp] theorem modFlight_launches (s : State) (key : Nat) (g : Flight → Flight) : (s.modFlight key g).launches = s.launches := rfl
@[simp] theorem modFlight_scratch (s : State) (key : Nat) (g : Flight → Flight) : (s.modFlight key g).scratch = s.scratch := rfl
@[simp] theorem modFlight_tasks (s : State) (key : Nat) (g : Flight → Flight) : (s.modFlight key g).tasks = s.tasks := rfl
@[simp] theorem modFlight_atria (s : State) (key : Nat) (g : Flight → Flight) : (s.modFlight key g).atria = s.atria := rfl
@[simp] theorem modFlight_barriers (s : State) (key : Nat) (g : Flight → Flight) : (s.modFlight key g).barriers = s.barriers := rfl
@[simp] theorem modFlight_expans (s : State) (key : Nat) (g : Flight → Flight) : (s.modFlight key g).expans = s.expans := rfl
@[simp] theorem modFlight_copies (s : State) (key : Nat) (g : Flight → Flight) : (s.modFlight key g).copies = s.copies := rfl
@[simp] theorem modFlight_copySeq (s : State) (key : Nat) (g : Flight → Flight) : (s.modFlight key g).copySeq = s.copySeq := rfl
@[simp] theorem modFlight_cmdSeq (s : State) (key : Nat) (g : Flight → Flight) : (s.modFlight key g).cmdSeq = s.cmdSeq := rfl
@[simp] theorem modFlight_growers (s : State) (key : Nat) (g : Flight → Flight) : (s.modFlight key g).growers = s.growers := rfl
@[simp] theorem modFlight_lastIssue (s : State) (key : Nat) (g : Flight → Flight) : (s.modFlight key g).lastIssue = s.lastIssue := rfl
@[simp] theorem modFlight_matBusy (s : State) (key : Nat) (g : Flight → Flight) : (s.modFlight key g).matBusy = s.matBusy := rfl
@[simp] theorem modFlight_saved (s : State) (key : Nat) (g : Flight → Flight) : (s.modFlight key g).saved = s.saved := rfl
@[simp] theorem modFlight_queues (s : State) (key : Nat) (g : Flight → Flight) : (s.modFlight key g).queues = s.queues := rfl
@[simp] theorem modFlight_round (s : State) (key : Nat) (g : Flight → Flight) : (s.modFlight key g).round = s.round := rfl
@[simp] theorem modFlight_frBase (s : State) (key : Nat) (g : Flight → Flight) : (s.modFlight key g).frBase = s.frBase := rfl
@[simp] theorem modFlight_frLog (s : State) (key : Nat) (g : Flight → Flight) : (s.modFlight key g).frLog = s.frLog := rfl
@[simp] theorem modFlight_frHead (s : State) (key : Nat) (g : Flight → Flight) : (s.modFlight key g).frHead = s.frHead := rfl
@[simp] theorem modFlight_frTail (s : State) (key : Nat) (g : Flight → Flight) : (s.modFlight key g).frTail = s.frTail := rfl
@[simp] theorem modFlight_ringQueue (s : State) (key : Nat) (g : Flight → Flight) : (s.modFlight key g).ringQueue = s.ringQueue := rfl
@[simp] theorem modFlight_alarm (s : State) (key : Nat) (g : Flight → Flight) : (s.modFlight key g).alarm = s.alarm := rfl
@[simp] theorem modFlight_alarmStat (s : State) (key : Nat) (g : Flight → Flight) : (s.modFlight key g).alarmStat = s.alarmStat := rfl
@[simp] theorem modFlight_pmode (s : State) (key : Nat) (g : Flight → Flight) : (s.modFlight key g).pmode = s.pmode := rfl
@[simp] theorem modFlight_accepted (s : State) (key : Nat) (g : Flight → Flight) : (s.modFlight key g).accepted = s.accepted := rfl
@[simp] theorem modFlight_acceptedW (s : State) (key : Nat) (g : Flight → Flight) : (s.modFlight key g).acceptedW = s.acceptedW := rfl
@[simp] theorem modFlight_reflex (s : State) (key : Nat) (g : Flight → Flight) : (s.modFlight key g).reflex = s.reflex := rfl
@[simp] theorem modFlight_security (s : State) (key : Nat) (g : Flight → Flight) : (s.modFlight key g).security = s.security := rfl
@[simp] theorem modFlight_telemetry (s : State) (key : Nat) (g : Flight → Flight) : (s.modFlight key g).telemetry = s.telemetry := rfl
@[simp] theorem modFlight_irqs (s : State) (key : Nat) (g : Flight → Flight) : (s.modFlight key g).irqs = s.irqs := rfl
@[simp] theorem modFlight_hostReads (s : State) (key : Nat) (g : Flight → Flight) : (s.modFlight key g).hostReads = s.hostReads := rfl
@[simp] theorem modFlight_hostOps (s : State) (key : Nat) (g : Flight → Flight) : (s.modFlight key g).hostOps = s.hostOps := rfl
@[simp] theorem modFlight_time (s : State) (key : Nat) (g : Flight → Flight) : (s.modFlight key g).time = s.time := rfl
@[simp] theorem modFlight_subNs (s : State) (key : Nat) (g : Flight → Flight) : (s.modFlight key g).subNs = s.subNs := rfl
@[simp] theorem modFlight_rate (s : State) (key : Nat) (g : Flight → Flight) : (s.modFlight key g).rate = s.rate := rfl
@[simp] theorem modFlight_synced (s : State) (key : Nat) (g : Flight → Flight) : (s.modFlight key g).synced = s.synced := rfl
@[simp] theorem modFlight_cycle (s : State) (key : Nat) (g : Flight → Flight) : (s.modFlight key g).cycle = s.cycle := rfl
@[simp] theorem modFlight_inputs (s : State) (key : Nat) (g : Flight → Flight) : (s.modFlight key g).inputs = s.inputs := rfl
@[simp] theorem modFlight_choices (s : State) (key : Nat) (g : Flight → Flight) : (s.modFlight key g).choices = s.choices := rfl
@[simp] theorem modFlight_freeCtr (s : State) (key : Nat) (g : Flight → Flight) : (s.modFlight key g).freeCtr = s.freeCtr := rfl
@[simp] theorem modFlight_cur (s : State) (key : Nat) (g : Flight → Flight) : (s.modFlight key g).cur = s.cur := rfl
@[simp] theorem modFlight_hole (s : State) (key : Nat) (g : Flight → Flight) : (s.modFlight key g).hole = s.hole := rfl

/-! modLaunch changes launches. -/

@[simp] theorem modLaunch_mem (s : State) (w : Nat) (g : Launch → Launch) : (s.modLaunch w g).mem = s.mem := rfl
@[simp] theorem modLaunch_hostMem (s : State) (w : Nat) (g : Launch → Launch) : (s.modLaunch w g).hostMem = s.hostMem := rfl
@[simp] theorem modLaunch_placed (s : State) (w : Nat) (g : Launch → Launch) : (s.modLaunch w g).placed = s.placed := rfl
@[simp] theorem modLaunch_spanInPage (s : State) (w : Nat) (g : Launch → Launch) : (s.modLaunch w g).spanInPage = s.spanInPage := rfl
@[simp] theorem modLaunch_errors (s : State) (w : Nat) (g : Launch → Launch) : (s.modLaunch w g).errors = s.errors := rfl
@[simp] theorem modLaunch_hostLines (s : State) (w : Nat) (g : Launch → Launch) : (s.modLaunch w g).hostLines = s.hostLines := rfl
@[simp] theorem modLaunch_l1 (s : State) (w : Nat) (g : Launch → Launch) : (s.modLaunch w g).l1 = s.l1 := rfl
@[simp] theorem modLaunch_gather (s : State) (w : Nat) (g : Launch → Launch) : (s.modLaunch w g).gather = s.gather := rfl
@[simp] theorem modLaunch_descs (s : State) (w : Nat) (g : Launch → Launch) : (s.modLaunch w g).descs = s.descs := rfl
@[simp] theorem modLaunch_tlb (s : State) (w : Nat) (g : Launch → Launch) : (s.modLaunch w g).tlb = s.tlb := rfl
@[simp] theorem modLaunch_dir (s : State) (w : Nat) (g : Launch → Launch) : (s.modLaunch w g).dir = s.dir := rfl
@[simp] theorem modLaunch_reserved (s : State) (w : Nat) (g : Launch → Launch) : (s.modLaunch w g).reserved = s.reserved := rfl
@[simp] theorem modLaunch_combining (s : State) (w : Nat) (g : Launch → Launch) : (s.modLaunch w g).combining = s.combining := rfl
@[simp] theorem modLaunch_ctxs (s : State) (w : Nat) (g : Launch → Launch) : (s.modLaunch w g).ctxs = s.ctxs := rfl
@[simp] theorem modLaunch_flights (s : State) (w : Nat) (g : Launch → Launch) : (s.modLaunch w g).flights = s.flights := rfl
@[simp] theorem modLaunch_flightSeq (s : State) (w : Nat) (g : Launch → Launch) : (s.modLaunch w g).flightSeq = s.flightSeq := rfl
@[simp] theorem modLaunch_scratch (s : State) (w : Nat) (g : Launch → Launch) : (s.modLaunch w g).scratch = s.scratch := rfl
@[simp] theorem modLaunch_tasks (s : State) (w : Nat) (g : Launch → Launch) : (s.modLaunch w g).tasks = s.tasks := rfl
@[simp] theorem modLaunch_atria (s : State) (w : Nat) (g : Launch → Launch) : (s.modLaunch w g).atria = s.atria := rfl
@[simp] theorem modLaunch_barriers (s : State) (w : Nat) (g : Launch → Launch) : (s.modLaunch w g).barriers = s.barriers := rfl
@[simp] theorem modLaunch_expans (s : State) (w : Nat) (g : Launch → Launch) : (s.modLaunch w g).expans = s.expans := rfl
@[simp] theorem modLaunch_copies (s : State) (w : Nat) (g : Launch → Launch) : (s.modLaunch w g).copies = s.copies := rfl
@[simp] theorem modLaunch_copySeq (s : State) (w : Nat) (g : Launch → Launch) : (s.modLaunch w g).copySeq = s.copySeq := rfl
@[simp] theorem modLaunch_cmdSeq (s : State) (w : Nat) (g : Launch → Launch) : (s.modLaunch w g).cmdSeq = s.cmdSeq := rfl
@[simp] theorem modLaunch_growers (s : State) (w : Nat) (g : Launch → Launch) : (s.modLaunch w g).growers = s.growers := rfl
@[simp] theorem modLaunch_lastIssue (s : State) (w : Nat) (g : Launch → Launch) : (s.modLaunch w g).lastIssue = s.lastIssue := rfl
@[simp] theorem modLaunch_matBusy (s : State) (w : Nat) (g : Launch → Launch) : (s.modLaunch w g).matBusy = s.matBusy := rfl
@[simp] theorem modLaunch_saved (s : State) (w : Nat) (g : Launch → Launch) : (s.modLaunch w g).saved = s.saved := rfl
@[simp] theorem modLaunch_queues (s : State) (w : Nat) (g : Launch → Launch) : (s.modLaunch w g).queues = s.queues := rfl
@[simp] theorem modLaunch_round (s : State) (w : Nat) (g : Launch → Launch) : (s.modLaunch w g).round = s.round := rfl
@[simp] theorem modLaunch_frBase (s : State) (w : Nat) (g : Launch → Launch) : (s.modLaunch w g).frBase = s.frBase := rfl
@[simp] theorem modLaunch_frLog (s : State) (w : Nat) (g : Launch → Launch) : (s.modLaunch w g).frLog = s.frLog := rfl
@[simp] theorem modLaunch_frHead (s : State) (w : Nat) (g : Launch → Launch) : (s.modLaunch w g).frHead = s.frHead := rfl
@[simp] theorem modLaunch_frTail (s : State) (w : Nat) (g : Launch → Launch) : (s.modLaunch w g).frTail = s.frTail := rfl
@[simp] theorem modLaunch_ringQueue (s : State) (w : Nat) (g : Launch → Launch) : (s.modLaunch w g).ringQueue = s.ringQueue := rfl
@[simp] theorem modLaunch_alarm (s : State) (w : Nat) (g : Launch → Launch) : (s.modLaunch w g).alarm = s.alarm := rfl
@[simp] theorem modLaunch_alarmStat (s : State) (w : Nat) (g : Launch → Launch) : (s.modLaunch w g).alarmStat = s.alarmStat := rfl
@[simp] theorem modLaunch_pmode (s : State) (w : Nat) (g : Launch → Launch) : (s.modLaunch w g).pmode = s.pmode := rfl
@[simp] theorem modLaunch_accepted (s : State) (w : Nat) (g : Launch → Launch) : (s.modLaunch w g).accepted = s.accepted := rfl
@[simp] theorem modLaunch_acceptedW (s : State) (w : Nat) (g : Launch → Launch) : (s.modLaunch w g).acceptedW = s.acceptedW := rfl
@[simp] theorem modLaunch_reflex (s : State) (w : Nat) (g : Launch → Launch) : (s.modLaunch w g).reflex = s.reflex := rfl
@[simp] theorem modLaunch_security (s : State) (w : Nat) (g : Launch → Launch) : (s.modLaunch w g).security = s.security := rfl
@[simp] theorem modLaunch_telemetry (s : State) (w : Nat) (g : Launch → Launch) : (s.modLaunch w g).telemetry = s.telemetry := rfl
@[simp] theorem modLaunch_irqs (s : State) (w : Nat) (g : Launch → Launch) : (s.modLaunch w g).irqs = s.irqs := rfl
@[simp] theorem modLaunch_hostReads (s : State) (w : Nat) (g : Launch → Launch) : (s.modLaunch w g).hostReads = s.hostReads := rfl
@[simp] theorem modLaunch_hostOps (s : State) (w : Nat) (g : Launch → Launch) : (s.modLaunch w g).hostOps = s.hostOps := rfl
@[simp] theorem modLaunch_time (s : State) (w : Nat) (g : Launch → Launch) : (s.modLaunch w g).time = s.time := rfl
@[simp] theorem modLaunch_subNs (s : State) (w : Nat) (g : Launch → Launch) : (s.modLaunch w g).subNs = s.subNs := rfl
@[simp] theorem modLaunch_rate (s : State) (w : Nat) (g : Launch → Launch) : (s.modLaunch w g).rate = s.rate := rfl
@[simp] theorem modLaunch_synced (s : State) (w : Nat) (g : Launch → Launch) : (s.modLaunch w g).synced = s.synced := rfl
@[simp] theorem modLaunch_cycle (s : State) (w : Nat) (g : Launch → Launch) : (s.modLaunch w g).cycle = s.cycle := rfl
@[simp] theorem modLaunch_inputs (s : State) (w : Nat) (g : Launch → Launch) : (s.modLaunch w g).inputs = s.inputs := rfl
@[simp] theorem modLaunch_choices (s : State) (w : Nat) (g : Launch → Launch) : (s.modLaunch w g).choices = s.choices := rfl
@[simp] theorem modLaunch_freeCtr (s : State) (w : Nat) (g : Launch → Launch) : (s.modLaunch w g).freeCtr = s.freeCtr := rfl
@[simp] theorem modLaunch_cur (s : State) (w : Nat) (g : Launch → Launch) : (s.modLaunch w g).cur = s.cur := rfl
@[simp] theorem modLaunch_hole (s : State) (w : Nat) (g : Launch → Launch) : (s.modLaunch w g).hole = s.hole := rfl

/-! setQueue changes queues. -/

@[simp] theorem setQueue_mem (s : State) (q : Nat) (x : Queue) : (s.setQueue q x).mem = s.mem := rfl
@[simp] theorem setQueue_hostMem (s : State) (q : Nat) (x : Queue) : (s.setQueue q x).hostMem = s.hostMem := rfl
@[simp] theorem setQueue_placed (s : State) (q : Nat) (x : Queue) : (s.setQueue q x).placed = s.placed := rfl
@[simp] theorem setQueue_spanInPage (s : State) (q : Nat) (x : Queue) : (s.setQueue q x).spanInPage = s.spanInPage := rfl
@[simp] theorem setQueue_errors (s : State) (q : Nat) (x : Queue) : (s.setQueue q x).errors = s.errors := rfl
@[simp] theorem setQueue_hostLines (s : State) (q : Nat) (x : Queue) : (s.setQueue q x).hostLines = s.hostLines := rfl
@[simp] theorem setQueue_l1 (s : State) (q : Nat) (x : Queue) : (s.setQueue q x).l1 = s.l1 := rfl
@[simp] theorem setQueue_gather (s : State) (q : Nat) (x : Queue) : (s.setQueue q x).gather = s.gather := rfl
@[simp] theorem setQueue_descs (s : State) (q : Nat) (x : Queue) : (s.setQueue q x).descs = s.descs := rfl
@[simp] theorem setQueue_tlb (s : State) (q : Nat) (x : Queue) : (s.setQueue q x).tlb = s.tlb := rfl
@[simp] theorem setQueue_dir (s : State) (q : Nat) (x : Queue) : (s.setQueue q x).dir = s.dir := rfl
@[simp] theorem setQueue_reserved (s : State) (q : Nat) (x : Queue) : (s.setQueue q x).reserved = s.reserved := rfl
@[simp] theorem setQueue_combining (s : State) (q : Nat) (x : Queue) : (s.setQueue q x).combining = s.combining := rfl
@[simp] theorem setQueue_ctxs (s : State) (q : Nat) (x : Queue) : (s.setQueue q x).ctxs = s.ctxs := rfl
@[simp] theorem setQueue_flights (s : State) (q : Nat) (x : Queue) : (s.setQueue q x).flights = s.flights := rfl
@[simp] theorem setQueue_flightSeq (s : State) (q : Nat) (x : Queue) : (s.setQueue q x).flightSeq = s.flightSeq := rfl
@[simp] theorem setQueue_launches (s : State) (q : Nat) (x : Queue) : (s.setQueue q x).launches = s.launches := rfl
@[simp] theorem setQueue_scratch (s : State) (q : Nat) (x : Queue) : (s.setQueue q x).scratch = s.scratch := rfl
@[simp] theorem setQueue_tasks (s : State) (q : Nat) (x : Queue) : (s.setQueue q x).tasks = s.tasks := rfl
@[simp] theorem setQueue_atria (s : State) (q : Nat) (x : Queue) : (s.setQueue q x).atria = s.atria := rfl
@[simp] theorem setQueue_barriers (s : State) (q : Nat) (x : Queue) : (s.setQueue q x).barriers = s.barriers := rfl
@[simp] theorem setQueue_expans (s : State) (q : Nat) (x : Queue) : (s.setQueue q x).expans = s.expans := rfl
@[simp] theorem setQueue_copies (s : State) (q : Nat) (x : Queue) : (s.setQueue q x).copies = s.copies := rfl
@[simp] theorem setQueue_copySeq (s : State) (q : Nat) (x : Queue) : (s.setQueue q x).copySeq = s.copySeq := rfl
@[simp] theorem setQueue_cmdSeq (s : State) (q : Nat) (x : Queue) : (s.setQueue q x).cmdSeq = s.cmdSeq := rfl
@[simp] theorem setQueue_growers (s : State) (q : Nat) (x : Queue) : (s.setQueue q x).growers = s.growers := rfl
@[simp] theorem setQueue_lastIssue (s : State) (q : Nat) (x : Queue) : (s.setQueue q x).lastIssue = s.lastIssue := rfl
@[simp] theorem setQueue_matBusy (s : State) (q : Nat) (x : Queue) : (s.setQueue q x).matBusy = s.matBusy := rfl
@[simp] theorem setQueue_saved (s : State) (q : Nat) (x : Queue) : (s.setQueue q x).saved = s.saved := rfl
@[simp] theorem setQueue_round (s : State) (q : Nat) (x : Queue) : (s.setQueue q x).round = s.round := rfl
@[simp] theorem setQueue_frBase (s : State) (q : Nat) (x : Queue) : (s.setQueue q x).frBase = s.frBase := rfl
@[simp] theorem setQueue_frLog (s : State) (q : Nat) (x : Queue) : (s.setQueue q x).frLog = s.frLog := rfl
@[simp] theorem setQueue_frHead (s : State) (q : Nat) (x : Queue) : (s.setQueue q x).frHead = s.frHead := rfl
@[simp] theorem setQueue_frTail (s : State) (q : Nat) (x : Queue) : (s.setQueue q x).frTail = s.frTail := rfl
@[simp] theorem setQueue_ringQueue (s : State) (q : Nat) (x : Queue) : (s.setQueue q x).ringQueue = s.ringQueue := rfl
@[simp] theorem setQueue_alarm (s : State) (q : Nat) (x : Queue) : (s.setQueue q x).alarm = s.alarm := rfl
@[simp] theorem setQueue_alarmStat (s : State) (q : Nat) (x : Queue) : (s.setQueue q x).alarmStat = s.alarmStat := rfl
@[simp] theorem setQueue_pmode (s : State) (q : Nat) (x : Queue) : (s.setQueue q x).pmode = s.pmode := rfl
@[simp] theorem setQueue_accepted (s : State) (q : Nat) (x : Queue) : (s.setQueue q x).accepted = s.accepted := rfl
@[simp] theorem setQueue_acceptedW (s : State) (q : Nat) (x : Queue) : (s.setQueue q x).acceptedW = s.acceptedW := rfl
@[simp] theorem setQueue_reflex (s : State) (q : Nat) (x : Queue) : (s.setQueue q x).reflex = s.reflex := rfl
@[simp] theorem setQueue_security (s : State) (q : Nat) (x : Queue) : (s.setQueue q x).security = s.security := rfl
@[simp] theorem setQueue_telemetry (s : State) (q : Nat) (x : Queue) : (s.setQueue q x).telemetry = s.telemetry := rfl
@[simp] theorem setQueue_irqs (s : State) (q : Nat) (x : Queue) : (s.setQueue q x).irqs = s.irqs := rfl
@[simp] theorem setQueue_hostReads (s : State) (q : Nat) (x : Queue) : (s.setQueue q x).hostReads = s.hostReads := rfl
@[simp] theorem setQueue_hostOps (s : State) (q : Nat) (x : Queue) : (s.setQueue q x).hostOps = s.hostOps := rfl
@[simp] theorem setQueue_time (s : State) (q : Nat) (x : Queue) : (s.setQueue q x).time = s.time := rfl
@[simp] theorem setQueue_subNs (s : State) (q : Nat) (x : Queue) : (s.setQueue q x).subNs = s.subNs := rfl
@[simp] theorem setQueue_rate (s : State) (q : Nat) (x : Queue) : (s.setQueue q x).rate = s.rate := rfl
@[simp] theorem setQueue_synced (s : State) (q : Nat) (x : Queue) : (s.setQueue q x).synced = s.synced := rfl
@[simp] theorem setQueue_cycle (s : State) (q : Nat) (x : Queue) : (s.setQueue q x).cycle = s.cycle := rfl
@[simp] theorem setQueue_inputs (s : State) (q : Nat) (x : Queue) : (s.setQueue q x).inputs = s.inputs := rfl
@[simp] theorem setQueue_choices (s : State) (q : Nat) (x : Queue) : (s.setQueue q x).choices = s.choices := rfl
@[simp] theorem setQueue_freeCtr (s : State) (q : Nat) (x : Queue) : (s.setQueue q x).freeCtr = s.freeCtr := rfl
@[simp] theorem setQueue_cur (s : State) (q : Nat) (x : Queue) : (s.setQueue q x).cur = s.cur := rfl
@[simp] theorem setQueue_hole (s : State) (q : Nat) (x : Queue) : (s.setQueue q x).hole = s.hole := rfl

/-! setScr changes scratch. -/

@[simp] theorem setScr_mem (s : State) (core : Nat) (c : Cells 8) : (s.setScr core c).mem = s.mem := rfl
@[simp] theorem setScr_hostMem (s : State) (core : Nat) (c : Cells 8) : (s.setScr core c).hostMem = s.hostMem := rfl
@[simp] theorem setScr_placed (s : State) (core : Nat) (c : Cells 8) : (s.setScr core c).placed = s.placed := rfl
@[simp] theorem setScr_spanInPage (s : State) (core : Nat) (c : Cells 8) : (s.setScr core c).spanInPage = s.spanInPage := rfl
@[simp] theorem setScr_errors (s : State) (core : Nat) (c : Cells 8) : (s.setScr core c).errors = s.errors := rfl
@[simp] theorem setScr_hostLines (s : State) (core : Nat) (c : Cells 8) : (s.setScr core c).hostLines = s.hostLines := rfl
@[simp] theorem setScr_l1 (s : State) (core : Nat) (c : Cells 8) : (s.setScr core c).l1 = s.l1 := rfl
@[simp] theorem setScr_gather (s : State) (core : Nat) (c : Cells 8) : (s.setScr core c).gather = s.gather := rfl
@[simp] theorem setScr_descs (s : State) (core : Nat) (c : Cells 8) : (s.setScr core c).descs = s.descs := rfl
@[simp] theorem setScr_tlb (s : State) (core : Nat) (c : Cells 8) : (s.setScr core c).tlb = s.tlb := rfl
@[simp] theorem setScr_dir (s : State) (core : Nat) (c : Cells 8) : (s.setScr core c).dir = s.dir := rfl
@[simp] theorem setScr_reserved (s : State) (core : Nat) (c : Cells 8) : (s.setScr core c).reserved = s.reserved := rfl
@[simp] theorem setScr_combining (s : State) (core : Nat) (c : Cells 8) : (s.setScr core c).combining = s.combining := rfl
@[simp] theorem setScr_ctxs (s : State) (core : Nat) (c : Cells 8) : (s.setScr core c).ctxs = s.ctxs := rfl
@[simp] theorem setScr_flights (s : State) (core : Nat) (c : Cells 8) : (s.setScr core c).flights = s.flights := rfl
@[simp] theorem setScr_flightSeq (s : State) (core : Nat) (c : Cells 8) : (s.setScr core c).flightSeq = s.flightSeq := rfl
@[simp] theorem setScr_launches (s : State) (core : Nat) (c : Cells 8) : (s.setScr core c).launches = s.launches := rfl
@[simp] theorem setScr_tasks (s : State) (core : Nat) (c : Cells 8) : (s.setScr core c).tasks = s.tasks := rfl
@[simp] theorem setScr_atria (s : State) (core : Nat) (c : Cells 8) : (s.setScr core c).atria = s.atria := rfl
@[simp] theorem setScr_barriers (s : State) (core : Nat) (c : Cells 8) : (s.setScr core c).barriers = s.barriers := rfl
@[simp] theorem setScr_expans (s : State) (core : Nat) (c : Cells 8) : (s.setScr core c).expans = s.expans := rfl
@[simp] theorem setScr_copies (s : State) (core : Nat) (c : Cells 8) : (s.setScr core c).copies = s.copies := rfl
@[simp] theorem setScr_copySeq (s : State) (core : Nat) (c : Cells 8) : (s.setScr core c).copySeq = s.copySeq := rfl
@[simp] theorem setScr_cmdSeq (s : State) (core : Nat) (c : Cells 8) : (s.setScr core c).cmdSeq = s.cmdSeq := rfl
@[simp] theorem setScr_growers (s : State) (core : Nat) (c : Cells 8) : (s.setScr core c).growers = s.growers := rfl
@[simp] theorem setScr_lastIssue (s : State) (core : Nat) (c : Cells 8) : (s.setScr core c).lastIssue = s.lastIssue := rfl
@[simp] theorem setScr_matBusy (s : State) (core : Nat) (c : Cells 8) : (s.setScr core c).matBusy = s.matBusy := rfl
@[simp] theorem setScr_saved (s : State) (core : Nat) (c : Cells 8) : (s.setScr core c).saved = s.saved := rfl
@[simp] theorem setScr_queues (s : State) (core : Nat) (c : Cells 8) : (s.setScr core c).queues = s.queues := rfl
@[simp] theorem setScr_round (s : State) (core : Nat) (c : Cells 8) : (s.setScr core c).round = s.round := rfl
@[simp] theorem setScr_frBase (s : State) (core : Nat) (c : Cells 8) : (s.setScr core c).frBase = s.frBase := rfl
@[simp] theorem setScr_frLog (s : State) (core : Nat) (c : Cells 8) : (s.setScr core c).frLog = s.frLog := rfl
@[simp] theorem setScr_frHead (s : State) (core : Nat) (c : Cells 8) : (s.setScr core c).frHead = s.frHead := rfl
@[simp] theorem setScr_frTail (s : State) (core : Nat) (c : Cells 8) : (s.setScr core c).frTail = s.frTail := rfl
@[simp] theorem setScr_ringQueue (s : State) (core : Nat) (c : Cells 8) : (s.setScr core c).ringQueue = s.ringQueue := rfl
@[simp] theorem setScr_alarm (s : State) (core : Nat) (c : Cells 8) : (s.setScr core c).alarm = s.alarm := rfl
@[simp] theorem setScr_alarmStat (s : State) (core : Nat) (c : Cells 8) : (s.setScr core c).alarmStat = s.alarmStat := rfl
@[simp] theorem setScr_pmode (s : State) (core : Nat) (c : Cells 8) : (s.setScr core c).pmode = s.pmode := rfl
@[simp] theorem setScr_accepted (s : State) (core : Nat) (c : Cells 8) : (s.setScr core c).accepted = s.accepted := rfl
@[simp] theorem setScr_acceptedW (s : State) (core : Nat) (c : Cells 8) : (s.setScr core c).acceptedW = s.acceptedW := rfl
@[simp] theorem setScr_reflex (s : State) (core : Nat) (c : Cells 8) : (s.setScr core c).reflex = s.reflex := rfl
@[simp] theorem setScr_security (s : State) (core : Nat) (c : Cells 8) : (s.setScr core c).security = s.security := rfl
@[simp] theorem setScr_telemetry (s : State) (core : Nat) (c : Cells 8) : (s.setScr core c).telemetry = s.telemetry := rfl
@[simp] theorem setScr_irqs (s : State) (core : Nat) (c : Cells 8) : (s.setScr core c).irqs = s.irqs := rfl
@[simp] theorem setScr_hostReads (s : State) (core : Nat) (c : Cells 8) : (s.setScr core c).hostReads = s.hostReads := rfl
@[simp] theorem setScr_hostOps (s : State) (core : Nat) (c : Cells 8) : (s.setScr core c).hostOps = s.hostOps := rfl
@[simp] theorem setScr_time (s : State) (core : Nat) (c : Cells 8) : (s.setScr core c).time = s.time := rfl
@[simp] theorem setScr_subNs (s : State) (core : Nat) (c : Cells 8) : (s.setScr core c).subNs = s.subNs := rfl
@[simp] theorem setScr_rate (s : State) (core : Nat) (c : Cells 8) : (s.setScr core c).rate = s.rate := rfl
@[simp] theorem setScr_synced (s : State) (core : Nat) (c : Cells 8) : (s.setScr core c).synced = s.synced := rfl
@[simp] theorem setScr_cycle (s : State) (core : Nat) (c : Cells 8) : (s.setScr core c).cycle = s.cycle := rfl
@[simp] theorem setScr_inputs (s : State) (core : Nat) (c : Cells 8) : (s.setScr core c).inputs = s.inputs := rfl
@[simp] theorem setScr_choices (s : State) (core : Nat) (c : Cells 8) : (s.setScr core c).choices = s.choices := rfl
@[simp] theorem setScr_freeCtr (s : State) (core : Nat) (c : Cells 8) : (s.setScr core c).freeCtr = s.freeCtr := rfl
@[simp] theorem setScr_cur (s : State) (core : Nat) (c : Cells 8) : (s.setScr core c).cur = s.cur := rfl
@[simp] theorem setScr_hole (s : State) (core : Nat) (c : Cells 8) : (s.setScr core c).hole = s.hole := rfl

/-! leaveAll changes barriers. -/

@[simp] theorem leaveAll_mem (s : State) (key : Nat) (m : Mask) : (s.leaveAll key m).mem = s.mem := rfl
@[simp] theorem leaveAll_hostMem (s : State) (key : Nat) (m : Mask) : (s.leaveAll key m).hostMem = s.hostMem := rfl
@[simp] theorem leaveAll_placed (s : State) (key : Nat) (m : Mask) : (s.leaveAll key m).placed = s.placed := rfl
@[simp] theorem leaveAll_spanInPage (s : State) (key : Nat) (m : Mask) : (s.leaveAll key m).spanInPage = s.spanInPage := rfl
@[simp] theorem leaveAll_errors (s : State) (key : Nat) (m : Mask) : (s.leaveAll key m).errors = s.errors := rfl
@[simp] theorem leaveAll_hostLines (s : State) (key : Nat) (m : Mask) : (s.leaveAll key m).hostLines = s.hostLines := rfl
@[simp] theorem leaveAll_l1 (s : State) (key : Nat) (m : Mask) : (s.leaveAll key m).l1 = s.l1 := rfl
@[simp] theorem leaveAll_gather (s : State) (key : Nat) (m : Mask) : (s.leaveAll key m).gather = s.gather := rfl
@[simp] theorem leaveAll_descs (s : State) (key : Nat) (m : Mask) : (s.leaveAll key m).descs = s.descs := rfl
@[simp] theorem leaveAll_tlb (s : State) (key : Nat) (m : Mask) : (s.leaveAll key m).tlb = s.tlb := rfl
@[simp] theorem leaveAll_dir (s : State) (key : Nat) (m : Mask) : (s.leaveAll key m).dir = s.dir := rfl
@[simp] theorem leaveAll_reserved (s : State) (key : Nat) (m : Mask) : (s.leaveAll key m).reserved = s.reserved := rfl
@[simp] theorem leaveAll_combining (s : State) (key : Nat) (m : Mask) : (s.leaveAll key m).combining = s.combining := rfl
@[simp] theorem leaveAll_ctxs (s : State) (key : Nat) (m : Mask) : (s.leaveAll key m).ctxs = s.ctxs := rfl
@[simp] theorem leaveAll_flights (s : State) (key : Nat) (m : Mask) : (s.leaveAll key m).flights = s.flights := rfl
@[simp] theorem leaveAll_flightSeq (s : State) (key : Nat) (m : Mask) : (s.leaveAll key m).flightSeq = s.flightSeq := rfl
@[simp] theorem leaveAll_launches (s : State) (key : Nat) (m : Mask) : (s.leaveAll key m).launches = s.launches := rfl
@[simp] theorem leaveAll_scratch (s : State) (key : Nat) (m : Mask) : (s.leaveAll key m).scratch = s.scratch := rfl
@[simp] theorem leaveAll_tasks (s : State) (key : Nat) (m : Mask) : (s.leaveAll key m).tasks = s.tasks := rfl
@[simp] theorem leaveAll_atria (s : State) (key : Nat) (m : Mask) : (s.leaveAll key m).atria = s.atria := rfl
@[simp] theorem leaveAll_expans (s : State) (key : Nat) (m : Mask) : (s.leaveAll key m).expans = s.expans := rfl
@[simp] theorem leaveAll_copies (s : State) (key : Nat) (m : Mask) : (s.leaveAll key m).copies = s.copies := rfl
@[simp] theorem leaveAll_copySeq (s : State) (key : Nat) (m : Mask) : (s.leaveAll key m).copySeq = s.copySeq := rfl
@[simp] theorem leaveAll_cmdSeq (s : State) (key : Nat) (m : Mask) : (s.leaveAll key m).cmdSeq = s.cmdSeq := rfl
@[simp] theorem leaveAll_growers (s : State) (key : Nat) (m : Mask) : (s.leaveAll key m).growers = s.growers := rfl
@[simp] theorem leaveAll_lastIssue (s : State) (key : Nat) (m : Mask) : (s.leaveAll key m).lastIssue = s.lastIssue := rfl
@[simp] theorem leaveAll_matBusy (s : State) (key : Nat) (m : Mask) : (s.leaveAll key m).matBusy = s.matBusy := rfl
@[simp] theorem leaveAll_saved (s : State) (key : Nat) (m : Mask) : (s.leaveAll key m).saved = s.saved := rfl
@[simp] theorem leaveAll_queues (s : State) (key : Nat) (m : Mask) : (s.leaveAll key m).queues = s.queues := rfl
@[simp] theorem leaveAll_round (s : State) (key : Nat) (m : Mask) : (s.leaveAll key m).round = s.round := rfl
@[simp] theorem leaveAll_frBase (s : State) (key : Nat) (m : Mask) : (s.leaveAll key m).frBase = s.frBase := rfl
@[simp] theorem leaveAll_frLog (s : State) (key : Nat) (m : Mask) : (s.leaveAll key m).frLog = s.frLog := rfl
@[simp] theorem leaveAll_frHead (s : State) (key : Nat) (m : Mask) : (s.leaveAll key m).frHead = s.frHead := rfl
@[simp] theorem leaveAll_frTail (s : State) (key : Nat) (m : Mask) : (s.leaveAll key m).frTail = s.frTail := rfl
@[simp] theorem leaveAll_ringQueue (s : State) (key : Nat) (m : Mask) : (s.leaveAll key m).ringQueue = s.ringQueue := rfl
@[simp] theorem leaveAll_alarm (s : State) (key : Nat) (m : Mask) : (s.leaveAll key m).alarm = s.alarm := rfl
@[simp] theorem leaveAll_alarmStat (s : State) (key : Nat) (m : Mask) : (s.leaveAll key m).alarmStat = s.alarmStat := rfl
@[simp] theorem leaveAll_pmode (s : State) (key : Nat) (m : Mask) : (s.leaveAll key m).pmode = s.pmode := rfl
@[simp] theorem leaveAll_accepted (s : State) (key : Nat) (m : Mask) : (s.leaveAll key m).accepted = s.accepted := rfl
@[simp] theorem leaveAll_acceptedW (s : State) (key : Nat) (m : Mask) : (s.leaveAll key m).acceptedW = s.acceptedW := rfl
@[simp] theorem leaveAll_reflex (s : State) (key : Nat) (m : Mask) : (s.leaveAll key m).reflex = s.reflex := rfl
@[simp] theorem leaveAll_security (s : State) (key : Nat) (m : Mask) : (s.leaveAll key m).security = s.security := rfl
@[simp] theorem leaveAll_telemetry (s : State) (key : Nat) (m : Mask) : (s.leaveAll key m).telemetry = s.telemetry := rfl
@[simp] theorem leaveAll_irqs (s : State) (key : Nat) (m : Mask) : (s.leaveAll key m).irqs = s.irqs := rfl
@[simp] theorem leaveAll_hostReads (s : State) (key : Nat) (m : Mask) : (s.leaveAll key m).hostReads = s.hostReads := rfl
@[simp] theorem leaveAll_hostOps (s : State) (key : Nat) (m : Mask) : (s.leaveAll key m).hostOps = s.hostOps := rfl
@[simp] theorem leaveAll_time (s : State) (key : Nat) (m : Mask) : (s.leaveAll key m).time = s.time := rfl
@[simp] theorem leaveAll_subNs (s : State) (key : Nat) (m : Mask) : (s.leaveAll key m).subNs = s.subNs := rfl
@[simp] theorem leaveAll_rate (s : State) (key : Nat) (m : Mask) : (s.leaveAll key m).rate = s.rate := rfl
@[simp] theorem leaveAll_synced (s : State) (key : Nat) (m : Mask) : (s.leaveAll key m).synced = s.synced := rfl
@[simp] theorem leaveAll_cycle (s : State) (key : Nat) (m : Mask) : (s.leaveAll key m).cycle = s.cycle := rfl
@[simp] theorem leaveAll_inputs (s : State) (key : Nat) (m : Mask) : (s.leaveAll key m).inputs = s.inputs := rfl
@[simp] theorem leaveAll_choices (s : State) (key : Nat) (m : Mask) : (s.leaveAll key m).choices = s.choices := rfl
@[simp] theorem leaveAll_freeCtr (s : State) (key : Nat) (m : Mask) : (s.leaveAll key m).freeCtr = s.freeCtr := rfl
@[simp] theorem leaveAll_cur (s : State) (key : Nat) (m : Mask) : (s.leaveAll key m).cur = s.cur := rfl
@[simp] theorem leaveAll_hole (s : State) (key : Nat) (m : Mask) : (s.leaveAll key m).hole = s.hole := rfl

/-! tick changes cycle, time, subNs. -/

@[simp] theorem tick_mem (s : State) : (s.tick).mem = s.mem := rfl
@[simp] theorem tick_hostMem (s : State) : (s.tick).hostMem = s.hostMem := rfl
@[simp] theorem tick_placed (s : State) : (s.tick).placed = s.placed := rfl
@[simp] theorem tick_spanInPage (s : State) : (s.tick).spanInPage = s.spanInPage := rfl
@[simp] theorem tick_errors (s : State) : (s.tick).errors = s.errors := rfl
@[simp] theorem tick_hostLines (s : State) : (s.tick).hostLines = s.hostLines := rfl
@[simp] theorem tick_l1 (s : State) : (s.tick).l1 = s.l1 := rfl
@[simp] theorem tick_gather (s : State) : (s.tick).gather = s.gather := rfl
@[simp] theorem tick_descs (s : State) : (s.tick).descs = s.descs := rfl
@[simp] theorem tick_tlb (s : State) : (s.tick).tlb = s.tlb := rfl
@[simp] theorem tick_dir (s : State) : (s.tick).dir = s.dir := rfl
@[simp] theorem tick_reserved (s : State) : (s.tick).reserved = s.reserved := rfl
@[simp] theorem tick_combining (s : State) : (s.tick).combining = s.combining := rfl
@[simp] theorem tick_ctxs (s : State) : (s.tick).ctxs = s.ctxs := rfl
@[simp] theorem tick_flights (s : State) : (s.tick).flights = s.flights := rfl
@[simp] theorem tick_flightSeq (s : State) : (s.tick).flightSeq = s.flightSeq := rfl
@[simp] theorem tick_launches (s : State) : (s.tick).launches = s.launches := rfl
@[simp] theorem tick_scratch (s : State) : (s.tick).scratch = s.scratch := rfl
@[simp] theorem tick_tasks (s : State) : (s.tick).tasks = s.tasks := rfl
@[simp] theorem tick_atria (s : State) : (s.tick).atria = s.atria := rfl
@[simp] theorem tick_barriers (s : State) : (s.tick).barriers = s.barriers := rfl
@[simp] theorem tick_expans (s : State) : (s.tick).expans = s.expans := rfl
@[simp] theorem tick_copies (s : State) : (s.tick).copies = s.copies := rfl
@[simp] theorem tick_copySeq (s : State) : (s.tick).copySeq = s.copySeq := rfl
@[simp] theorem tick_cmdSeq (s : State) : (s.tick).cmdSeq = s.cmdSeq := rfl
@[simp] theorem tick_growers (s : State) : (s.tick).growers = s.growers := rfl
@[simp] theorem tick_lastIssue (s : State) : (s.tick).lastIssue = s.lastIssue := rfl
@[simp] theorem tick_matBusy (s : State) : (s.tick).matBusy = s.matBusy := rfl
@[simp] theorem tick_saved (s : State) : (s.tick).saved = s.saved := rfl
@[simp] theorem tick_queues (s : State) : (s.tick).queues = s.queues := rfl
@[simp] theorem tick_round (s : State) : (s.tick).round = s.round := rfl
@[simp] theorem tick_frBase (s : State) : (s.tick).frBase = s.frBase := rfl
@[simp] theorem tick_frLog (s : State) : (s.tick).frLog = s.frLog := rfl
@[simp] theorem tick_frHead (s : State) : (s.tick).frHead = s.frHead := rfl
@[simp] theorem tick_frTail (s : State) : (s.tick).frTail = s.frTail := rfl
@[simp] theorem tick_ringQueue (s : State) : (s.tick).ringQueue = s.ringQueue := rfl
@[simp] theorem tick_alarm (s : State) : (s.tick).alarm = s.alarm := rfl
@[simp] theorem tick_alarmStat (s : State) : (s.tick).alarmStat = s.alarmStat := rfl
@[simp] theorem tick_pmode (s : State) : (s.tick).pmode = s.pmode := rfl
@[simp] theorem tick_accepted (s : State) : (s.tick).accepted = s.accepted := rfl
@[simp] theorem tick_acceptedW (s : State) : (s.tick).acceptedW = s.acceptedW := rfl
@[simp] theorem tick_reflex (s : State) : (s.tick).reflex = s.reflex := rfl
@[simp] theorem tick_security (s : State) : (s.tick).security = s.security := rfl
@[simp] theorem tick_telemetry (s : State) : (s.tick).telemetry = s.telemetry := rfl
@[simp] theorem tick_irqs (s : State) : (s.tick).irqs = s.irqs := rfl
@[simp] theorem tick_hostReads (s : State) : (s.tick).hostReads = s.hostReads := rfl
@[simp] theorem tick_hostOps (s : State) : (s.tick).hostOps = s.hostOps := rfl
@[simp] theorem tick_rate (s : State) : (s.tick).rate = s.rate := rfl
@[simp] theorem tick_synced (s : State) : (s.tick).synced = s.synced := rfl
@[simp] theorem tick_inputs (s : State) : (s.tick).inputs = s.inputs := rfl
@[simp] theorem tick_choices (s : State) : (s.tick).choices = s.choices := rfl
@[simp] theorem tick_freeCtr (s : State) : (s.tick).freeCtr = s.freeCtr := rfl
@[simp] theorem tick_cur (s : State) : (s.tick).cur = s.cur := rfl
@[simp] theorem tick_hole (s : State) : (s.tick).hole = s.hole := rfl

/-! unaged changes flights. -/

@[simp] theorem unaged_mem (s : State) : s.unaged.mem = s.mem := rfl
@[simp] theorem unaged_hostMem (s : State) : s.unaged.hostMem = s.hostMem := rfl
@[simp] theorem unaged_placed (s : State) : s.unaged.placed = s.placed := rfl
@[simp] theorem unaged_spanInPage (s : State) : s.unaged.spanInPage = s.spanInPage := rfl
@[simp] theorem unaged_errors (s : State) : s.unaged.errors = s.errors := rfl
@[simp] theorem unaged_hostLines (s : State) : s.unaged.hostLines = s.hostLines := rfl
@[simp] theorem unaged_l1 (s : State) : s.unaged.l1 = s.l1 := rfl
@[simp] theorem unaged_gather (s : State) : s.unaged.gather = s.gather := rfl
@[simp] theorem unaged_descs (s : State) : s.unaged.descs = s.descs := rfl
@[simp] theorem unaged_tlb (s : State) : s.unaged.tlb = s.tlb := rfl
@[simp] theorem unaged_dir (s : State) : s.unaged.dir = s.dir := rfl
@[simp] theorem unaged_reserved (s : State) : s.unaged.reserved = s.reserved := rfl
@[simp] theorem unaged_combining (s : State) : s.unaged.combining = s.combining := rfl
@[simp] theorem unaged_ctxs (s : State) : s.unaged.ctxs = s.ctxs := rfl
@[simp] theorem unaged_flightSeq (s : State) : s.unaged.flightSeq = s.flightSeq := rfl
@[simp] theorem unaged_launches (s : State) : s.unaged.launches = s.launches := rfl
@[simp] theorem unaged_scratch (s : State) : s.unaged.scratch = s.scratch := rfl
@[simp] theorem unaged_tasks (s : State) : s.unaged.tasks = s.tasks := rfl
@[simp] theorem unaged_atria (s : State) : s.unaged.atria = s.atria := rfl
@[simp] theorem unaged_barriers (s : State) : s.unaged.barriers = s.barriers := rfl
@[simp] theorem unaged_expans (s : State) : s.unaged.expans = s.expans := rfl
@[simp] theorem unaged_copies (s : State) : s.unaged.copies = s.copies := rfl
@[simp] theorem unaged_copySeq (s : State) : s.unaged.copySeq = s.copySeq := rfl
@[simp] theorem unaged_cmdSeq (s : State) : s.unaged.cmdSeq = s.cmdSeq := rfl
@[simp] theorem unaged_growers (s : State) : s.unaged.growers = s.growers := rfl
@[simp] theorem unaged_lastIssue (s : State) : s.unaged.lastIssue = s.lastIssue := rfl
@[simp] theorem unaged_matBusy (s : State) : s.unaged.matBusy = s.matBusy := rfl
@[simp] theorem unaged_saved (s : State) : s.unaged.saved = s.saved := rfl
@[simp] theorem unaged_queues (s : State) : s.unaged.queues = s.queues := rfl
@[simp] theorem unaged_round (s : State) : s.unaged.round = s.round := rfl
@[simp] theorem unaged_frBase (s : State) : s.unaged.frBase = s.frBase := rfl
@[simp] theorem unaged_frLog (s : State) : s.unaged.frLog = s.frLog := rfl
@[simp] theorem unaged_frHead (s : State) : s.unaged.frHead = s.frHead := rfl
@[simp] theorem unaged_frTail (s : State) : s.unaged.frTail = s.frTail := rfl
@[simp] theorem unaged_ringQueue (s : State) : s.unaged.ringQueue = s.ringQueue := rfl
@[simp] theorem unaged_alarm (s : State) : s.unaged.alarm = s.alarm := rfl
@[simp] theorem unaged_alarmStat (s : State) : s.unaged.alarmStat = s.alarmStat := rfl
@[simp] theorem unaged_pmode (s : State) : s.unaged.pmode = s.pmode := rfl
@[simp] theorem unaged_accepted (s : State) : s.unaged.accepted = s.accepted := rfl
@[simp] theorem unaged_acceptedW (s : State) : s.unaged.acceptedW = s.acceptedW := rfl
@[simp] theorem unaged_reflex (s : State) : s.unaged.reflex = s.reflex := rfl
@[simp] theorem unaged_security (s : State) : s.unaged.security = s.security := rfl
@[simp] theorem unaged_telemetry (s : State) : s.unaged.telemetry = s.telemetry := rfl
@[simp] theorem unaged_irqs (s : State) : s.unaged.irqs = s.irqs := rfl
@[simp] theorem unaged_hostReads (s : State) : s.unaged.hostReads = s.hostReads := rfl
@[simp] theorem unaged_hostOps (s : State) : s.unaged.hostOps = s.hostOps := rfl
@[simp] theorem unaged_time (s : State) : s.unaged.time = s.time := rfl
@[simp] theorem unaged_subNs (s : State) : s.unaged.subNs = s.subNs := rfl
@[simp] theorem unaged_rate (s : State) : s.unaged.rate = s.rate := rfl
@[simp] theorem unaged_synced (s : State) : s.unaged.synced = s.synced := rfl
@[simp] theorem unaged_cycle (s : State) : s.unaged.cycle = s.cycle := rfl
@[simp] theorem unaged_inputs (s : State) : s.unaged.inputs = s.inputs := rfl
@[simp] theorem unaged_choices (s : State) : s.unaged.choices = s.choices := rfl
@[simp] theorem unaged_freeCtr (s : State) : s.unaged.freeCtr = s.freeCtr := rfl
@[simp] theorem unaged_cur (s : State) : s.unaged.cur = s.cur := rfl
@[simp] theorem unaged_hole (s : State) : s.unaged.hole = s.hole := rfl

/-! Lookups after an update. -/

@[simp] theorem putFlight_self (s : State) (key : Nat) (f : Flight) : (s.putFlight key f).flights = Tbl.put s.flights key f := rfl
@[simp] theorem setQueue_self (s : State) (q : Nat) (x : Queue) : (s.setQueue q x).queues = Tbl.put s.queues q x := rfl
@[simp] theorem setScr_self (s : State) (core : Nat) (c : Cells 8) : (s.setScr core c).scratch = Tbl.put s.scratch core c := rfl
@[simp] theorem tick_cycle_next (s : State) : s.tick.cycle = s.cycle + 1 := rfl

/-! The slots of a flight. -/

@[simp] theorem setSlot_gpr (f : Flight) (b : Bool) (x : Slot) : (f.setSlot b x).gpr = f.gpr := by cases b <;> rfl
@[simp] theorem setSlot_preds (f : Flight) (b : Bool) (x : Slot) : (f.setSlot b x).preds = f.preds := by cases b <;> rfl
@[simp] theorem setSlot_unif (f : Flight) (b : Bool) (x : Slot) : (f.setSlot b x).unif = f.unif := by cases b <;> rfl
@[simp] theorem setSlot_stack (f : Flight) (b : Bool) (x : Slot) : (f.setSlot b x).stack = f.stack := by cases b <;> rfl
@[simp] theorem setSlot_pending (f : Flight) (b : Bool) (x : Slot) : (f.setSlot b x).pending = f.pending := by cases b <;> rfl
@[simp] theorem setSlot_regions (f : Flight) (b : Bool) (x : Slot) : (f.setSlot b x).regions = f.regions := by cases b <;> rfl
@[simp] theorem setSlot_launch (f : Flight) (b : Bool) (x : Slot) : (f.setSlot b x).launch = f.launch := by cases b <;> rfl
@[simp] theorem setSlot_kind (f : Flight) (b : Bool) (x : Slot) : (f.setSlot b x).kind = f.kind := by cases b <;> rfl
@[simp] theorem slot_setSlot (f : Flight) (b : Bool) (x : Slot) : (f.setSlot b x).slot b = x := by cases b <;> rfl
@[simp] theorem slot_setSlot_other (f : Flight) (b : Bool) (x : Slot) : (f.setSlot b x).slot (!b) = f.slot (!b) := by cases b <;> rfl

end Sys2Proof.Laws
end

