-- ==== Sys2Proof/Laws/Issue.lean ====
section
/-! SUPPORT. What issuing does: one lemma for `issue`, for instructions that change only their flight, and for a meaning that is
done without faults. -/

namespace Sys2Proof.Laws

open Sys2Proof Sys2Proof.Machine

/-- A step that met no hole in the address space answers a next state. -/
theorem endStep_ok {s : State} (h : s.hole = false) : endStep s = .next s := by simp [endStep, h]

theorem maskOf_nil : maskOf [] = 0 := rfl

theorem putFlight_flight (s : State) (key : Nat) (f : Flight) : (s.putFlight key f).flight key = some f := find_put_same ..

theorem putFlight_flight_ne (s : State) {key k : Nat} (f : Flight) (h : k ≠ key) :
    (s.putFlight key f).flight k = s.flight k := find_put_ne _ _ h

theorem putFlight_putFlight (s : State) (key : Nat) (f g : Flight) :
    (s.putFlight key f).putFlight key g = s.putFlight key g := by
  simp [State.putFlight, put_put]

theorem modFlight_putFlight (s : State) (key : Nat) (f : Flight) (g : Flight → Flight) :
    (s.putFlight key f).modFlight key g = s.putFlight key (g f) := by
  simp [State.putFlight, State.modFlight, Tbl.modify, find_put_same, put_put]

/-- Records of no fault change nothing. -/
theorem records_nil (s : State) (key : Nat) (f : Flight) (b : Bool) (ctx : Nat) (pc : Word) : s.records key f b ctx pc [] = s := by
  rfl

/-- A meaning that is done without faults or aborts: the slot moves past the instruction. -/
theorem finish_ok (s0 s : State) (p : Place) (i : Instr) {f : Flight} (h : s.flight p.key = some f) :
    finish s0 s p i 0 [] [] = s.moveOn p.key p.slotB i f := by
  simp [finish, h, records_nil, State.moveOn]

/-- A slot that is ready is live. -/
theorem ready_live {s : State} {key : Nat} {f : Flight} {b : Bool} {i : Instr} (h : s.ready key f b i = true) :
    (f.slot b).live = true := by
  simp only [State.ready, State.slotClear, Bool.and_eq_true] at h
  simp [h]

/-- The meaning of an instruction that issues is carried out from the state in which it begins. -/
theorem issue_eq {s : State} {i : Instr} {key : Nat} {b : Bool} {f : Flight} {la : Launch} {c : Clause}
    (h : Issues s i key b f la c) (body : Place → State → Body) :
    issue i s body =
      match body (placeOf key b f la c) (s.begun key b f c i) with
      | .done s2 fs as => endStep (finish s s2 (placeOf key b f la c) i 0 fs as)
      | .whole s2 fs => endStep (finish s s2 (placeOf key b f la c) i (f.acting b c) fs [])
      | .ended s2 => endStep ((finish s s2 (placeOf key b f la c) i 0 [] []).retireIf key)
      | .moved s2 => endStep s2
      | .stall => .next s
      | .await w => .next (s.hold key b w) := by
  have hregs : ((i.use.gr ++ i.use.gw).any fun r => decide (f.allot ≤ r)) = false := by
    rw [List.any_eq_false]
    intro r hr
    simpa using h.regs r hr
  have hwin : ((f.slot b).replay.isNone && hazard f b i) = false := by
    rcases h.window with hw | hw
    · rw [Option.isSome_iff_ne_none] at hw
      simp [hw]
    · simp [hw]
  have hout : (f.begun b c).notAdmitted i (f.acting b c) = [] := by
    rw [Flight.notAdmitted, List.filterMap_eq_nil_iff]
    intro l hl
    rw [h.admitted l hl]
    rfl
  have hrec : trapRecords i [] = [] := by cases i <;> rfl
  have hone : f.acting b c &&& ~~~(0 : Mask) = f.acting b c := by
    rw [show ~~~(0 : Mask) = BitVec.allOnes 32 from rfl, BitVec.and_allOnes]
  unfold issue
  simp only [h.cur, h.flight, h.launch, ready_live h.ready, h.ready, h.clause, hregs, h.level, hwin, Bool.false_eq_true,
    Bool.true_eq_false, if_false, h.acts, hout, List.map_nil, maskOf_nil, hone, hrec, if_true, List.nil_append]
  rfl

/-- A meaning that is done without faults or aborts: the slot moves past the instruction. -/
theorem issue_done {s : State} {i : Instr} {key : Nat} {b : Bool} {f : Flight} {la : Launch} {c : Clause}
    (h : Issues s i key b f la c) (body : Place → State → Body) {s2 : State} {f2 : Flight}
    (hb : body (placeOf key b f la c) (s.begun key b f c i) = .done s2 [] []) (hf : s2.flight key = some f2)
    (hs : s2.hole = false) : issue i s body = .next (s2.moveOn key b i f2) := by
  rw [issue_eq h, hb]
  show endStep (finish s s2 (placeOf key b f la c) i 0 [] []) = _
  rw [finish_ok s s2 (placeOf key b f la c) i (f := f2) hf]
  exact endStep_ok hs

/-- A meaning that has moved the slot itself. -/
theorem issue_moved {s : State} {i : Instr} {key : Nat} {b : Bool} {f : Flight} {la : Launch} {c : Clause}
    (h : Issues s i key b f la c) (body : Place → State → Body) {s2 : State}
    (hb : body (placeOf key b f la c) (s.begun key b f c i) = .moved s2) (hs : s2.hole = false) :
    issue i s body = .next s2 := by
  rw [issue_eq h, hb]
  exact endStep_ok hs

/-- An instruction that changes only its flight completes, and the slot moves past it. -/
theorem localOp_eq {s : State} {i : Instr} {key : Nat} {b : Bool} {f : Flight} {la : Launch} {c : Clause}
    (h : Issues s i key b f la c) (g : Place → Flight → Flight) :
    localOp i s g = .next (s.moveOn key b i (g (placeOf key b f la c) (f.issued b c i))) := by
  have hf : ((s.begun key b f c i).modFlight key (g (placeOf key b f la c))) =
      s.putFlight key (g (placeOf key b f la c) (f.issued b c i)) := by
    rw [State.begun, modFlight_putFlight]
  rw [localOp, issue_done h _ rfl (hf ▸ putFlight_flight _ _ _) (by rw [show (placeOf key b f la c).key = key from rfl, hf]; exact h.solid)]
  rw [show (placeOf key b f la c).key = key from rfl, hf, State.moveOn, State.moveOn, putFlight_putFlight]

/-- An ALU instruction completes: its flight has the results and flags of its acting lanes, and the slot moves past it. -/
theorem aluOp_eq {s : State} {i : Instr} {key : Nat} {b : Bool} {f : Flight} {la : Launch} {c : Clause} (h : Issues s i key b f la c)
    (d : Reg) (fn : LaneFn) :
    aluOp i d fn s = .next (s.moveOn key b i ((f.issued b c i).alu (f.acting b c) d fn)) := localOp_eq h _

/-- A compare completes in the same way. -/
theorem cmpOp_eq {s : State} {i : Instr} {key : Nat} {b : Bool} {f : Flight} {la : Launch} {c : Clause} (h : Issues s i key b f la c)
    (pd : PReg) (fn : Flight → Nat → Bool × Word) :
    cmpOp i pd fn s = .next (s.moveOn key b i ((f.issued b c i).cmp (f.acting b c) pd fn)) := localOp_eq h _

/-- A long-latency instruction that computes lane by lane stays pending with its results. -/
theorem longOp_eq {s : State} {i : Instr} {key : Nat} {b : Bool} {f : Flight} {la : Launch} {c : Clause} (h : Issues s i key b f la c)
    (d : Reg) (fn : LaneFn) :
    longOp i d fn s = .next (s.moveOn key b i (f.waiting b c i (.write (laneWrites (f.issued b c i) (f.acting b c) d fn) []
      (laneFlags (f.issued b c i) (f.acting b c) fn)))) := localOp_eq h _

/-! What was read stays read without any register changing. -/

@[simp] theorem fixed_gpr (f : Flight) (b : Bool) (i : Instr) : (f.fixed b i).gpr = f.gpr := by unfold Flight.fixed; split <;> rfl

@[simp] theorem fixed_preds (f : Flight) (b : Bool) (i : Instr) : (f.fixed b i).preds = f.preds := by unfold Flight.fixed; split <;> rfl

@[simp] theorem fixed_unif (f : Flight) (b : Bool) (i : Instr) : (f.fixed b i).unif = f.unif := by unfold Flight.fixed; split <;> rfl

/-- An instruction that does not act at once leaves the flight as it is. -/
theorem fixed_eq {f : Flight} {b : Bool} {i : Instr} (h : actsAtOnce i = false) : f.fixed b i = f := by simp [Flight.fixed, h]

/-- Beginning an instruction changes no register: what it reads is what stood there before. -/
theorem issued_gpr (f : Flight) (b : Bool) (c : Clause) (i : Instr) : (f.issued b c i).gpr = f.gpr := by
  unfold Flight.issued Flight.retag Flight.begun
  split <;> (split <;> simp [Flight.tick])

theorem issued_preds (f : Flight) (b : Bool) (c : Clause) (i : Instr) : (f.issued b c i).preds = f.preds := by
  unfold Flight.issued Flight.retag Flight.begun
  split <;> (split <;> simp [Flight.tick])

theorem issued_unif (f : Flight) (b : Bool) (c : Clause) (i : Instr) : (f.issued b c i).unif = f.unif := by
  unfold Flight.issued Flight.retag Flight.begun
  split <;> (split <;> simp [Flight.tick])

end Sys2Proof.Laws
end

