-- ==== Sys2Proof/Laws/Memory.lean ====
section
/-! SUPPORT. Every memory operation keeps both memories in canonical form; and reading at their home the bytes just written. -/

namespace Sys2Proof.Laws

open Sys2Proof Sys2Proof.Machine

/-! Byte arrays. -/

theorem wf_putValue {c : Cells 8} (a n v : Nat) (h : Cells.wf c = true) : Cells.wf (putValue c a n v) = true := wf_setList _ _ h

theorem wf_putWords {c : Cells 8} (a : Nat) (ws : List Word) (h : Cells.wf c = true) : Cells.wf (putWords c a ws) = true := by
  induction ws generalizing c a with
  | nil => exact h
  | cons w ws ih => exact ih _ (wf_putValue _ _ _ h)

theorem wf_shadowBack {c : Cells 8} (es : List TlbEntry) (h : Cells.wf c = true) : Cells.wf (shadowBack c es) = true :=
  wf_foldl _ (fun _ _ hc => wf_set _ _ hc) _ h

theorem wf_wbMem (b : L1Block) (ws : BitVec 32) {c : Cells 8} (h : Cells.wf c = true) : Cells.wf (b.wbMem ws c) = true := by
  refine wf_foldl _ (fun d i hd => ?_) _ h
  split
  · exact wf_set _ _ hd
  · exact hd

/-! The state. -/

theorem memOk_iff {s : State} : s.memOk = true ↔ Cells.wf s.mem = true ∧ Cells.wf s.hostMem = true := by
  simp [State.memOk, Memory.wf]

/-- An update that changes neither memory keeps their form. -/
theorem memOk_of_eq {s t : State} (h : s.memOk = true) (hm : t.mem = s.mem) (hh : t.hostMem = s.hostMem) : t.memOk = true := by
  rw [memOk_iff] at *; rwa [hm, hh]

/-- An update whose device memory is in canonical form and that leaves the host's memory. -/
theorem memOk_of_mem {s t : State} (h : s.memOk = true) (hm : Cells.wf t.mem = true) (hh : t.hostMem = s.hostMem) : t.memOk = true := by
  rw [memOk_iff] at *; rw [hh]; exact ⟨hm, h.2⟩

theorem memOk_foldl {α : Type} (g : State → α → State) (hg : ∀ s x, s.memOk = true → (g s x).memOk = true) (xs : List α) {s : State}
    (h : s.memOk = true) : (xs.foldl g s).memOk = true := by
  induction xs generalizing s with
  | nil => exact h
  | cons x xs ih => exact ih (hg _ _ h)

theorem memOk_thread {α β : Type} (g : α → State → β × State) (hg : ∀ x s, s.memOk = true → (g x s).2.memOk = true) (xs : List α) {s : State}
    (h : s.memOk = true) : (thread g xs s).2.memOk = true := by
  induction xs generalizing s with
  | nil => exact h
  | cons x xs ih => exact ih (hg _ _ h)

theorem memOk_reset : State.reset.memOk = true := by decide

theorem memOk_inside {s : State} (pa n : Nat) (h : s.memOk = true) : (s.inside pa n).memOk = true := by
  unfold State.inside; split <;> exact h

theorem memOk_dropTlb {s : State} (p : TlbEntry → Bool) (h : s.memOk = true) : (s.dropTlb p).memOk = true :=
  memOk_of_mem h (wf_shadowBack _ (memOk_iff.mp h).1) rfl

theorem memOk_translate {s : State} (ctx va : Nat) (h : s.memOk = true) : (s.translate ctx va).2.memOk = true := by
  unfold State.translate
  dsimp only
  have h : (s.requested (sliceOf ctx va)).memOk = true := h
  generalize s.requested (sliceOf ctx va) = s at h
  split
  · exact h
  · split
    · exact h
    · dsimp only
      split
      · split
        · exact memOk_dropTlb _ h
        · exact h
      · exact h

theorem memOk_place {s : State} (pa : Nat) (pl : Word) (size : Nat) (h : s.memOk = true) : (s.place pa pl size).memOk = true := by
  unfold State.place
  dsimp only
  split
  · exact h
  · split
    · exact h
    · generalize List.range 4096 = xs
      exact memOk_of_mem h (wf_foldl _ (fun _ _ hc => wf_set _ _ hc) xs (memOk_iff.mp h).1) rfl

/-- What a fold of updates keeps, if each keeps it. -/
theorem foldl_keeps {α β : Type} (v : State → β) (g : State → α → State) (hg : ∀ s x, v (g s x) = v s) (xs : List α) (s : State) :
    v (xs.foldl g s) = v s := by
  induction xs generalizing s with
  | nil => rfl
  | cons x xs ih => exact (ih _).trans (hg _ _)

@[simp] theorem sendErrors_mem (s : State) (ws : L1Block → BitVec 32) : (s.sendErrors ws).mem = s.mem := by
  unfold State.sendErrors
  split
  · rfl
  · apply foldl_keeps (fun s : State => s.mem)
    intros; rfl

@[simp] theorem sendErrors_hostMem (s : State) (ws : L1Block → BitVec 32) : (s.sendErrors ws).hostMem = s.hostMem := by
  unfold State.sendErrors
  split
  · rfl
  · apply foldl_keeps (fun s : State => s.hostMem)
    intros; rfl

/-- Where no stored data is wrong, nothing follows the words that a write-back sends. -/
theorem sendErrors_of_none {s : State} (h : s.errors = []) (ws : L1Block → BitVec 32) : s.sendErrors ws = s := by
  simp [State.sendErrors, h]

/-- Where no stored data is wrong, overwriting bytes only writes them. -/
theorem scrubbed_of_none {s : State} (h : s.errors = []) (core pa n : Nat) (home : Bool) : s.scrubbed core pa n home = s := by
  simp [State.scrubbed, h]

theorem memOk_writeBack {s : State} (ws : L1Block → BitVec 32) (h : s.memOk = true) : (s.writeBack ws).memOk = true :=
  memOk_of_mem h (wf_foldl _ (fun _ b hc => wf_wbMem b _ hc) _ (memOk_iff.mp h).1) (sendErrors_hostMem s ws)

theorem memOk_scrubbed {s : State} (core pa n : Nat) (home : Bool) (h : s.memOk = true) : (s.scrubbed core pa n home).memOk = true := by
  unfold State.scrubbed
  split <;> exact h

theorem memOk_recall {s : State} (pa n : Nat) (h : s.memOk = true) : (s.recall pa n).memOk = true := memOk_writeBack _ h

theorem memOk_surrender {s : State} (core pa n : Nat) (h : s.memOk = true) : (s.surrender core pa n).memOk = true := memOk_writeBack _ h

theorem memOk_homeRead {s : State} (pa n : Nat) (h : s.memOk = true) : (s.homeRead pa n).2.memOk = true :=
  memOk_inside _ _ (memOk_recall _ _ h)

theorem memOk_coreRead {s : State} (core pa n : Nat) (h : s.memOk = true) : (s.coreRead core pa n).2.memOk = true :=
  memOk_homeRead _ _ (memOk_surrender _ _ _ h)

theorem memOk_homeWrite {s : State} (core pa n v : Nat) (h : s.memOk = true) : (s.homeWrite core pa n v).memOk = true := by
  have h1 := memOk_scrubbed core pa n true (memOk_inside pa n (memOk_surrender core pa n (memOk_recall pa n h)))
  exact memOk_of_mem h1 (wf_putValue _ _ _ (memOk_iff.mp h1).1) rfl

theorem memOk_evict {s : State} (b : L1Block) (h : s.memOk = true) : (s.evict b).memOk = true := by
  exact memOk_of_eq (memOk_writeBack _ h) rfl rfl

theorem memOk_roomL1 {s : State} (core : Nat) (h : s.memOk = true) : (s.roomL1 core).memOk = true := by
  unfold State.roomL1
  split
  · exact h
  · split
    · exact memOk_evict _ h
    · split <;> exact h

theorem memOk_block {s : State} (core ctx va pa : Nat) (h : s.memOk = true) : (s.block core ctx va pa).2.memOk = true := by
  unfold State.block
  dsimp only
  split
  · split
    · exact h
    · exact memOk_evict _ h
  · exact memOk_roomL1 _ h

theorem memOk_fillErrors {s : State} (page : Nat) (ws : BitVec 32) (h : s.memOk = true) : (s.fillErrors page ws).memOk = true := by
  unfold State.fillErrors
  split <;> exact h

theorem memOk_copyErrors {s : State} (place : ErrPlace) (core page : Nat) (ws : BitVec 128) (h : s.memOk = true) :
    (s.copyErrors place core page ws).memOk = true := by
  unfold State.copyErrors
  split <;> exact h

theorem memOk_unalias {s : State} (core ctx va page : Nat) (ws : BitVec 32) (h : s.memOk = true) :
    (s.unalias core ctx va page ws).memOk = true := by
  unfold State.unalias
  split
  · exact memOk_of_eq (memOk_writeBack _ h) rfl rfl
  · exact h

theorem memOk_fill {s : State} (core ctx va pa lo hi : Nat) (h : s.memOk = true) : (s.fill core ctx va pa lo hi).memOk = true := by
  unfold State.fill
  dsimp only
  split
  · exact h
  · exact memOk_of_eq (memOk_block core ctx va pa
      (memOk_copyErrors .l1 core _ _ (memOk_fillErrors _ _ (memOk_inside _ _ (memOk_writeBack _ (memOk_unalias _ _ _ _ _ h)))))) rfl rfl

theorem memOk_storeL1 {s : State} (core ctx va pa n v : Nat) (h : s.memOk = true) : (s.storeL1 core ctx va pa n v).memOk = true := by
  unfold State.storeL1
  exact memOk_of_eq (memOk_block core ctx va pa (memOk_unalias core ctx va _ _ (memOk_inside pa n h))) rfl rfl

theorem memOk_bypassRead {s : State} (core ctx va pa n : Nat) (h : s.memOk = true) : (s.bypassRead core ctx va pa n).2.memOk = true := by
  unfold State.bypassRead
  exact memOk_inside _ _ (memOk_writeBack _ h)

theorem memOk_registerWord {s : State} (core pa : Nat) (h : s.memOk = true) : (s.registerWord core pa).memOk = true := by
  unfold State.registerWord
  dsimp only
  split
  · split
    · exact memOk_of_eq (memOk_recall (pa / 4 * 4) 4 h) rfl rfl
    · exact h
  · split
    · split
      · exact h
      · exact memOk_of_eq (memOk_writeBack _ h) rfl rfl
    · exact h

theorem memOk_release {s : State} (core : Nat) (h : s.memOk = true) : (s.release core).memOk = true :=
  memOk_foldl _ (fun _ _ hs => memOk_registerWord _ _ hs) _ h

theorem memOk_acquire {s : State} (core : Nat) (h : s.memOk = true) : (s.acquire core).memOk = true := h

theorem memOk_descRead {s : State} (core ctx kind idx at_ : Nat) (ws : List Nat) (h : s.memOk = true) :
    (s.descRead core ctx kind idx at_ ws).2.memOk = true := by
  unfold State.descRead
  dsimp only
  split
  · exact h
  · split
    · exact h
    · split
      · exact h
      · split <;> exact h

theorem memOk_handle {s : State} (core ctx idx : Nat) (h : s.memOk = true) : (s.handle core ctx idx).2.memOk = true :=
  memOk_descRead _ _ _ _ _ _ h

theorem memOk_consume {s : State} (core pa n : Nat) (hit : Bool) (h : s.memOk = true) : (s.consume core pa n hit).2.memOk = true := h

theorem memOk_grant {s : State} (core ctx idx lane : Nat) (hd : Handle) (va n : Nat) (need : Need) (na : Bool) (h : s.memOk = true) :
    (s.grant core ctx idx lane hd va n need na).2.memOk = true := by
  unfold State.grant
  dsimp only
  split
  · exact h
  · split
    · exact h
    · split
      · exact h
      · split
        · split
          · exact h
          · cases need.consumes <;> simp only [Bool.false_eq_true, if_false, if_true] <;> (try split) <;> exact h
        · have ht := memOk_translate ctx va h
          split
          · next e => rw [e] at ht; exact ht
          · next e =>
            rw [e] at ht
            split
            · exact ht
            · have hp := fun pa pl n => memOk_place pa pl n ht
              cases need.consumes <;> simp only [Bool.false_eq_true, if_false, if_true] <;> (try split) <;>
                exact hp _ _ _

theorem memOk_check {s : State} (core ctx idx lane : Nat) (hd : Option Handle) (o : Int) (n : Nat) (need : Need) (na : Bool)
    (h : s.memOk = true) : (s.check core ctx idx lane hd o n need na).2.memOk = true := by
  unfold State.check
  split
  · exact h
  · exact memOk_grant _ _ _ _ _ _ _ _ _ h

theorem memOk_checks {s : State} (core ctx idx : Nat) (hd : Option Handle) (n : Nat) (need : Need) (na : Bool) (offs : List (Nat × Int))
    (h : s.memOk = true) : (s.checks core ctx idx hd n need na offs).2.memOk = true :=
  memOk_thread _ (fun x _ hs => memOk_check core ctx idx x.1 hd x.2 n need na hs) _ h

theorem memOk_checkRun {s : State} (core ctx idx lane : Nat) (hd : Option Handle) (o : Int) (n al : Nat) (need : Need)
    (h : s.memOk = true) : (s.checkRun core ctx idx lane hd o n al need).2.memOk = true := by
  unfold State.checkRun
  split
  · exact h
  · next e va _ =>
    have hstep : ∀ (xs : List (Nat × Nat)) (acc : Except Deny (List LaneAddr) × State), acc.2.memOk = true →
        (xs.foldl (fun (acc : Except Deny (List LaneAddr) × State) x =>
          match acc.1 with
          | .error _ => acc
          | .ok as =>
            match acc.2.grant core ctx idx lane e x.1 x.2 need true with
            | (.error d, s') => (.error d, s')
            | (.ok a, s') =>
              (.ok (as ++ (List.range ((x.2 + 3) / 4)).map (fun i => { a with va := a.va + 4 * i, pa := a.pa + 4 * i })), s')) acc).2.memOk
          = true := by
      intro xs
      induction xs with
      | nil => exact fun _ ha => ha
      | cons x xs ih =>
        intro acc ha
        obtain ⟨r, s1⟩ := acc
        refine ih _ ?_
        cases r with
        | error d => exact ha
        | ok as =>
          have hg := memOk_grant core ctx idx lane e x.1 x.2 need true ha
          dsimp only at hg ⊢
          split <;> next eq => rw [eq] at hg; exact hg
    exact hstep _ _ h

theorem memOk_hostTouch {s : State} (a : Nat) (x : Bool) (h : s.memOk = true) : (s.hostTouch a x).memOk = true := h

theorem memOk_hostPut {s : State} (a n v : Nat) (h : s.memOk = true) : ({ s with hostMem := putValue s.hostMem a n v } : State).memOk = true := by
  rw [memOk_iff] at *; exact ⟨h.1, wf_putValue _ _ _ h.2⟩

theorem memOk_loadBytes {s : State} (core : Nat) (weak : Bool) (a : LaneAddr) (n : Nat) (h : s.memOk = true) :
    (s.loadBytes core weak a n).2.memOk = true := by
  unfold State.loadBytes
  split
  · exact h
  · split
    · exact h
    · exact memOk_bypassRead _ _ _ _ _ h

theorem memOk_choose {s : State} (h : s.memOk = true) : s.choose.2.memOk = true := by
  unfold State.choose; split <;> exact h

theorem memOk_storeBytes {s : State} (core : Nat) (weak : Bool) (a : LaneAddr) (n v : Nat) (h : s.memOk = true) :
    (s.storeBytes core weak a n v).memOk = true := by
  unfold State.storeBytes
  split
  · exact memOk_hostPut a.pa n v (memOk_hostTouch a.pa true h)
  · dsimp only
    split
    · have hc := memOk_choose (memOk_storeL1 core a.ctx a.va a.pa n v (memOk_scrubbed core a.pa n false h))
      split
      · exact memOk_foldl _ (fun _ _ hs => memOk_registerWord _ _ hs) _ hc
      · exact hc
    · exact memOk_homeWrite _ _ _ _ h

theorem memOk_wholeStores {s : State} (core n : Nat) (as : List LaneAddr) (h : s.memOk = true) : (s.wholeStores core n as).memOk = true := by
  unfold State.wholeStores
  split <;> exact h

theorem memOk_storeLanes {s : State} (core : Nat) (weak : Bool) (n : Nat) (vs : List (LaneAddr × Nat)) (h : s.memOk = true) :
    (s.storeLanes core weak n vs).memOk = true := by
  have ht := memOk_foldl (fun s (x : LaneAddr × Nat) => s.storeBytes core weak x.1 n x.2) (fun _ _ hs => memOk_storeBytes _ _ _ _ _ hs) vs h
  unfold State.storeLanes
  dsimp only
  split
  · exact memOk_wholeStores _ _ _ ht
  · exact ht

theorem memOk_engRead {s : State} (a : LaneAddr) (n : Nat) (h : s.memOk = true) : (s.engRead a n).2.memOk = true := by
  unfold State.engRead
  split
  · exact h
  · exact memOk_homeRead _ _ h

theorem memOk_engWrite {s : State} (a : LaneAddr) (n v : Nat) (h : s.memOk = true) : (s.engWrite a n v).memOk = true := by
  unfold State.engWrite
  split
  · exact memOk_hostPut a.pa n v (memOk_hostTouch a.pa true h)
  · exact memOk_homeWrite _ _ _ _ h

theorem memOk_again {s : State} (a : LaneAddr) (need : Need) (h : s.memOk = true) : (s.again a need).2.memOk = true := by
  unfold State.again
  dsimp only
  have ht := memOk_translate a.ctx a.va h
  split
  · exact h
  · split
    · next e => rw [e] at ht; exact ht
    · next e =>
      rw [e] at ht
      split
      · exact ht
      · exact memOk_place _ _ _ ht

theorem memOk_againAll {s : State} (as : List LaneAddr) (need : Need) (h : s.memOk = true) : (s.againAll as need).2.memOk = true := by
  unfold State.againAll
  generalize (.ok [] : Except Deny (List LaneAddr)) = r
  induction as generalizing s r with
  | nil => exact h
  | cons a as ih =>
    rw [List.foldl_cons]
    cases r with
    | error d => exact ih h _
    | ok bs =>
      have ha := memOk_again a need h
      dsimp only
      split <;> next e => rw [e] at ha; exact ih ha _

theorem memOk_runRead {s : State} (as : List LaneAddr) (h : s.memOk = true) : (s.runRead as).2.memOk = true := by
  unfold State.runRead
  exact memOk_thread _ (fun a _ hs => by exact memOk_engRead a 4 hs) as h

theorem memOk_runWrite {s : State} (as : List LaneAddr) (ws : List Word) (h : s.memOk = true) : (s.runWrite as ws).memOk = true :=
  memOk_foldl _ (fun _ _ hs => memOk_engWrite _ _ _ hs) _ h

theorem memOk_ringPut {s : State} (ws : List Word) (h : s.memOk = true) : (s.ringPut ws).memOk = true := by
  have h1 := memOk_inside s.ringAt 64 h
  exact memOk_of_mem h1 (wf_putWords _ _ (memOk_iff.mp h1).1) rfl

theorem memOk_ringWrite {s : State} (o : Option Nat) (b : Bool) (ws : List Word) (h : s.memOk = true) : (s.ringWrite o b ws).memOk = true := by
  unfold State.ringWrite
  split
  · exact h
  · exact memOk_ringPut _ h

theorem memOk_ringFlush (rs : List RingWait) {s : State} (h : s.memOk = true) : (State.ringFlush rs s).memOk = true := by
  induction rs generalizing s with
  | nil => exact h
  | cons r rs ih =>
    unfold State.ringFlush
    split
    · exact h
    · exact ih (memOk_ringPut _ h)

theorem memOk_records {s : State} (key : Nat) (f : Flight) (b : Bool) (ctx : Nat) (pc : Word) (fs : List LaneFault) (h : s.memOk = true) :
    (s.records key f b ctx pc fs).memOk = true :=
  memOk_foldl _ (fun _ _ hs => memOk_ringWrite _ _ _ hs) _ h

theorem memOk_handoverPage {s : State} (e : TlbEntry) (p : Word) (h : s.memOk = true) : (s.handoverPage e p).memOk = true := by
  have h1 := memOk_writeBack (fun b => if decide (e.pa ≤ b.page) && decide (b.page < e.pa + e.size) then b.owned else 0) h
  exact memOk_of_mem h1 (wf_foldl _ (fun _ _ hc => wf_putValue _ _ _ hc) _ (memOk_iff.mp h1).1) rfl

/-- An image is written with every listed byte in its place. -/
theorem memOk_writeImage {s : State} (g : SavedGang) (size : Nat) (h : s.memOk = true) : (s.writeImage g size).memOk = true := by
  refine memOk_of_mem h ?_ rfl
  refine wf_foldl _ (fun m x hm => ?_) _ (wf_foldl _ (fun m x hm => ?_) _ (wf_keep _ (memOk_iff.mp h).1))
  · split
    · split
      · exact wf_putValue _ _ _ hm
      · exact hm
    · exact hm
  · split
    · exact wf_set _ _ hm
    · exact hm

theorem memOk_setPoolWord {s : State} (pl : Pool) (i v : Nat) (h : s.memOk = true) : (s.setPoolWord pl i v).memOk = true :=
  memOk_of_mem h (wf_putValue _ _ _ (memOk_iff.mp h).1) rfl

end Sys2Proof.Laws
end

