-- ==== Sys2Proof/Tests/Slice0.lean ====
section
/-! SUPPORT. Tests: words of the manual decoded, ill-formed terms refused, single steps with results worked out by hand from the
rules, and a state for the hypotheses of each statement. -/

namespace Sys2Proof.Tests

open Sys2Proof Sys2Proof.Machine Sys2Proof.Claims

set_option Elab.async false

/-! Helpers. -/

/-- A state in which flight 0 of core 0 issues an instruction next. -/
def placed (i : Instr) : State :=
  match encode i with
  | w :: rest => State.reset.install w (rest.headD 0)
  | [] => State.reset

/-- The placed flight, changed. -/
def tweak (s : State) (g : Flight → Flight) : State := s.modFlight 0 g

/-- The placed flight with some general registers (register, lane, value). -/
def regs (s : State) (ws : List (Nat × Nat × Word)) : State := tweak s (fun f => f.setGs ws)

/-- The placed flight with a mask of live lanes. -/
def lanes (s : State) (m : Mask) : State := tweak s (fun f => { f with threads := m, a := { f.a with mask := m } })

/-- The placed launch, changed. -/
def relaunch (s : State) (g : Launch → Launch) : State := s.modLaunch 0 g

/-- Context 0 with a page of 2 MiB at virtual address 0, in device memory from 0x200000, handle 1 over its first 64 KiB with every
permission, handle 2 the same in host space, and handle 3 of size 0. -/
def mapped (s : State) : State :=
  { s with
    mem := putWords (putWords (putWords (putWords (putWords (putWords s.mem 0x2000 [0x4001, 0, 0, 0]) 0x4000 [0x6001, 0, 0, 0]) 0x6000
      [0x20003F, 0, 0x44000, 0]) 0x8020 [0, 0, 0x10000, 0, 0x8000000E]) 0x8040 [0, 0, 0x10000, 0, 0x8000000F]) 0x8060
      [0, 0, 0, 0, 0x8000000E]
    ctxs := Tbl.put s.ctxs 0 { EngineCtx.reset with valid := true, root := 0x2000, hbase := 0x8000, tbase := 0xA000, pbase := 0xC000 } }

/-- Whether an instruction issues from flight 0 with a lane that acts, and a test holds of what it finds there. -/
def sees (s : State) (i : Instr) (b : Bool) (p : State → Flight → Launch → Clause → Bool) : Bool :=
  match s.flight 0 with
  | none => false
  | some f =>
    match Tbl.find s.launches f.launch.toNat with
    | none => false
    | some la =>
      match (f.slot b).clause with
      | none => false
      | some c =>
        decide (s.cur = { flight := 0, slotB := b }) && (s.ready 0 f b i && (decide (∀ r ∈ i.use.gr ++ i.use.gw, r < f.allot) &&
          (i.allowed f.kind && (decide ((f.slot b).replay.isSome = true ∨ hazard f b i = false) && (decide (f.acting b c ≠ 0) &&
            (decide (∀ l ∈ lanesOf (f.acting b c), admitCause (f.begun b c) i l = none) && (decide (s.hole = false) && p s f la c)))))))

/-- In a state, an instruction issues from flight 0, and the further hypotheses of a statement hold of what it finds there. -/
def Seen (s : State) (i : Instr) (b : Bool) (p : State → Flight → Launch → Clause → Prop) : Prop :=
  ∃ f la c, Issues s i 0 b f la c ∧ p s f la c

theorem Seen.of {s : State} {i : Instr} {b : Bool} {p : State → Flight → Launch → Clause → Prop}
    [h : ∀ s f la c, Decidable (p s f la c)] (w : sees s i b (fun s f la c => decide (p s f la c)) = true) : Seen s i b p := by
  unfold sees at w
  split at w
  · cases w
  · rename_i f hf
    split at w
    · cases w
    · rename_i la hl
      split at w
      · cases w
      · rename_i c hc
        simp only [Bool.and_eq_true, decide_eq_true_eq] at w
        obtain ⟨w1, w2, w3, w4, w5, w6, w7, w8, w9⟩ := w
        exact ⟨f, la, c, ⟨w1, hf, hl, hc, w2, w3, w4, w5, w6, w7, w8⟩, w9⟩

theorem Seen.imp {s : State} {i : Instr} {b : Bool} {p q : State → Flight → Launch → Clause → Prop} (w : Seen s i b p)
    (k : ∀ f la c, Issues s i 0 b f la c → p s f la c → q s f la c) : Seen s i b q := by
  obtain ⟨f, la, c, x, y⟩ := w
  exact ⟨f, la, c, x, k f la c x y⟩

/-- Every access of a list of checks is allowed, as a test. -/
def okAll {α β : Type} (rs : List (Nat × Except α β)) : Bool := rs.all (fun r => r.2.toOption.isSome)

theorem allAllowed_of_okAll {α β : Type} {rs : List (Nat × Except α β)} (h : okAll rs = true) : allAllowed rs := by
  intro r hr
  have h1 := List.all_eq_true.mp h r hr
  cases hx : r.2 with
  | ok x => exact ⟨x, rfl⟩
  | error d => rw [hx] at h1; cases h1

/-- Whether an instruction gives a next state of which a test holds. -/
def nextIs (o : Outcome State) (p : State → Bool) : Bool :=
  match o with
  | .next t => p t
  | _ => false

/-- Whether flight 0 stands after an instruction, and a test holds of it. -/
def flightIs (o : Outcome State) (p : Flight → Bool) : Bool := nextIs o (fun t => (t.flight 0).elim false p)

/-- What the pending instruction of flight 0 still has to do. -/
def pendingIs (o : Outcome State) (p : PendAct → Bool) : Bool :=
  flightIs o (fun f => match f.pending with
    | x :: _ => p x.act
    | [] => false)

/-- Whether two words are read as an instruction. -/
def readsAs (w x : Word) (i : Instr) : Bool :=
  match decode w x with
  | .ok j => decide (j = i)
  | .error _ => false

/-- Whether two words are refused for a reason. -/
def refusedAs (w x : Word) (r : Reject) : Bool :=
  match decode w x with
  | .ok _ => false
  | .error e => decide (e = r)

/-! Words that the manual writes out, decoded (its examples and programs). -/

theorem test_words_int : readsAs 0x08038206 0x08000000 (.imad 7 2 3 false 4) ∧ readsAs 0x05410204 0 (.iaddi 2 2 4) := by
  decide +kernel

theorem test_words_float : readsAs 0x180B942A 0x2C000000 (.ffma 23 20 21 false 22 .rne) ∧
    readsAs 0x1003060A 0 (.fadd 6 6 5 false) := by decide +kernel

theorem test_words_compare : readsAs 0x20050206 0 (.icmpI 1 .lt 2 3) := by decide +kernel

theorem test_words_convert : readsAs 0x31480F01 0 (.fsinr 16 15 1) ∧ readsAs 0x334B9700 0 (.f2bf 23 23 0) := by
  decide +kernel

theorem test_words_move : readsAs 0x50448000 0 (.movi 9 0) := by decide +kernel

theorem test_words_memory : readsAs 0x68028201 0x00C80010 (.ld 5 2 false 1 3 .weak .w32 16) ∧
    readsAs 0x68420A00 0x01FBFFF8 (.st 4 10 false 0 7 .rel .w64 (-8)) ∧ readsAs 0x69020200 0x00080005 (.ldp 4 2 0 .w32 5) ∧
    readsAs 0x60000000 0 .fenceAcq ∧ readsAs 0x60400000 0 .fenceRel ∧ readsAs 0x60800000 0 .fenceAr := by decide +kernel

theorem test_words_atomic : readsAs 0x78030311 0x00980008 (.atom 6 3 .minI 1 2 .strong false 8) ∧
    readsAs 0x78430331 0x00981C08 (.acas 3 6 3 1 2 .strong false 7 8) ∧ readsAs 0x704A0000 0 (.astat 20 0) := by decide +kernel

theorem test_words_matrix : readsAs 0x88100000 0x01021050 (.mma 32 false false 0 1 2 4 5) ∧
    readsAs 0x80450010 0 (.midle 10 true 0) := by decide +kernel

theorem test_words_lanes : readsAs 0x90018201 0 (.swz 3 2 1) ∧ readsAs 0x91038608 0 (.scan 7 6 true .add) ∧
    readsAs 0x98048400 0x0A000000 (.expand 9 4 false 0 0 5 0) ∧ readsAs 0x98450000 0x20000000 (.enext 10 false 0 0 2) ∧
    readsAs 0x990A0410 0x0A824000 (.xmerge 20 4 true 0 5 4 1 2) := by decide +kernel

theorem test_words_engine : readsAs 0xA8000400 0x24E00000 (.spawn 2 4 0 1 7) ∧ readsAs 0xAA000610 0x40000000 (.ftest 4 6 true 0) ∧
    readsAs 0xA9440202 0x01800000 (.cqry 8 2 2 6 0 0) := by decide +kernel

theorem test_words_sync : readsAs 0xB0000005 0 (.barSync 5) ∧ readsAs 0xB0420007 0 (.barArv 4 7) ∧
    readsAs 0xB0800407 0 (.barWait 4 7) ∧ readsAs 0xB0C00005 0 (.joinGal 5) ∧ readsAs 0xB8400000 0x00005040 (.barSyncn 5 64) ∧
    readsAs 0xB1438600 0 (.landWait 7 6) ∧ readsAs 0xB944840A 0x30000000 (.bestOffer 3 9 4 5 false) ∧
    readsAs 0xB1C49500 0 (.bestInval 9 21 false) ∧ readsAs 0xB18A0000 0 (.bestTake 20 false) ∧
    readsAs 0xB2000300 0 (.specMark 3) ∧ readsAs 0xB2800000 0 .specBack ∧ readsAs 0xB2C40206 0 (.rng 8 2 3 false) ∧
    readsAs 0xB3050000 0 (.gtime 10 false) := by decide +kernel

theorem test_words_system : readsAs 0xC00C0018 0 (.grow 3 12) ∧ readsAs 0xC0400006 0 (.shrink 6) ∧
    readsAs 0xC0828000 0 (.csrr 5 0) ∧ readsAs 0xC1000100 0 (.halt 1) ∧ readsAs 0xC1400300 0 (.eret 3) ∧
    readsAs 0xC181040C 0 (.tlbi 2 4 6) ∧ readsAs 0xC1C00200 0 (.faultack 2) := by decide +kernel

/-- Reserved encodings: class 15, a function with no instruction, and a field that an instruction does not use (R45, R55). -/
theorem test_refused_words : refusedAs 0xF0000000 0 .classF ∧ refusedAs 0xD0000000 0 .noFunction ∧
    refusedAs 0x60000001 0 .badField := by decide +kernel

/-! One ill-formed term for each check of the fields. -/

theorem test_wf_int : (Instr.bfe 1 2 false false 0 0).wf = false ∧ (Instr.bfe 1 2 false false 8 25).wf = false ∧
    (Instr.bfi 1 2 3 false 0 0).wf = false ∧ (Instr.bfi 1 2 3 false 16 17).wf = false ∧ (Instr.iadd64 1 2 4 false).wf = false ∧
    (Instr.iadd64 2 3 4 false).wf = false ∧ (Instr.iadd64 2 4 125 false).wf = false ∧ (Instr.imulwI 126 2 4 false).wf = false ∧
    (Instr.imulwN 3 2 4 false).wf = false := by decide

theorem test_wf_compare : (Instr.icmpI 1 .num 2 3).wf = false ∧ (Instr.icmpN 1 .nan 2 3).wf = false ∧
    (Instr.icmpiI 1 .num 2 3).wf = false := by decide

theorem test_wf_convert : (Instr.cvtn 1 2 0 3 false 0x0090).wf = false ∧ (Instr.cvtn 1 2 0 3 true 0x0739).wf = false ∧
    (Instr.cvtn 1 124 0 3 false 0x0739).wf = false ∧ (Instr.unpn 120 2 0 3 true 0x0115).wf = false ∧
    (Instr.unpn 1 2 0 3 false 0x0001).wf = false := by decide

theorem test_wf_special : (Instr.srd 1 21).wf = false ∧ (Instr.swr 1 12).wf = false ∧ (Instr.swr 1 17).wf = false := by decide

theorem test_wf_memory : (Instr.ld 1 2 false 0 1 .rel .w32 0).wf = false ∧ (Instr.ld 124 2 false 0 1 .weak .w128 0).wf = false ∧
    (Instr.st 1 2 false 0 1 .acq .w32 0).wf = false ∧ (Instr.st 1 2 false 0 1 .weak .s16 0).wf = false ∧
    (Instr.st 126 2 false 0 1 .weak .w64 0).wf = false ∧ (Instr.lds 1 2 0 1 false 1 .w32 0).wf = false ∧
    (Instr.lds 125 2 0 1 false 0 .w128 0).wf = false ∧ (Instr.sts 1 2 0 1 false 2 .w32 0).wf = false ∧
    (Instr.sts 1 2 0 1 false 0 .s8 0).wf = false ∧ (Instr.sts 126 2 0 1 false 0 .w64 0).wf = false ∧
    (Instr.ldp 1 2 0 .z8 0).wf = false ∧ (Instr.ldp 126 2 0 .w64 0).wf = false ∧ (Instr.stp 1 2 0 .z16 0).wf = false ∧
    (Instr.stp 124 2 0 .w128 0).wf = false ∧ (Instr.gfetch 127 false 0 1 2 3).wf = false ∧
    (Instr.copyl 1 2 .b4 0 1 1 false 1 1 0).wf = false := by decide

theorem test_wf_atomic : (Instr.atom 2 3 .add 0 1 .weak false 0).wf = false ∧ (Instr.atom 3 2 .add 0 1 .strong true 0).wf = false ∧
    (Instr.atom 2 3 .fadd 0 1 .strong true 0).wf = false ∧ (Instr.acas 1 2 3 0 1 .weak false 4 0).wf = false ∧
    (Instr.acas 1 3 2 0 1 .strong true 4 0).wf = false ∧ (Instr.acas 1 2 3 0 1 .strong true 5 0).wf = false ∧
    (Instr.dcas 1 2 3 0 1 1 4 .weak).wf = false ∧ (Instr.dcas 1 124 3 0 1 1 4 .strong).wf = false ∧
    (Instr.amove 2 3 false 0 1 1 4 .weak).wf = false ∧ (Instr.amove 3 2 true 0 1 1 4 .strong).wf = false := by decide

theorem test_wf_matrix : (Instr.mzero 96 0).wf = false ∧ (Instr.mma 96 false false 0 1 1 1 2).wf = false ∧
    (Instr.mmas 96 false false false 0 1 1 1 2).wf = false ∧ (Instr.mmas 8 false false false 0 1 1 63 2).wf = false ∧
    (Instr.mmag 96 false false 0 1 1 1 2).wf = false ∧ (Instr.mstore 96 .f32 0 0 1).wf = false ∧ (Instr.mstore 8 .f32 0 1 1).wf = false ∧
    (Instr.mload 96 .f32 0 0 1).wf = false ∧ (Instr.mload 8 .bf16 0 1 1).wf = false := by decide

theorem test_wf_lanes : (Instr.expand 1 2 true 0 0 3 48).wf = false ∧ (Instr.expand 1 2 false 0 0 3 1).wf = false ∧
    (Instr.xsect 126 2 false 0 3 1 2 3).wf = false ∧ (Instr.xmerge 125 2 false 0 3 1 2 3).wf = false ∧
    (Instr.scaleq 126 2 true 0 0x0739).wf = false ∧ (Instr.scaleq 1 2 false 0 0x0001).wf = false := by decide

theorem test_wf_engine : (Instr.tfetch 124 0 1).wf = false ∧ (Instr.atrPush 1 120 0 0 7 1 1 2).wf = false ∧
    (Instr.atrRet 1 0 0 7 120).wf = false := by decide

theorem test_wf_sync : (Instr.barSync 48).wf = false ∧ (Instr.barArv 1 48).wf = false ∧ (Instr.barWait 1 48).wf = false ∧
    (Instr.joinGal 48).wf = false ∧ (Instr.leaveGal 48).wf = false ∧ (Instr.barInit 48 1).wf = false ∧ (Instr.barInit 1 2049).wf = false ∧
    (Instr.barSyncn 48 1).wf = false ∧ (Instr.barSyncn 1 0).wf = false ∧ (Instr.barSyncn 1 2049).wf = false ∧
    (Instr.bestTake 124 false).wf = false ∧ (Instr.gtime 3 false).wf = false ∧ (Instr.tlwait 1 0 3 0).wf = false ∧
    (Instr.dlSet 127 false).wf = false := by decide

theorem test_wf_system : (Instr.grow 1 0).wf = false ∧ (Instr.grow 1 17).wf = false ∧ (Instr.shrink 0).wf = false ∧ (Instr.shrink 17).wf = false ∧
    (Instr.csrr 1 0x03).wf = false ∧ (Instr.csrw 1 0x00).wf = false ∧ (Instr.tlbi 1 3 4).wf = false ∧ (Instr.tlbi 1 2 127).wf = false := by
  decide

/-! Single steps, with results worked out by hand from the rules. -/

/-- R75: addition wraps. -/
theorem test_iadd_wraps : flightIs (exec (.iadd 1 2 3 false) (regs (placed (.iadd 1 2 3 false)) [(2, 0, 0xFFFFFFFF), (3, 0, 2)]))
    (fun f => decide (f.g 0 1 = 1)) = true := by decide +kernel

/-- R45: a write to gz is discarded. -/
theorem test_gz : flightIs (exec (.mov32i 127 false 5) (placed (.mov32i 127 false 5))) (fun f => decide (f.gpr = [])) = true := by
  decide +kernel

/-- R75: the shift amount is the low 8 bits; 32 and more shift everything out, and a shift right keeps the sign. -/
theorem test_shifts : flightIs (exec (.shl 1 2 3 false) (regs (placed (.shl 1 2 3 false)) [(2, 0, 1), (3, 0, 32), (2, 1, 1), (3, 1, 257)]))
      (fun f => decide (f.g 0 1 = 0 ∧ f.g 1 1 = 2)) = true ∧
    flightIs (exec (.sar 1 2 3 false) (regs (placed (.sar 1 2 3 false)) [(2, 0, 0x80000000), (3, 0, 40)]))
      (fun f => decide (f.g 0 1 = 0xFFFFFFFF)) = true := by decide +kernel

/-- R80: a division by zero gives all ones, a remainder its dividend. -/
theorem test_divide_by_zero :
    pendingIs (exec (.divi 1 2 0 3) (regs (lanes (placed (.divi 1 2 0 3)) 1) [(2, 0, 7)]))
      (fun p => decide (p = .write [(1, 0, 0xFFFFFFFF)] [] 0)) = true ∧
    pendingIs (exec (.remi 1 2 0 3) (regs (lanes (placed (.remi 1 2 0 3)) 1) [(2, 0, 7)]))
      (fun p => decide (p = .write [(1, 0, 7)] [] 0)) = true := by decide +kernel

/-- R114: 1.0 + 1.0 is 2.0, and infinity minus infinity is the canonical NaN and raises invalid. -/
theorem test_fadd : flightIs (exec (.fadd 1 2 3 false) (regs (lanes (placed (.fadd 1 2 3 false)) 3)
      [(2, 0, 0x3F800000), (3, 0, 0x3F800000), (2, 1, 0x7F800000), (3, 1, 0xFF800000)]))
    (fun f => decide (f.g 0 1 = 0x40000000 ∧ f.g 1 1 = 0x7FC00000 ∧ f.fpstat = 1)) = true := by decide +kernel

/-- R81: −1 is less than 1 as a signed number and not as an unsigned one. -/
theorem test_icmp : flightIs (exec (.icmpI 1 .lt 2 3) (regs (placed (.icmpI 1 .lt 2 3)) [(2, 0, 0xFFFFFFFF), (3, 0, 1)]))
      (fun f => f.p 0 1) = true ∧
    flightIs (exec (.icmpN 1 .lt 2 3) (regs (placed (.icmpN 1 .lt 2 3)) [(2, 0, 0xFFFFFFFF), (3, 0, 1)])) (fun f => !f.p 0 1) = true := by
  decide +kernel

/-- R165: a lane takes its own value when its partner is not active. -/
theorem test_swz : flightIs (exec (.swz 3 2 1) (regs (lanes (placed (.swz 3 2 1)) 7) [(2, 0, 10), (2, 1, 11), (2, 2, 12), (2, 3, 13)]))
    (fun f => decide (f.g 0 3 = 11 ∧ f.g 1 3 = 10 ∧ f.g 2 3 = 12 ∧ f.g 3 3 = 0)) = true := by decide +kernel

/-- R167: BALLOT gives the mask of the lanes whose predicate is true. -/
theorem test_ballot : flightIs (exec (.ballot 3 false 1) (tweak (lanes (placed (.ballot 3 false 1)) 7) (fun f => f.setPs [(1, 1, true), (1, 5, true)])))
    (fun f => decide (f.g 0 3 = 2 ∧ f.g 2 3 = 2)) = true := by decide +kernel

/-- R95: a branch that some lanes take splits the slot: one side in each slot, and a JOIN on the stack. -/
theorem test_bra_splits : flightIs (exec (.bra 1 false 4 8) (tweak (lanes (placed (.bra 1 false 4 8)) 3) (fun f => f.setPs [(1, 1, true)])))
    (fun f => decide (f.a.mask = 1 ∧ f.b.mask = 2 ∧ f.b.pc = 28 ∧ f.stack.map (fun e => (e.kind, e.mask, e.pc)) = [(.join, 3, 44)])) = true := by
  decide +kernel

/-- R335: the value of key 0, stream 0, counter 0. -/
theorem test_rng : flightIs (exec (.rng 8 2 3 false) (placed (.rng 8 2 3 false))) (fun f => decide (f.g 0 8 = 0)) = true := by
  decide +kernel

/-- R6, R90, R303: TRAP writes a record with code 0x14 and its n, and ends the gang of a launch without handler. -/
theorem test_trap_record : nextIs (exec (.trap 9) (lanes (placed (.trap 9)) 1)) (fun t => decide (t.frTail = 1 ∧ wordAt t.mem 0 = 0x14 ∧
    wordAt t.mem 36 = 9 ∧ t.flights = [])) = true := by decide +kernel

/-- R184, R183: a strong store of a word, read by a strong load. -/
theorem test_store_strong : nextIs (exec (.st 5 2 false 0 1 .strong .w32 16) (regs (lanes (mapped (placed (.st 5 2 false 0 1 .strong .w32 16))) 1)
    [(2, 0, 0x40), (5, 0, 0x11223344)])) (fun t => decide (wordAt t.mem 0x200050 = 0x11223344)) = true := by decide +kernel

theorem test_load_strong : pendingIs (exec (.ld 5 2 false 0 2 .strong .s8 0) { regs (lanes (mapped (placed (.ld 5 2 false 0 2 .strong .s8 0))) 1)
    [(2, 0, 0x40)] with hostMem := [(0x40, 0x80)] }) (fun p => match p with
      | .reading w _ => decide (w = [(5, 0, 0xFFFFFF80)])
      | _ => false) = true := by decide +kernel

/-- R232: ATOM.ADD gives the old value and stores the sum. -/
theorem test_atom_add : nextIs (exec (.atom 5 2 .add 0 2 .strong false 0) { regs (lanes (mapped (placed (.atom 5 2 .add 0 2 .strong false 0))) 1)
    [(2, 0, 0x40), (5, 0, 3)] with hostMem := [(0x40, 4)] }) (fun t => decide (wordAt t.hostMem 0x40 = 7)) = true := by decide +kernel

/-- R193: a lane outside a plain window is switched off and sets its FMASK bit. -/
theorem test_scratch_off : flightIs (exec (.lds 5 2 0 1 false 0 .w32 0) (regs (lanes (relaunch (placed (.lds 5 2 0 1 false 0 .w32 0))
    (fun la => { la with windows := [⟨1, false, 64⟩] })) 3) [(2, 1, 64)])) (fun f => decide (f.fmask = 2)) = true := by decide +kernel

/-- The word of IADDI g2, g2, 4 is fetched, decoded and carried out by one step. -/
theorem test_step : flightIs (step (State.reset.withFetchWord 32 0x05410204)) (fun f => decide (f.g 0 2 = 4 ∧ f.g 31 2 = 4)) = true := by
  decide +kernel

/-- R306: the doorbell of a queue only rises. -/
theorem test_doorbell : nextIs (exec (.doorbell 3 5) (State.reset.setQueue 3 { Queue.reset with doorbell := 9 }))
    (fun t => decide ((t.queue 3).doorbell = 9)) = true := by decide +kernel


/-! For each statement, states and operands that meet its hypotheses: every instruction issues somewhere. -/

/-- Every instruction of a list issues from flight 0 of its state. -/
def allSee (st : Instr → State) (is : List Instr) : Bool := is.all (fun i => sees (st i) i false (fun _ _ _ _ => true))

theorem Seen.all {st : Instr → State} {is : List Instr} (h : allSee st is = true) : ∀ i ∈ is, Seen (st i) i false (fun _ _ _ _ => True) := by
  intro i hi
  have h1 := List.all_eq_true.mp h i hi
  exact (Seen.of (p := fun _ _ _ _ => True) (by simpa using h1)).imp (fun _ _ _ _ x => x)

theorem Seen.and {s : State} {i : Instr} {b : Bool} {p q : State → Flight → Launch → Clause → Prop} (w : Seen s i b p)
    (k : ∀ s f la c, q s f la c) : Seen s i b q := w.imp (fun f la c _ _ => k s f la c)

/-- The integer instructions of one result. -/
def ints : List Instr :=
  [.iadd 1 2 3 false, .isub 1 2 3 true, .imul 1 2 3 false, .imulhI 1 2 3 false, .imulhN 1 2 3 false, .iminI 1 2 3 false,
   .iminN 1 2 3 false, .imaxI 1 2 3 false, .imaxN 127 2 3 false, .iabs 1 2 false, .and 1 2 3 false, .or 1 2 3 false, .xor 1 2 3 false,
   .andn 1 2 3 false, .shl 1 2 3 false, .shr 1 2 3 false, .sar 1 2 3 false, .rotl 1 2 3 false, .popc 1 2 false, .clz 1 2 false] ++
  [.brev 1 2 false, .iaddi 1 2 (-1), .shli 1 2 31, .shri 1 2 0, .sari 1 2 31, .andi 1 2 255, .ori 1 2 1, .xori 1 2 1,
   .imad 1 2 3 false 4, .iadd32i 1 2 false 0xFFFFFFFF, .lea 1 2 3 false 15, .bfe 1 2 false true 8 24, .bfi 1 2 3 false 8 24,
   .iadd64 124 2 4 false, .imulwI 2 3 5 false, .imulwN 2 3 5 false]

theorem test_meets_integer_values : ∀ i ∈ ints, i.wf = true ∧ Seen (placed i) i false (fun _ f _ _ =>
    ∃ (d : Reg) (vals : Nat → List Word), ∀ l, intValue f l i = some (d, vals l)) := by
  have h := Seen.all (st := placed) (is := ints) (by decide +kernel)
  have w : ∀ i ∈ ints, i.wf = true := by decide
  have v : ∀ i ∈ ints, ∀ f, ∃ (d : Reg) (vals : Nat → List Word), ∀ l, intValue f l i = some (d, vals l) := by
    repeat (refine List.forall_mem_cons.mpr ⟨fun f => ⟨_, _, fun l => rfl⟩, ?_⟩)
    exact List.forall_mem_nil _
  exact fun i hi => ⟨w i hi, (h i hi).and (fun _ f _ _ => v i hi f)⟩

theorem test_meets_division_values : ∀ i ∈ [Instr.divi 1 2 15 3, .divn 1 2 0 3, .remi 127 2 0 3, .remn 1 2 0 3],
    Seen (placed i) i false (fun _ f _ _ => ∃ (d : Reg) (vals : Nat → List Word), ∀ l, divValue f l i = some (d, vals l)) := by
  have h := Seen.all (st := placed) (is := [.divi 1 2 15 3, .divn 1 2 0 3, .remi 127 2 0 3, .remn 1 2 0 3]) (by decide +kernel)
  have v : ∀ i ∈ [Instr.divi 1 2 15 3, .divn 1 2 0 3, .remi 127 2 0 3, .remn 1 2 0 3], ∀ f, ∃ (d : Reg) (vals : Nat → List Word),
      ∀ l, divValue f l i = some (d, vals l) := by
    repeat (refine List.forall_mem_cons.mpr ⟨fun f => ⟨_, _, fun l => rfl⟩, ?_⟩)
    exact List.forall_mem_nil _
  exact fun i hi => (h i hi).and (fun _ f _ _ => v i hi f)

/-- The floating-point instructions of one result. -/
def floats : List Instr :=
  [.fadd 1 2 3 false, .fsub 1 2 3 false, .fmul 1 2 3 true, .fmin 1 2 3 false, .fmax 127 2 3 false, .hadd2Bf 1 2 3 false, .hmul2Bf 1 2 3 false,
   .hadd2Hf 1 2 3 false, .hmul2Hf 1 2 3 false, .hmin2Bf 1 2 3 false, .hmax2Bf 1 2 3 false, .ffma 1 2 3 false 4 .rz, .faddm 1 2 3 false .ru,
   .fmulm 1 2 3 false .rd, .hfma2Bf 1 2 3 false 4 .rne, .hfma2Hf 1 2 3 false 4 .rz, .faddi 1 2 false 0x3F800000, .fmuli 1 2 false 0]

theorem test_meets_float_results : ∀ i ∈ floats, Seen (placed i) i false (fun _ f _ _ =>
    ∃ (d : Reg) (res : Nat → FpRes), ∀ l, floatValue f l i = some (d, res l)) := by
  have h := Seen.all (st := placed) (is := floats) (by decide +kernel)
  have v : ∀ i ∈ floats, ∀ f, ∃ (d : Reg) (res : Nat → FpRes), ∀ l, floatValue f l i = some (d, res l) := by
    repeat (refine List.forall_mem_cons.mpr ⟨fun f => ⟨_, _, fun l => rfl⟩, ?_⟩)
    exact List.forall_mem_nil _
  exact fun i hi => (h i hi).and (fun _ f _ _ => v i hi f)

/-- The instructions that write a predicate from registers or predicates. -/
def compares : List Instr :=
  [.icmpI 1 .ge 2 3, .icmpN 1 .lt 2 3, .icmpiI 1 .eq 2 (-64), .fcmp 15 .nan 2 3, .pbool 1 .and true 2 false 3, .pbool 15 .xor true 2 true 15]

theorem test_meets_compare_results : ∀ i ∈ compares, Seen (placed i) i false (fun _ f _ _ =>
    ∃ (pd : PReg) (val : Nat → Bool) (fl : Nat → Word), ∀ l, predValue f l i = some (pd, val l, fl l)) := by
  have h := Seen.all (st := placed) (is := compares) (by decide +kernel)
  have v : ∀ i ∈ compares, ∀ f, ∃ (pd : PReg) (val : Nat → Bool) (fl : Nat → Word), ∀ l, predValue f l i = some (pd, val l, fl l) := by
    repeat (refine List.forall_mem_cons.mpr ⟨fun f => ⟨_, _, _, fun l => rfl⟩, ?_⟩)
    exact List.forall_mem_nil _
  exact fun i hi => (h i hi).and (fun _ f _ _ => v i hi f)

/-- The moves and selections into general registers. -/
def moves : List Instr := [.mov 1 2 false, .movi 1 (-128), .mov32i 127 false 5, .u2g 1 63 false, .sel 1 2 3 false 15 true, .p2g 1 false]

theorem test_meets_move_results : ∀ i ∈ moves, Seen (placed i) i false (fun _ f _ _ =>
    ∃ (d : Reg) (val : Nat → Word), ∀ l, moveValue f l i = some (d, val l)) := by
  have h := Seen.all (st := placed) (is := moves) (by decide +kernel)
  have v : ∀ i ∈ moves, ∀ f, ∃ (d : Reg) (val : Nat → Word), ∀ l, moveValue f l i = some (d, val l) := by
    repeat (refine List.forall_mem_cons.mpr ⟨fun f => ⟨_, _, fun l => rfl⟩, ?_⟩)
    exact List.forall_mem_nil _
  exact fun i hi => (h i hi).and (fun _ f _ _ => v i hi f)

/-- The uniform instructions. -/
def uniforms : List Instr := [.g2u 1 2, .uadd 1 2 3, .umov 63 2, .uand 1 2 63, .ushl 1 2 3, .umovi 1 (-1), .umov32i 1 0x80000000]

theorem test_meets_uniform_results : ∀ i ∈ uniforms, Seen (placed i) i false (fun _ f _ c =>
    ∃ (u : UReg) (v : Word), unifValue f (f.acting false c) i = some (u, v)) := by
  have h := Seen.all (st := placed) (is := uniforms) (by decide +kernel)
  have v : ∀ i ∈ uniforms, ∀ f c, ∃ (u : UReg) (v : Word), unifValue f (f.acting false c) i = some (u, v) := by
    repeat (refine List.forall_mem_cons.mpr ⟨fun f c => ⟨_, _, rfl⟩, ?_⟩)
    exact List.forall_mem_nil _
  exact fun i hi => (h i hi).and (fun _ f _ c => v i hi f c)

/-- The conversions and special functions. -/
def conversions : List Instr :=
  [.frcp 1 2 0, .frsq 1 2 0, .fsqrt 1 2 0, .fexp2 1 2 0, .flog2 1 2 0, .fsinr 1 2 0, .fcosr 1 2 0, .frnd 1 2 .ru 0, .fclass 1 2 0, .f2iI 1 2 0,
   .f2iN 1 2 0, .i2fI 1 2 0, .i2fN 1 2 0, .f2bf 1 2 0, .bf2f 1 2 0, .f2hf 1 2 0, .hf2f 127 2 15, .cvtn 1 2 0 3 false 0x0739, .unpn 1 2 0 3 true 0x0115] ++
  [.f2iM 1 2 0 true .rz]

theorem test_meets_conversion_results : ∀ i ∈ conversions, Seen (placed i) i false (fun _ f _ _ =>
    ∃ (d : Reg) (vals : Nat → List Word) (fl : Nat → Word), ∀ l, convValue f l i = some (d, vals l, fl l)) := by
  have h := Seen.all (st := placed) (is := conversions) (by decide +kernel)
  have v : ∀ i ∈ conversions, ∀ f, ∃ (d : Reg) (vals : Nat → List Word) (fl : Nat → Word), ∀ l, convValue f l i = some (d, vals l, fl l) := by
    repeat (refine List.forall_mem_cons.mpr ⟨fun f => ⟨_, _, _, fun l => rfl⟩, ?_⟩)
    exact List.forall_mem_nil _
  exact fun i hi => (h i hi).and (fun _ f _ _ => v i hi f)

/-- The cross-lane instructions that write a general register. -/
def exchanges : List Instr := [.swz 1 2 31, .shfl 1 2 3 false, .ballot 1 true 2, .matchLanes 1 2, .scan 1 2 true .minI, .reduce 127 2 .fadd]

theorem test_meets_lane_results : ∀ i ∈ exchanges, Seen (placed i) i false (fun _ f _ c =>
    ∃ (d : Reg) (val : Nat → Word), ∀ l, laneValue f (f.acting false c) l i = some (d, val l)) := by
  have h := Seen.all (st := placed) (is := exchanges) (by decide +kernel)
  have v : ∀ i ∈ exchanges, ∀ f c, ∃ (d : Reg) (val : Nat → Word), ∀ l, laneValue f (f.acting false c) l i = some (d, val l) := by
    repeat (refine List.forall_mem_cons.mpr ⟨fun f c => ⟨_, _, fun l => rfl⟩, ?_⟩)
    exact List.forall_mem_nil _
  exact fun i hi => (h i hi).and (fun _ f _ c => v i hi f c)

/-- Instructions whose statements suppose no more than that they issue (PBOOL, SWZ and SHFL once more). -/
def plainOnes : List Instr :=
  [.g2p 127, .vote 1 .uni true 2, .swr 2 13, .swr 2 14, .swr 127 15, .swr 2 16, .jmp 0x200000, .nop, .yield, .sleep 0, .sleep 255, .mzero 95 0,
   .midle 1 true 0, .astat 127 0, .rng 1 2 3 false, .gtime 124 true, .csrr 1 0x30, .csrw 2 0x30, .halt 2, .faultack 2] ++
  [.grow 15 1, .shrink 16, .xmerge 2 4 true 0 5 1 2 3, .xsect 2 4 false 0 5 1 15 3, .scaleq 1 2 false 0 0x0115, .pbool 1 .or false 2 true 3, .swz 1 2 0,
   .shfl 1 2 3 true, .tlbi 4 6 8]

/-- The placed flight as the firmware core's own. -/
def asFirmware (s : State) : State := tweak s (fun f => { f with kind := .firmware })

theorem test_meets_plain : ∀ i ∈ plainOnes, Seen (asFirmware (placed i)) i false (fun _ _ _ _ => True) := Seen.all (by decide +kernel)

theorem test_meets_srd : ∀ i ∈ [Instr.srd 1 0, .srd 127 20], Seen (placed i) i false (fun _ _ _ _ => True) := Seen.all (by decide +kernel)

theorem test_meets_call : Seen (tweak (placed (.call 3)) (fun f => { f with stack := List.replicate 63 { kind := .frame, pc := 0, mask := 1, ref := none } }))
    (.call 3) false (fun _ f _ _ => f.undone false = [] ∧ f.stack.length < 64) := Seen.of (by decide +kernel)

/-- A flight in a subroutine: a frame on its stack. -/
def inCall (s : State) : State :=
  tweak s (fun f => { f with stack := [{ kind := .frame, pc := 8, mask := f.a.mask, ref := none }], a := { f.a with ref := some 0 } })

theorem test_meets_ret : Seen (inCall (placed .ret)) .ret false (fun _ f _ c =>
    f.undone false = [] ∧ ∃ g, ((f.issued false c .ret).closeWindows false).ret false = some g) :=
  (Seen.of (p := fun _ f _ c => f.undone false = [] ∧ (((f.issued false c .ret).closeWindows false).ret false).isSome = true)
    (by decide +kernel)).imp (fun _ _ _ _ x => ⟨x.1, Option.isSome_iff_exists.mp x.2⟩)

theorem test_meets_ret_exit : Seen (placed .ret) .ret false (fun s f _ c =>
    f.undone false = [] ∧ ((f.issued false c .ret).closeWindows false).ret false = none ∧ f.stack.all (fun e => decide (e.kind ≠ .frame)) = true ∧
      nextIs (exec .ret s) (fun t => !t.hole && (t.flight 0).isNone) = true) := Seen.of (by decide +kernel)

theorem test_meets_exit : Seen (lanes (placed .exit) 5) .exit false (fun _ f _ _ => f.undone false = []) := Seen.of (by decide +kernel)

/-- BRA taken by all lanes, by none, and by some, with the other slot free and in use. -/
theorem test_meets_bra_all : Seen (placed (.bra 15 false 4 8)) (.bra 15 false 4 8) false (fun _ f _ _ =>
    (f.slot false).mask &&& ~~~(f.pMask 15) = 0) := Seen.of (by decide +kernel)

theorem test_meets_bra_none : Seen (placed (.bra 15 true 4 8)) (.bra 15 true 4 8) false (fun _ f _ _ =>
    (f.slot false).mask &&& ~~~(~~~(f.pMask 15)) ≠ 0 ∧ (f.slot false).mask &&& ~~~(f.pMask 15) = 0) := Seen.of (by decide +kernel)

theorem test_meets_bra_some : Seen (tweak (placed (.bra 1 false 4 8)) (fun f => f.setPs [(1, 31, true)])) (.bra 1 false 4 8) false (fun _ f _ c =>
    (f.slot false).mask &&& ~~~(f.pMask 1) ≠ 0 ∧ (f.slot false).mask &&& f.pMask 1 ≠ 0 ∧ f.undone false = [] ∧
      (((f.issued false c (.bra 1 false 4 8)).closeWindows false).split false
        [(c.base + BitVec.ofNat 32 (4 * (hdrCount c.hdr + 1)), (f.slot false).mask &&& ~~~(f.pMask 1)),
         ((f.slot false).pc + 8 + 16, (f.slot false).mask &&& f.pMask 1)] ((f.slot false).pc + 8 + 32)).isSome = true) := Seen.of (by decide +kernel)

theorem test_meets_brx_one : Seen (regs (lanes (placed (.brx 2 8)) 3) [(2, 0, 64), (2, 1, 64)]) (.brx 2 8) false (fun _ f _ _ =>
    (∀ l ∈ lanesOf (f.slot false).mask, (f.g l 2).toNat % 4 = 0) ∧
      groupLanes ((lanesOf (f.slot false).mask).map (fun l => (l, f.g l 2))) = [(64, 3)]) := Seen.of (by decide +kernel)

theorem test_meets_brx_two : Seen (regs (lanes (placed (.brx 2 8)) 3) [(2, 0, 64), (2, 1, 60)]) (.brx 2 8) false (fun _ f _ c =>
    (∀ l ∈ lanesOf (f.slot false).mask, (f.g l 2).toNat % 4 = 0) ∧
      2 ≤ (groupLanes ((lanesOf (f.slot false).mask).map (fun l => (l, f.g l 2)))).length ∧ f.undone false = [] ∧
      (((f.issued false c (.brx 2 8)).closeWindows false).split false (groupLanes ((lanesOf (f.slot false).mask).map (fun l => (l, f.g l 2))))
        ((f.slot false).pc + 8 + 32)).isSome = true) := Seen.of (by decide +kernel)

/-- The placed launch with a handler role that takes user traps. -/
def withHandler (s : State) : State :=
  relaunch s (fun la => { la with roles := la.roles ++ [⟨3, 64, 0, 0, true, false, true, 16⟩, ⟨5, 16, 0, 0, false, true, false, 16⟩] })

theorem test_meets_trap : ∀ i ∈ [Instr.trap 255, .brk 0], Seen (withHandler (placed i)) i false (fun s f la c =>
    (∀ l ∈ lanesOf (f.acting false c), f.inRegion l = false) ∧ s.ringRoom ≠ 0 ∧ f.kind ≠ .handler ∧
      la.takesTraps = true) ∧ Seen (placed i) i false (fun s f la c => (∀ l ∈ lanesOf (f.acting false c), f.inRegion l = false) ∧
        s.ringRoom ≠ 0 ∧ la.takesTraps = false) := by
  refine List.forall_mem_cons.mpr ⟨⟨Seen.of (by decide +kernel), Seen.of (by decide +kernel)⟩, List.forall_mem_cons.mpr ⟨⟨Seen.of (by decide +kernel),
    Seen.of (by decide +kernel)⟩, List.forall_mem_nil _⟩⟩

/-- What flight 0 of a state stands before, and its launch and clause. -/
def standing (s : State) (p : Flight → Launch → Clause → Bool) : Bool :=
  (s.flight 0).elim false (fun f => (Tbl.find s.launches f.launch.toNat).elim false (fun la => (f.slot false).clause.elim false (fun c => p f la c)))

theorem standing.out {s : State} {p : Flight → Launch → Clause → Bool} (h : standing s p = true) : ∃ f la c, s.flight 0 = some f ∧
    Tbl.find s.launches f.launch.toNat = some la ∧ (f.slot false).clause = some c ∧ p f la c = true := by
  unfold standing at h
  cases hf : s.flight 0 with
  | none => rw [hf] at h; cases h
  | some f =>
    rw [hf] at h
    cases hl : Tbl.find s.launches f.launch.toNat with
    | none => rw [Option.elim, hl] at h; cases h
    | some la =>
      rw [Option.elim, hl] at h
      cases hc : (f.slot false).clause with
      | none => rw [Option.elim, hc] at h; cases h
      | some c => rw [Option.elim, hc] at h; exact ⟨f, la, c, rfl, hl, hc, h⟩

/-- A flight of a program that meets an instruction of the firmware core. -/
def unprivileged : State := tweak (withHandler (placed (.halt 2))) (fun f => { f with kind := .resident })

theorem test_meets_privilege : unprivileged.cur = { flight := 0, slotB := false } ∧ ∃ f la c, unprivileged.flight 0 = some f ∧
    Tbl.find unprivileged.launches f.launch.toNat = some la ∧ (f.slot false).clause = some c ∧
    decide (unprivileged.ready 0 f false (.halt 2) = true ∧ (∀ r ∈ (Instr.halt 2).use.gr ++ (Instr.halt 2).use.gw, r < f.allot) ∧
      (Instr.halt 2).allowed f.kind = false ∧ f.regions = [] ∧ unprivileged.ringRoom ≠ 0 ∧ f.kind ≠ .handler ∧
      la.takesTraps = true) = true := ⟨by decide +kernel, standing.out (by decide +kernel)⟩

/-- LDP and STP at the limit of the role's private words, one lane. -/
theorem test_meets_ldp : Seen (regs (lanes (placed (.ldp 4 2 0 .w64 (-2))) 1) [(2, 0, 0x10000)]) (.ldp 4 2 0 .w64 (-2)) false (fun s f la c =>
    (∀ l ∈ lanesOf (f.acting false c), 0 ≤ (f.g l 2).toInt + (-2) ∧
      (f.g l 2).toInt + (-2) + (Width.regs .w64 : Int) ≤ ((la.roles[f.role]?).map (fun r => (r.privWords : Int))).getD 0) ∧
    (let r := thread (fun (u : Nat × Mask) s => s.privFetch 0 u) (privUses 2 ((lanesOf (f.acting false c)).map (fun l => (l, (f.g l 2).toInt + (-2)))))
        (s.begun 0 false f c (.ldp 4 2 0 .w64 (-2)));
      (r.1.all (fun x => x.isEmpty) && ((r.2.flight 0).isSome && !r.2.hole)) = true)) := Seen.of (by decide +kernel)

theorem test_meets_stp : Seen (lanes (placed (.stp 4 2 0 .w32 0)) 1) (.stp 4 2 0 .w32 0) false (fun _ f la c =>
    ∀ l ∈ lanesOf (f.acting false c), 0 ≤ (f.g l 2).toInt + 0 ∧
      (f.g l 2).toInt + 0 + (Width.regs .w32 : Int) ≤ ((la.roles[f.role]?).map (fun r => (r.privWords : Int))).getD 0) := Seen.of (by decide +kernel)

/-- A flight with a private block in L1, lane 0 of it dirty. -/
def privated : State := tweak (placed .nop) (fun f => { f with privs := [(224, 1), (225, 6)], pblocks := [⟨7, 15, 1, [(0, 5), (1, 6)]⟩] })

theorem test_meets_private_words : Tbl.sorted privated.flights = true ∧ ∃ f, privated.flight 0 = some f ∧ privTrue f ∧ f.privErrs = [] :=
  ⟨by decide +kernel, _, rfl, by unfold privTrue; decide +kernel, rfl⟩

/-- Window 1 of 64 bytes and ring 2 of 256 bytes in the placed workgroup. -/
def windowed (s : State) : State :=
  relaunch s (fun la => { la with windows := [⟨1, false, 64⟩, ⟨2, true, 256⟩], wgs := la.wgs.map (fun w => { w with wins := [(1, 0x1000), (2, 0x2000)] }) })

/-- LDS and STS at the last word of a window, one lane, its own core and, for STS, a peer that it is itself. -/
theorem test_meets_lds : Seen (regs (lanes (windowed (placed (.lds 5 2 0 1 false 0 .w32 4))) 1) [(2, 0, 56)]) (.lds 5 2 0 1 false 0 .w32 4) false
    (fun s f la c => la.peer 0 false 0 = some 0 ∧ (∀ l ∈ lanesOf (f.acting false c), ((f.g l 2).toNat + 4) % 4 = 0) ∧
      ∀ x ∈ scrGood (scrPlaces f (f.acting false c) 2 4 (la.winAt 0 1) 4), s.scrBad 0 x.2 4 = false) := Seen.of (by decide +kernel)

theorem test_meets_sts : Seen (regs (lanes (windowed (placed (.sts 5 2 0 2 true 0 .w64 0))) 3) [(2, 0, 0x1F8), (2, 1, 0x100)]) (.sts 5 2 0 2 true 0 .w64 0)
    false (fun _ f la c => la.peer 0 true 0 = some 0 ∧ (∀ l ∈ lanesOf (f.acting false c), ((f.g l 2).toNat + 0) % 8 = 0) ∧
      scrGood (scrPlaces f (f.acting false c) 2 0 (la.winAt 0 2) 8) = [(0, 0x20F8), (1, 0x2000)]) := Seen.of (by decide +kernel)

/-- One lane of the placed flight in mapped memory, its register 2 naming an offset. -/
def reaching (o : Word) (s : State) : State := regs (lanes (mapped s) 1) [(2, 0, o)]

/-- LD of the last word of the handle, weak, and of host space, acquiring. -/
theorem test_meets_ld_weak : Seen (reaching 0xFFFC (placed (.ld 5 2 false 0 1 .weak .w32 0))) (.ld 5 2 false 0 1 .weak .w32 0) false (fun s f la c =>
    f.regions = [] ∧ allAllowed (checksOf (s.begun 0 false f c (.ld 5 2 false 0 1 .weak .w32 0)) 0 la 1 4 .read false (offsetsOf f (f.acting false c) 2 0)).1) :=
  (Seen.of (p := fun s f la c => f.regions = [] ∧
    okAll (checksOf (s.begun 0 false f c (.ld 5 2 false 0 1 .weak .w32 0)) 0 la 1 4 .read false (offsetsOf f (f.acting false c) 2 0)).1 = true)
      (by decide +kernel)).imp (fun _ _ _ _ x => ⟨x.1, allAllowed_of_okAll x.2⟩)

theorem test_meets_ld_acquire : Seen (reaching 0x40 (placed (.ld 5 2 true 0 2 .acq .w128 (-16)))) (.ld 5 2 true 0 2 .acq .w128 (-16)) false (fun s f la c =>
    f.regions = [] ∧ (let rs := checksOf (s.begun 0 false f c (.ld 5 2 true 0 2 .acq .w128 (-16))) 0 la 2 16 .read true (offsetsOf f (f.acting false c) 2 (-16))
      allAllowed rs.1 ∧ (rs.2.loadNow 0 false 5 .w128 (passed rs.1)).2.hole = false)) :=
  (Seen.of (p := fun s f la c => f.regions = [] ∧
    okAll (checksOf (s.begun 0 false f c (.ld 5 2 true 0 2 .acq .w128 (-16))) 0 la 2 16 .read true (offsetsOf f (f.acting false c) 2 (-16))).1 = true ∧
    ((checksOf (s.begun 0 false f c (.ld 5 2 true 0 2 .acq .w128 (-16))) 0 la 2 16 .read true (offsetsOf f (f.acting false c) 2 (-16))).2.loadNow 0 false 5 .w128
      (passed (checksOf (s.begun 0 false f c (.ld 5 2 true 0 2 .acq .w128 (-16))) 0 la 2 16 .read true (offsetsOf f (f.acting false c) 2 (-16))).1)).2.hole = false)
      (by decide +kernel)).imp (fun _ _ _ _ x => ⟨x.1, allAllowed_of_okAll x.2.1, x.2.2⟩)

/-- What the statement on ST supposes, beside the checks. -/
def storeMeets (i : Instr) (ord : Order) (n : Nat) (d : Reg) (wd : Width) (rs : List (Nat × Except Deny LaneAddr) × State) (f : Flight) (m : Mask) : Bool :=
  okAll rs.1 && (decide (f.regions = []) && (decide (ord = .rel → (f.undone false).any Pending.isAccess = false) &&
    (decide (ord ≠ .weak → ∀ x ∈ passed rs.1, x.host = false → rs.2.held 0 m x.pa n = false) &&
      !(((if ord = .rel then rs.2.release 0 else rs.2).loadsFirst 0 false (passed rs.1) n).storeLanes 0 (decide (ord = .weak)) n
        ((passed rs.1).map (fun x => (x, storeValue f x.lane d wd)))).hole))) && i.wf

theorem test_meets_st : ∀ ord ∈ [Order.weak, .strong, .rel], Seen (reaching 0x40 (placed (.st 5 2 false 0 1 ord .w32 4))) (.st 5 2 false 0 1 ord .w32 4) false
    (fun s f la c => storeMeets (.st 5 2 false 0 1 ord .w32 4) ord 4 5 .w32
      (checksOf (s.begun 0 false f c (.st 5 2 false 0 1 ord .w32 4)) 0 la 1 4 .write false (offsetsOf f (f.acting false c) 2 4)) f (f.acting false c) = true) := by
  refine List.forall_mem_cons.mpr ⟨Seen.of (by decide +kernel), List.forall_mem_cons.mpr ⟨Seen.of (by decide +kernel), List.forall_mem_cons.mpr
    ⟨Seen.of (by decide +kernel), List.forall_mem_nil _⟩⟩⟩

/-- The same for an atomic with what it does. -/
def atomicMeets (n : Nat) (rel : Bool) (good : Bool) (words : List LaneAddr) (s0 : State) (f : Flight) (m : Mask) (run : State → List LaneWrites × State) : Bool :=
  good && (decide (rel = true → (f.undone false).any Pending.isAccess = false) && (decide (∀ x ∈ words, x.host = false → s0.held 0 m x.pa n = false) &&
    !(run ((if rel then s0.release 0 else s0).loadsFirst 0 false words n)).2.hole))

theorem test_meets_atom : ∀ x ∈ [(AtomOp.maxI, Order.rel, true), (.fadd, .strong, false)],
    Seen (reaching 0x40 (placed (.atom 6 2 x.1 0 1 x.2.1 x.2.2 8))) (.atom 6 2 x.1 0 1 x.2.1 x.2.2 8) false (fun s f la c =>
      (Instr.atom 6 2 x.1 0 1 x.2.1 x.2.2 8).wf = true ∧
      let rs := checksOf (s.begun 0 false f c (.atom 6 2 x.1 0 1 x.2.1 x.2.2 8)) 0 la 1 (if x.2.2 then 8 else 4) .atomic true (offsetsOf f (f.acting false c) 2 8)
      atomicMeets (if x.2.2 then 8 else 4) (decide (x.2.1 = .rel)) (okAll rs.1) (passed rs.1) rs.2 f (f.acting false c) (atomAll 0 x.1 x.2.2 f 6 (passed rs.1)) = true) := by
  refine List.forall_mem_cons.mpr ⟨Seen.of (by decide +kernel), List.forall_mem_cons.mpr ⟨Seen.of (by decide +kernel), List.forall_mem_nil _⟩⟩

theorem test_meets_acas : Seen (reaching 0x40 (placed (.acas 3 6 2 0 1 .acq true 8 8))) (.acas 3 6 2 0 1 .acq true 8 8) false (fun s f la c =>
    let rs := checksOf (s.begun 0 false f c (.acas 3 6 2 0 1 .acq true 8 8)) 0 la 1 8 .atomic true (offsetsOf f (f.acting false c) 2 8)
    atomicMeets 8 false (okAll rs.1) (passed rs.1) rs.2 f (f.acting false c) (acasAll 0 3 true f 6 8 (passed rs.1)) = true) := Seen.of (by decide +kernel)

theorem test_meets_dcas : Seen (regs (reaching 0x40 (placed (.dcas 3 12 2 0 1 1 16 .rel))) [(16, 0, 0x80)]) (.dcas 3 12 2 0 1 1 16 .rel) false (fun s f la c =>
    let rs := probeTwo 2 16 1 1 4 .atomic (placeOf 0 false f la c) f (s.begun 0 false f c (.dcas 3 12 2 0 1 1 16 .rel))
    atomicMeets 4 true (okAll rs.1) ((goodOf rs.1).flatMap (fun x => [x.1, x.2])) rs.2 f (f.acting false c) (dcasAll 0 3 f 12 (goodOf rs.1)) = true) := Seen.of (by decide +kernel)

theorem test_meets_amove : Seen (regs (reaching 0x40 (placed (.amove 12 2 true 0 1 1 16 .strong))) [(16, 0, 0x80)]) (.amove 12 2 true 0 1 1 16 .strong) false
    (fun s f la c =>
      let rs := probeTwo 2 16 1 1 8 .put (placeOf 0 false f la c) f (s.begun 0 false f c (.amove 12 2 true 0 1 1 16 .strong))
      atomicMeets 8 false (okAll rs.1) ((goodOf rs.1).flatMap (fun x => [x.1, x.2])) rs.2 f (f.acting false c) (amoveAll 0 true f 12 (goodOf rs.1)) = true) := Seen.of (by decide +kernel)

theorem test_meets_abegin : Seen (lanes (placed (.abegin 5)) 3) (.abegin 5) false (fun _ f _ _ => f.undone false = []) := Seen.of (by decide +kernel)

/-- A flight with an open region in lane 0, its second lane without one. -/
def inRegion (s : State) : State :=
  tweak s (fun f => { f with regions := [(0, { handler := 0x40, reads := [⟨0x80, 0x200080, 0, false⟩], writes := [⟨0x40, 0x200040, 9, .concrete⟩], cons := [],
                                               tags := [], priority := false })] })

theorem test_meets_aabort_none : Seen (placed .aabort) .aabort false (fun _ f _ c => (lanesOf (f.acting false c)).filter (fun l => f.inRegion l) = []) :=
  Seen.of (by decide +kernel)

theorem test_meets_aabort : Seen (lanes (inRegion (placed .aabort)) 3) .aabort false (fun _ f _ c =>
    (lanesOf (f.acting false c)).filter (fun l => f.inRegion l) = [0] ∧ f.undone false = [] ∧
      (((((f.issued false c .aabort).addPending false .aabort (f.slot false).pc (f.acting false c &&& ~~~1) true .finished).abortRegion
        { lane := 0, cause := 9, entry := 0 }).closeWindows false).placeAborted false (groupLanes [(0, 0x40)])).isSome = true) := Seen.of (by decide +kernel)

theorem test_meets_aend : Seen (lanes (inRegion (mapped (placed (.aend true false 3)))) 3) (.aend true false 3) false (fun s f la c =>
    (f.undone false).any Pending.isAccess = false ∧ commitHeld (s.begun 0 false f c (.aend true false 3)) la.ctx0 0 f (f.acting false c) = false ∧
      let rs := commitAll (placeOf 0 false f la c) (lanesOf (f.acting false c)) ((s.begun 0 false f c (.aend true false 3)).release 0)
      (∀ r ∈ rs.1, r.2.isSome = true) ∧ rs.2.hole = false) := Seen.of (by decide +kernel)

/-- The commit of lane 0 with a read that has changed and is hard, with a constraint whose outcome has changed, and with neither. -/
theorem test_meets_lane_commit : ([(true, true, (1 : Nat)), (false, true, 2), (false, false, 0)].all (fun x =>
    let s := inRegion (mapped (placed .nop))
    let rd (v : Word) (h : Bool) : ReadEnt := { va := 0x80, pa := 0x200080, obs := v, hard := h }
    let eq5 : Constraint := { k := 0, c := 0, signed := false, cc := .eq, v := 5, symLeft := true, outcome := x.2.1 }
    let r : Region := { handler := 0x40, reads := [rd 5 x.1], writes := [⟨0x40, 0x200040, 9, .concrete⟩], cons := [eq5], tags := [(3, .sym 0 2)],
                        priority := false }
    decide (s.errors = []) && standing s (fun f la c => (r.retranslated s 0 la.ctx0).1.toOption.isSome &&
      (match (commitLane (placeOf 0 false f la c) 0 r s).1 with
      | .abort a => decide (a.cause = x.2.2)
      | .ok ws _ => decide (x.2.2 = 0 ∧ ws = [(3, 0, 2)])
      | .fault _ => false)))) = true := by decide +kernel

/-- Words of a region that its write set holds, that its read set holds, that neither holds, and that neither has room for. -/
theorem test_meets_region_words : ([((0x40 : Int), (1 : Nat)), (0x80, 1), (0x100, 1), (0x100, 8)].all (fun x =>
    let s := inRegion (mapped (placed .nop))
    let full (r : Region) : Region := { r with
      priority := true, reads := (List.range x.2).map (fun k => ⟨0x80 + 4 * k, 0x200080 + 4 * k, 0, false⟩)
      writes := (List.range x.2).map (fun k => ⟨0x40 + 4 * k, 0x200040 + 4 * k, 9, .concrete⟩) }
    standing (tweak s (fun f => { f with regions := f.regions.map (fun e => (e.1, full e.2)) })) (fun f la _ => (Tbl.find f.regions 0).elim false (fun r =>
      let hd := s.handle 0 la.ctx0 1
      hd.1.elim false (fun h =>
        let va := handleVa h x.1
        let inW := r.writes.any (fun e => decide (e.va = va))
        let inR := r.reads.any (fun e => decide (e.va = va))
        let rd := hd.2.check 0 la.ctx0 1 0 (some h) x.1 4 (if inW || inR then .look else .read) false
        let wr := hd.2.check 0 la.ctx0 1 0 (some h) x.1 4 .write false
        decide (inW = decide (x.1 = 0x40) ∧ inR = decide (x.1 = 0x80) ∧ r.reads.length = x.2 ∧ r.writes.length = x.2) &&
          (rd.1.toOption.elim false (fun y => decide (rd.2.l1 = [] ∧ y.host = false ∧ y.pa % 4 = 0 ∧ y.va % 128 = y.pa % 128)) &&
            (wr.1.toOption.isSome && (rd.2.flight 0).isSome))))))) = true := by decide +kernel

theorem test_meets_region_ld : Seen (inRegion (reaching 0x40 (placed (.ld 5 2 false 0 1 .weak .w32 0)))) (.ld 5 2 false 0 1 .weak .w32 0) false (fun s f la c =>
    (∀ l ∈ lanesOf (f.acting false c), f.inRegion l = true) ∧
      let hd := (s.begun 0 false f c (.ld 5 2 false 0 1 .weak .w32 0)).handle 0 la.ctx0 1
      (hd.1.map (fun e => e.host)) = some false ∧
      let reg := thread (fun (x : Nat × Region) s => regionLd (placeOf 0 false f la c) 1 hd.1 false true 5 2 x.1 ((f.g x.1 2).toNat + 0) x.2 s)
        (regionLanes (f.issued false c (.ld 5 2 false 0 1 .weak .w32 0)) (f.acting false c)) hd.2
      (∀ r ∈ reg.1, r.faults = [] ∧ r.aborts = []) ∧ reg.2.hole = false) := Seen.of (by decide +kernel)

theorem test_meets_region_st : Seen (inRegion (reaching 0x44 (placed (.st 5 2 false 0 1 .strong .w32 0)))) (.st 5 2 false 0 1 .strong .w32 0) false (fun s f la c =>
    (∀ l ∈ lanesOf (f.acting false c), f.inRegion l = true) ∧
      let hd := (s.begun 0 false f c (.st 5 2 false 0 1 .strong .w32 0)).handle 0 la.ctx0 1
      (hd.1.map (fun e => e.host)) = some false ∧
      let reg := thread (fun (x : Nat × Region) s => regionSt (placeOf 0 false f la c) 1 hd.1 false 5 2 (f.g x.1 5) x.1 ((f.g x.1 2).toNat + 0) x.2 s)
        (regionLanes (f.issued false c (.st 5 2 false 0 1 .strong .w32 0)) (f.acting false c)) hd.2
      (∀ r ∈ reg.1, r.faults = [] ∧ r.aborts = []) ∧ reg.2.hole = false) := Seen.of (by decide +kernel)

theorem test_meets_fences : ∀ i ∈ [Instr.fenceAcq, .fenceRel, .fenceAr], Seen (placed i) i false (fun _ f _ _ => (f.undone false).any Pending.isAccess = false) := by
  refine List.forall_mem_cons.mpr ⟨Seen.of (by decide +kernel), List.forall_mem_cons.mpr ⟨Seen.of (by decide +kernel), List.forall_mem_cons.mpr
    ⟨Seen.of (by decide +kernel), List.forall_mem_nil _⟩⟩⟩

theorem test_meets_pref : ∀ l2 ∈ [false, true], Seen (reaching 0x40 (placed (.pref 2 l2 0 1 .w32 0))) (.pref 2 l2 0 1 .w32 0) false (fun s f la c =>
    let rs := checksOf (s.begun 0 false f c (.pref 2 l2 0 1 .w32 0)) 0 la 1 4 .look false (offsetsOf f (f.acting false c) 2 0)
    (if l2 then (passed rs.1).foldl (fun s x => s.fetchHome 4 x) rs.2 else rs.2.fillSpans 0 4 (passed rs.1)).hole = false) := by
  refine List.forall_mem_cons.mpr ⟨Seen.of (by decide +kernel), List.forall_mem_cons.mpr ⟨Seen.of (by decide +kernel), List.forall_mem_nil _⟩⟩

theorem test_meets_cctl : Seen (reaching 0xFFFF (placed (.cctl 2 .wbinv 0 1 0))) (.cctl 2 .wbinv 0 1 0) false (fun s f la c =>
    let hd := (s.begun 0 false f c (.cctl 2 .wbinv 0 1 0)).handle 0 la.ctx0 1
    hd.1.elim False (fun e => (∀ l ∈ lanesOf (f.acting false c), 0 ≤ ((f.g l 2).toNat : Int) + 0 ∧ ((f.g l 2).toNat : Int) + 0 < e.size) ∧
      ((lanesOf (f.acting false c)).foldl (fun s l => s.cctlBlock 0 la.ctx0 (handleVa e (((f.g l 2).toNat : Int) + 0)) .wbinv) hd.2).hole = false)) :=
  (Seen.of (p := fun s f la c =>
    let hd := (s.begun 0 false f c (.cctl 2 .wbinv 0 1 0)).handle 0 la.ctx0 1
    hd.1.elim false (fun e => decide ((∀ l ∈ lanesOf (f.acting false c), 0 ≤ ((f.g l 2).toNat : Int) + 0 ∧ ((f.g l 2).toNat : Int) + 0 < e.size) ∧
      ((lanesOf (f.acting false c)).foldl (fun s l => s.cctlBlock 0 la.ctx0 (handleVa e (((f.g l 2).toNat : Int) + 0)) .wbinv) hd.2).hole = false)) = true)
    (by decide +kernel)).imp (fun f la c _ x => by
      revert x
      cases ((reaching 0xFFFF (placed (.cctl 2 .wbinv 0 1 0))).begun 0 false f c (.cctl 2 .wbinv 0 1 0)).handle 0 la.ctx0 1 with
      | mk a b => cases a <;> simp)

/-- Tensors 1 (dense), 2 (sparse, two of four), 6 (an 8-bit format with a scale) in the table of context 0, two windows of the placed workgroup,
metadata and a group table in its scratchpad, and uniform registers that name tiles; one lane. -/
def tensored (s : State) : State :=
  let s1 := lanes (mapped s) 1
  let tens (w0 w1 e0 : Word) : List Word := [w0, w1, 0x1000, 0, 0, 0, e0, 40, 1, 1, 128, 0, 0, 0, 0, 0]
  let s2 := { s1 with
    mem := putWords (putWords (putWords s1.mem 0xA040 (tens 0x90000001 0 64)) 0xA080 (tens 0x90200001 0 64)) 0xA180
      [0xC5000001, 0x0115, 0, 0, 0x1800, 0, 64, 40, 1, 1, 128, 0, 0, 0, 0, 0]
    scratch := [(0, putWords (putWords [] 0x4000 (List.replicate 8 0x10101010)) 0x4100 [1, 0, 0x0100, 0x01004000])] }
  tweak (relaunch s2 (fun la => { la with windows := [⟨1, false, 16384⟩, ⟨4, false, 512⟩], wgs := la.wgs.map (fun w => { w with wins := [(1, 0), (4, 0x4000)] }) }))
    (fun f => { f with unif := [(1, 0x01004000), (2, 0x04000000), (3, 0x04000008)] })

/-- What the statements on products suppose. -/
def productMeets (p : Place) (g : Flight) (s : State) (tA tB : BitVec 8) (sa sb : UReg) : Bool :=
  match productTensors p s tA tB false with
  | (some (A, B), s1) => decide (((tileOf p (g.u sa.toNat)).bind (fun tl => tileRows s1 A tl 32 A.kOf (lanesOf p.act))).map (fun r => r.2) = some false) &&
      (operandB p g s1 B sb A.kOf false).deny.isEmpty
  | _ => false

/-- For MMAS with two of four values, and 64 rows of B. -/
def sparseMeets (p : Place) (g : Flight) (s : State) (tA tB : BitVec 8) (sa sb : UReg) : Bool :=
  match productTensors p s tA tB true, tileOf p (g.u sa.toNat), tileOf p (g.u (sa.toNat + 1)) with
  | (some (A, B), s1), some tl, some mt =>
    decide (A.sparse = 2) && (decide (4 * A.kOf = 64) && ((match sparseNeeds A tl mt false 4 2 (lanesOf p.act) with
      | some need => tl.covers need.1 && (mt.covers need.2 && (!tl.bad s1 need.1 && !mt.bad s1 need.2))
      | none => false) &&
      (((lanesOf p.act).mapM (fun l => sparseRow s1 A tl mt false 4 2 l)).isSome && (operandB p g s1 B sb 64 false).deny.isEmpty)))
  | _, _, _ => false

def groupedMeets (p : Place) (g : Flight) (s : State) (tA tB : BitVec 8) (sa sb : UReg) : Bool :=
  match productTensors p s tA tB false, tileOf p (g.u sb.toNat) with
  | (some (A, B), s1), some tb =>
    (match groupTable s1 tb with
    | some gs =>
      let live := gs.filter (fun g => decide (g.rows ≠ 0))
      let used := live.filter (fun g => (lanesOf p.act).any (fun l => decide (g.first ≤ l) && decide (l < g.first + g.rows)))
      let ls := (lanesOf p.act).filter (fun l => used.any (fun g => decide (g.first ≤ l) && decide (l < g.first + g.rows)))
      groupsAscend 0 live && (!tb.bad s1 (tableBytes s1 tb) && decide (used.length = 1) &&
        (decide (((tileOf p (g.u sa.toNat)).bind (fun tl => tileRows s1 A tl 32 A.kOf ls)).map (fun r => r.2) = some false) &&
          used.all (fun g => (tileCols s1 B (tileOf p g.desc) A.kOf).deny.isEmpty)))
    | none => false)
  | _, _ => false

theorem test_meets_mma : Seen (tensored (placed (.mma 95 false false 0 1 1 1 1))) (.mma 95 false false 0 1 1 1 1) false (fun s f la c =>
    productMeets (placeOf 0 false f la c) (f.issued false c (.mma 95 false false 0 1 1 1 1)) (s.begun 0 false f c (.mma 95 false false 0 1 1 1 1)) 1 1 1 1 = true) :=
  Seen.of (by decide +kernel)

theorem test_meets_mmas : Seen (tensored (placed (.mmas 8 false false true 0 2 1 1 1))) (.mmas 8 false false true 0 2 1 1 1) false (fun s f la c =>
    sparseMeets (placeOf 0 false f la c) (f.issued false c (.mmas 8 false false true 0 2 1 1 1)) (s.begun 0 false f c (.mmas 8 false false true 0 2 1 1 1))
      2 1 1 1 = true) := Seen.of (by decide +kernel)

theorem test_meets_mmag : Seen (tensored (placed (.mmag 8 false false 0 1 1 1 3))) (.mmag 8 false false 0 1 1 1 3) false (fun s f la c =>
    groupedMeets (placeOf 0 false f la c) (f.issued false c (.mmag 8 false false 0 1 1 1 3)) (s.begun 0 false f c (.mmag 8 false false 0 1 1 1 3))
      1 1 1 3 = true) := Seen.of (by decide +kernel)

/-- What the statements on MSTORE and MLOAD suppose. -/
def rowsMeet (p : Place) (g : Flight) (s : State) (fmt : RowFmt) (t : BitVec 8) (sa : UReg) : Bool :=
  match rowTensor p s fmt t, tileOf p (g.u sa.toNat) with
  | (some x, s1), some tile => !s1.hole && (!tile.win.ring && (rowNeeds tile fmt x (lanesOf p.act)).elim false (fun os => decide os.Nodup && !tile.bad s1 os))
  | _, _ => false

theorem test_meets_mstore : ∀ x ∈ [(RowFmt.f32, (0 : BitVec 8)), (.bf16, 0), (.narrow, 6)],
    Seen (tensored (placed (.mstore 95 x.1 0 x.2 1))) (.mstore 95 x.1 0 x.2 1) false (fun s f la c =>
      rowsMeet (placeOf 0 false f la c) f (s.begun 0 false f c (.mstore 95 x.1 0 x.2 1)) x.1 x.2 1 = true) := by
  refine List.forall_mem_cons.mpr ⟨Seen.of (by decide +kernel), List.forall_mem_cons.mpr ⟨Seen.of (by decide +kernel), List.forall_mem_cons.mpr
    ⟨Seen.of (by decide +kernel), List.forall_mem_nil _⟩⟩⟩

theorem test_meets_mload : ∀ x ∈ [(RowFmt.f32, (0 : BitVec 8)), (.narrow, 6)],
    Seen (tensored (placed (.mload 95 x.1 0 x.2 1))) (.mload 95 x.1 0 x.2 1) false (fun s f la c =>
      rowsMeet (placeOf 0 false f la c) f (s.begun 0 false f c (.mload 95 x.1 0 x.2 1)) x.1 x.2 1 = true) := by
  refine List.forall_mem_cons.mpr ⟨Seen.of (by decide +kernel), List.forall_mem_cons.mpr ⟨Seen.of (by decide +kernel), List.forall_mem_nil _⟩⟩

theorem test_meets_gfetch : Seen (tensored (placed (.gfetch 8 false 0 1 8 9))) (.gfetch 8 false 0 1 8 9) false (fun s f la c =>
    (match (s.begun 0 false f c (.gfetch 8 false 0 1 8 9)).tensor 0 la.ctx0 1 with
    | (some x, s1) =>
      let hd := s1.handle 0 la.ctx0 x.handle
      (match hd.2.rowCount (placeOf 0 false f la c) x with
      | (.ok rows, s2) =>
        let r := thread (fun l s => gatherLane (placeOf 0 false f la c) hd.1 x rows false (f.u 8).toNat ((f.u 9).toNat + l) l s) (lanesOf (f.acting false c)) s2
        x.fmtOk && (decide (x.sparse = 0) && (r.1.all (fun v => v.1.isEmpty) && !r.2.hole))
      | _ => false)
    | _ => false) = true) := Seen.of (by decide +kernel)

theorem test_meets_copyl : Seen (regs (tensored (placed (.copyl 3 2 .b16 0 1 1 true 0 4 31))) [(2, 0, 0x40), (3, 0, 0x3FF0)])
    (.copyl 3 2 .b16 0 1 1 true 0 4 31) false (fun s f la c => la.peer 0 true 0 = some 0 ∧
      let rs := checksOf (s.begun 0 false f c (.copyl 3 2 .b16 0 1 1 true 0 4 31)) 0 la 1 16 .read false (offsetsOf f (f.acting false c) 2 0)
      okAll rs.1 = true ∧ (∀ l ∈ lanesOf (f.acting false c), (f.g l 3).toNat % 16 = 0) ∧ 16 * 31 + 16 ≤ ((la.windows.find? (fun w => decide (w.num = 4))).map (fun w => w.size)).getD 0 ∧
        ((Tbl.find s.copies 0).getD []).length < 64 ∧ rs.2.hole = false) := Seen.of (by decide +kernel)

/-- A copy of a word from host space that has not landed, and then lands. -/
def copying : State :=
  { placed .nop with
    hostMem := [(0x40, 7)]
    copies := [(0, [{ id := 5, launch := 0, dstCore := 0, land := 0x100,
                      words := [⟨⟨0, true, 0, 0x40, 0x40, true, 2⟩, 0xFC, false, none, none⟩, ⟨⟨0, true, 0, 0x44, 0x44, false, 2⟩, 0x110, true, some 0, none⟩],
                      flight := 0, slotB := false, pc := 4, handle := 2, own := [], iter := [], parkSeq := none }])] }

theorem test_meets_landing : ∃ cs c x g, Tbl.find copying.copies 0 = some cs ∧ cs.find? (fun c => decide (c.id = 5)) = some c ∧ c.words[0]? = some x ∧
    x.landed = false ∧ c.parkSeq = none ∧ (x.src.host = true ∧ x.src.uncached = true ∧ x.src.pa = x.src.va ∧ x.val = none) ∧
    c.words.any (fun y => y.landed && decide (y.dst = x.dst)) = false ∧
    (Tbl.find copying.launches c.launch.toNat).bind (fun la => la.wgAt c.dstCore) = some g ∧ g.retired = false ∧
    (c.land + 16 ≤ x.dst ∨ x.dst + 4 ≤ c.land) ∧ (copying.landWord 0 5 0).hole = false :=
  ⟨_, _, _, _, rfl, rfl, rfl, rfl, rfl, ⟨rfl, rfl, rfl, rfl⟩, rfl, rfl, rfl, by decide, by decide +kernel⟩

/-- A copy of two words of one block of device memory, neither of them read yet, or both. -/
def copyingBlock (v : Option Word) : State :=
  let s := mapped copying
  let word (k : Nat) : CopyWord := ⟨⟨0, false, 0, 0x40 + 4 * k, 0x200040 + 4 * k, false, 1⟩, 0xF8 + 4 * k, false, none, v⟩
  { s with copies := s.copies.map (fun e => (e.1, e.2.map (fun (c : Copy) => { c with words := [word 0, word 1] }))) }

theorem test_meets_block_landing : (((Tbl.find (copyingBlock none).copies 0).getD []).any (fun c => (c.words[1]?).any (fun x =>
      decide (x.val = none) && (match (copyingBlock none).copySource 0 x with
        | (.ok src, s0) =>
          let q := s0.copyRequest 0 c.words src
          decide (src.host = false ∧ src.uncached = false ∧ s0.errors = [] ∧ q.2.1 = []) && (q.1[1]?).any (fun y => y.val.isSome)
        | _ => false)))) = true ∧
    (((Tbl.find (copyingBlock (some 5)).copies 0).getD []).any (fun c => (c.words[1]?).any (fun x => decide (x.val = some 5 ∧ x.landed = false)))) = true := by
  decide +kernel

/-- A word that lands with a landing word that it completes, passes, or only counts in, and one that was counted before. -/
theorem test_meets_landing_count : ([((4 : Word), (0 : Word), (none : Option Word)), (4, 4, none), (8, 0, none), (8, 0, some 3)].all (fun x =>
    let s0 := copying
    let recount (w : CopyWord) : CopyWord := { w with counted := if w.landed then w.counted else x.2.2 }
    let again (c : Copy) : Copy := { c with words := c.words.map recount }
    let s := { s0 with
      scratch := [(0, putWords [] 0x100 [x.1, x.2.1, 7, 1])]
      copies := s0.copies.map (fun (e : Nat × List Copy) => (e.1, e.2.map again)) }
    (decide (((Tbl.find s.copies 0).getD []).map (fun c => (c.id, c.words.map (fun w => (w.landed, decide (w.dst = 0xFC), w.counted)))) =
        [(5, [(false, true, x.2.2), (true, false, some 0)])]) &&
      (decide (((Tbl.find s.launches (0 : Word).toNat).bind (fun la => la.wgAt 0)).map (fun g => g.retired) = some false) &&
        decide (0xFC + 4 ≤ 0x100))))) = true := by decide +kernel

theorem test_meets_expand : Seen (regs (lanes (placed (.expand 4 2 false 1 0 5 0)) 5) [(5, 0, 3), (5, 2, 0xFFFFFFFC)]) (.expand 4 2 false 1 0 5 0) false
    (fun s f la c => expandBad s (placeOf 0 false f la c) false 0 1 = false ∧ ((lanesOf (f.acting false c)).map (fun l => (f.g l 5).toNat)).sum < 2 ^ 32) :=
  Seen.of (by decide +kernel)

/-- Gallery 3 with the live lanes of flight 0. -/
def gathered (m : Mask) (s : State) : State := { lanes s m with barriers := [(3, { Barrier.reset with bound := some 0, members := [(0, m)] })] }

theorem test_meets_expand_gallery : Seen (regs (gathered 5 (placed (.expand 4 2 true 3 0 5 3))) [(5, 0, 3)]) (.expand 4 2 true 3 0 5 3) false
    (fun s f la c => expandBad s (placeOf 0 false f la c) true 3 3 = false ∧ (s.bar 0 3).foreign (placeOf 0 false f la c) = false ∧ galleryBad s (placeOf 0 false f la c) 3 = false ∧
      ((lanesOf (f.acting false c)).map (fun l => (f.g l 5).toNat)).sum < 2 ^ 32) := Seen.of (by decide +kernel)

/-- Gallery 3 bound to another launch. -/
theorem test_meets_expand_foreign : Seen (withHandler { lanes (placed (.expand 4 2 true 3 0 5 3)) 5 with
      barriers := [(3, { Barrier.reset with bound := some 9 })] }) (.expand 4 2 true 3 0 5 3) false
    (fun s f la c => (s.bar 0 3).foreign (placeOf 0 false f la c) = true ∧ (∀ l ∈ lanesOf (f.acting false c), f.inRegion l = false) ∧ s.ringRoom ≠ 0 ∧
      f.kind ≠ .handler ∧ la.takesTraps = true) := Seen.of (by decide +kernel)

/-- An expansion of lanes 0 and 1, three elements, open in slot 1 of the flight's partition. -/
def expanded (cursor : Nat) (s : State) : State :=
  { lanes s 3 with
    expans := [(1, { formed none (gatherParts [(0, 0, 100, 1), (0, 1, 200, 2)]).1 3 with
      flights := [(0, { cursor := cursor, released := false, gone := false, deal := [(0, 0), (1, 0)] })] })] }

theorem test_meets_enext : ∀ fin ∈ [false, true], Seen (expanded 1 (placed (.enext 4 fin 1 0 2))) (.enext 4 fin 1 0 2) false
    (fun s f la c => (openFor s (placeOf 0 false f la c) f 1 true).isSome = true) := by
  refine List.forall_mem_cons.mpr ⟨Seen.of (by decide +kernel), List.forall_mem_cons.mpr ⟨Seen.of (by decide +kernel), List.forall_mem_nil _⟩⟩

theorem test_meets_segred_mark : Seen (tweak (placed (.segred 4 2 1 0 2 .fadd)) (fun f => { f with marks := 2 })) (.segred 4 2 1 0 2 .fadd) false
    (fun _ f _ _ => f.marks.getLsbD 1 = true) := Seen.of (by decide +kernel)

theorem test_meets_segred : Seen (expanded 1 (placed (.segred 4 2 1 0 2 .add))) (.segred 4 2 1 0 2 .add) false (fun s f la c =>
    f.marks.getLsbD 1 = false ∧ (openFor s (placeOf 0 false f la c) f 1 false).elim false (fun x => decide (0 < x.2.cursor) &&
      x.1.reds.all (fun r => decide (r.flight ≠ 0) || decide (r.deal ≠ x.2.cursor - 1))) = true) := Seen.of (by decide +kernel)

/-- What the statements on instructions of one lane after the other suppose. -/
def lanesMeet (m : Mask) (s0 : State) (one : Nat → State → Option LaneWrites × State) : Bool :=
  (thread one (lanesOf m) s0).1.all (fun x => x.isSome) && !(thread one (lanesOf m) s0).2.hole

theorem test_meets_spawn : Seen (lanes (withHandler (placed (.spawn 2 4 0 2 31))) 1) (.spawn 2 4 0 2 31) false (fun s f la c => noAccess f false ∧
    ((la.roles[2]?).map Role.spawnable).getD false = true ∧
      lanesMeet (f.acting false c) ((s.begun 0 false f c (.spawn 2 4 0 2 31)).release 0) (spawnOne 0 f 2 4 2 32) = true) :=
  (Seen.of (p := fun s f la c => (f.undone false).any Pending.isAccess = false ∧ ((la.roles[2]?).map Role.spawnable).getD false = true ∧
      lanesMeet (f.acting false c) ((s.begun 0 false f c (.spawn 2 4 0 2 31)).release 0) (spawnOne 0 f 2 4 2 32) = true) (by decide +kernel)).imp
    (fun _ _ _ _ x => x)

theorem test_meets_tfetch : Seen (lanes (placed (.tfetch 4 0 2)) 3) (.tfetch 4 0 2) false (fun s f _ c =>
    lanesMeet (f.acting false c) (s.begun 0 false f c (.tfetch 4 0 2)) (tfetchOne f 4 2) = true) := Seen.of (by decide +kernel)

theorem test_meets_atr_push : Seen (regs (reaching 0 (placed (.atrPush 8 10 0 3 31 2 1 6))) [(6, 0, 0x200)]) (.atrPush 8 10 0 3 31 2 1 6) false
    (fun s f la c => (s.atrium 0 3).bound = none ∧
      let hd := (s.begun 0 false f c (.atrPush 8 10 0 3 31 2 1 6)).handle 0 la.ctx0 1
      lanesMeet (f.acting false c) hd.2 (pushOne 0 la 1 hd.1 f 8 10 6 3 31 2) = true) := Seen.of (by decide +kernel)

/-- Atrium 1 with some rows pushed, their result records in host space, and the state of the rows. -/
def pushed (n : Nat) (st : RowState) (s : State) : State :=
  let recAt : List LaneAddr := (List.range 9).map (fun j => ⟨0, true, 0, 0x300 + 4 * j, 0x300 + 4 * j, false, 2⟩)
  let s1 := (List.range n).foldl (fun s k => s.setAtrium 0 1 (({ (s.atrium 0 1) with bound := some 0 } : Atrium).pushRow 0 recAt [BitVec.ofNat 32 k])) s
  let x := s1.atrium 0 1
  s1.setAtrium 0 1 { x with rows := x.rows.map (fun e => (e.1, { e.2 with state := st })) }

theorem test_meets_atr_ret : Seen (regs (lanes (pushed 2 .popped (placed (.atrRet 14 0 1 7 20))) 1) [(14, 0, 0x1000001)]) (.atrRet 14 0 1 7 20) false
    (fun s f la c => (s.atrium 0 1).bound = some la.word ∧ (f.undone false).any Pending.isAccess = false ∧
      lanesMeet (f.acting false c) ((s.begun 0 false f c (.atrRet 14 0 1 7 20)).release 0) (fun l s => let v := retOne 0 1 f 14 20 7 l s; (v.1.join, v.2)) = true ∧
      ((thread (retOne 0 1 f 14 20 7) (lanesOf (f.acting false c)) ((s.begun 0 false f c (.atrRet 14 0 1 7 20)).release 0)).1.contains none) = false) :=
  Seen.of (by decide +kernel)

/-- Atrium 1 with a row that is popped, whose result record is in device memory at address 0x300 of context 0. -/
def poppedThere (s : State) : State :=
  let s1 := pushed 2 .popped s
  let x := s1.atrium 0 1
  s1.setAtrium 0 1 { x with rows := x.rows.map (fun e => (e.1, { e.2 with recAt := e.2.recAt.map (fun a => { a with host := false }) })) }

/-- ATR.RET that cannot reach its record, and one whose record has a reserved word. -/
theorem test_meets_atr_ret_away : Seen (regs (lanes (poppedThere (placed (.atrRet 14 0 1 7 20))) 1) [(14, 0, 0x1000001)]) (.atrRet 14 0 1 7 20) false
    (fun s f la c => (s.atrium 0 1).bound = some la.word ∧ (f.undone false).any Pending.isAccess = false ∧
      ((thread (retOne 0 1 f 14 20 7) (lanesOf (f.acting false c)) ((s.begun 0 false f c (.atrRet 14 0 1 7 20)).release 0)).1.contains none) = true) :=
  Seen.of (by decide +kernel)

theorem test_meets_atr_ret_held : Seen
    { (regs (lanes (poppedThere (mapped (placed (.atrRet 14 0 1 7 20)))) 1) [(14, 0, 0x1000001)]) with reserved := [⟨0x200300, 9, 0, 0⟩] }
    (.atrRet 14 0 1 7 20) false (fun s f _ c => (s.begun 0 false f c (.atrRet 14 0 1 7 20)).disturbs
      (thread (fun l s => let v := retOne 0 1 f 14 20 7 l s; (v.1.join, v.2)) (lanesOf (f.acting false c))
        ((s.begun 0 false f c (.atrRet 14 0 1 7 20)).release 0)).2 = true ∧ nextIs (exec (.atrRet 14 0 1 7 20) s) (fun t => decide (t = s)) = true) :=
  Seen.of (by decide +kernel)

/-- The placed workgroup with a plain window of 4,096 bytes. -/
def wideWindow (s : State) : State :=
  relaunch s (fun la => { la with windows := [⟨1, false, 4096⟩], wgs := la.wgs.map (fun w => { w with wins := [(1, 0)] }) })

/-- ATR.POP that waits, and that takes what there is. -/
theorem test_meets_atr_pop_wait : ∀ tmo ∈ [(1 : BitVec 10), 1023], Seen (wideWindow (pushed 2 .queued (placed (.atrPop 12 0 1 1 3 tmo 0)))) (.atrPop 12 0 1 1 3 tmo 0)
    false (fun s f la c => f.acting false c = BitVec.allOnes 32 ∧ (s.atrium 0 1).bound = some la.word ∧ la.windows.any (fun w => decide (w.num = 1)) = true ∧
      popFits (la.winAt 0 1) 0 = true ∧ (s.atrium 0 1).tileFor (decide (tmo = 0)) = none) := by
  refine List.forall_mem_cons.mpr ⟨Seen.of (by decide +kernel), List.forall_mem_cons.mpr ⟨Seen.of (by decide +kernel), List.forall_mem_nil _⟩⟩

theorem test_meets_atr_pop : Seen (wideWindow (pushed 2 .queued (placed (.atrPop 12 0 1 1 3 0 0)))) (.atrPop 12 0 1 1 3 0 0)
    false (fun s f la c => f.acting false c = BitVec.allOnes 32 ∧ (s.atrium 0 1).bound = some la.word ∧ la.windows.any (fun w => decide (w.num = 1)) = true ∧
      popFits (la.winAt 0 1) 0 = true ∧ (s.popTile la 0 1 12 3 1 0 ((s.atrium 0 1).tileFor true)).2.hole = false) := Seen.of (by decide +kernel)

/-- A pending instruction of flight 0 with something left to do. -/
def withPending (i : Instr) (act : PendAct) (s : State) : State := tweak s (fun f => f.addPending false i 4 1 false act)

/-- A timeout whose cycle has come. -/
theorem test_meets_pop_timeout : let s := withPending (.atrPop 12 0 1 1 3 1 0) (.atrPop 12 3 1 1 0 (some 0)) (wideWindow (pushed 2 .queued (placed .nop)))
    ∃ f la p, s.flight 0 = some f ∧ Tbl.find s.launches f.launch.toNat = some la ∧ f.pending.find? (fun p => decide (p.seq = 0)) = some p ∧
      p.act = .atrPop 12 3 1 1 0 (some 0) ∧ 0 ≤ s.cycle ∧ p.done = false :=
  ⟨_, _, _, rfl, rfl, rfl, rfl, by decide, rfl⟩

theorem test_meets_fwait_timeout : let s := withPending (.fwait 3 4 false 0 1) (.fwait 3 false [(0, 0)] (some 0)) (placed .nop)
    ∃ f la p, s.flight 0 = some f ∧ Tbl.find s.launches f.launch.toNat = some la ∧ f.pending.find? (fun p => decide (p.seq = 0)) = some p ∧
      p.act = .fwait 3 false [(0, 0)] (some 0) ∧ 0 ≤ s.cycle ∧ p.done = false :=
  ⟨_, _, _, rfl, rfl, rfl, rfl, by decide, rfl⟩

/-- What the statement on commands supposes. -/
def handsMeet (f : Flight) (la : Launch) (c : Clause) (ctx : Nat) (s0 : State) (one : Nat → State → Option (List CmdKind) × State) : Bool :=
  let r := thread one (lanesOf (f.acting false c)) s0
  let items := ((lanesOf (f.acting false c)).zip r.1).flatMap (fun x =>
    ((List.range (x.2.getD []).length).zip (x.2.getD [])).map (fun k =>
      ({ lane := x.1, scope := Cells.get f.scope x.1, kind := k.2, last := decide (k.1 + 1 = (x.2.getD []).length) } : CmdItem)))
  r.1.all (fun x => x.isSome) && ((r.2.cmdWaiters ctx).isEmpty && ((feedItems la.word (la.wgidAt 0) ctx items [] r.2).2.1.isEmpty &&
    (!(feedItems la.word (la.wgidAt 0) ctx items [] r.2).2.2.hole && decide ((f.undone false).any Pending.isAccess = false))))

theorem test_meets_chain : Seen (reaching 0x40 (placed (.chain 8 2 1 0 2 0 64))) (.chain 8 2 1 0 2 0 64) false (fun s f la c =>
    la.ctxAt 0 = some 0 ∧ handsMeet f la c 0 ((s.begun 0 false f c (.chain 8 2 1 0 2 0 64)).release 0) (chainOne 0 la 2 f 2 64 1) = true) := Seen.of (by decide +kernel)

theorem test_meets_cqry : Seen (reaching 0x40 (placed (.cqry 8 2 0 2 0 0))) (.cqry 8 2 0 2 0 0) false (fun s f la c =>
    la.ctxAt 0 = some 0 ∧ handsMeet f la c 0 ((s.begun 0 false f c (.cqry 8 2 0 2 0 0)).release 0) (queryOne 0 la 2 f 2 0) = true) := Seen.of (by decide +kernel)

theorem test_meets_dstep : Seen (reaching 0x50 (placed (.dstep 8 2 0 2 0 0))) (.dstep 8 2 0 2 0 0) false (fun s f la c =>
    la.ctxAt 0 = some 0 ∧ handsMeet f la c 0 ((s.begun 0 false f c (.dstep 8 2 0 2 0 0)).release 0) (stepOne 0 la 2 f 2 0) = true) := Seen.of (by decide +kernel)

/-- Futures of context 0, one resolved and one not. -/
def timed (s : State) : State := { regs (lanes (mapped s) 3) [(4, 0, 3), (4, 1, 4)] with
  ctxs := [(0, { EngineCtx.reset with valid := true, timeline := 3, tail := 9 })] }

theorem test_meets_futures : ∀ i ∈ [Instr.ftest 2 4 false 0, .fwait 2 4 false 0 0, .fwait 2 4 false 0 1], Seen (timed (placed i)) i false (fun s f la c =>
    (lanesOf (f.acting false c)).map (fun l => s.resolved la 0 false (f.g l 4)) = [some true, some false]) := by
  refine List.forall_mem_cons.mpr ⟨Seen.of (by decide +kernel), List.forall_mem_cons.mpr ⟨Seen.of (by decide +kernel), List.forall_mem_cons.mpr
    ⟨Seen.of (by decide +kernel), List.forall_mem_nil _⟩⟩⟩

/-- The placed launch with scopes 0, 2 and, under 2, 5. -/
def inScopes (s : State) : State :=
  let r (p : Nat) (a : Bool) : Scope := { parent := p, anytime := a, cancelled := false, head := none, nodes := [], lost := [] }
  tweak (relaunch s (fun la => { la with scopes := [(0, r 0 false), (2, r 0 false), (5, r 2 true)] })) (fun f => { f with scope := (List.range 32).map (fun l => (l, 5)) })

/-- Pool 3 over handle 1: nodes of 64 bytes, six of them, nothing on its free list and node 3 the next new one. -/
def pooled (s : State) : State :=
  let s1 := lanes (mapped s) 1
  { s1 with mem := putWords s1.mem 0xC060 [0x80000011, 12, 0x00FFFFFF, 3, 0, 0, 0, 0] }

theorem test_meets_pool_alloc : Seen (pooled (placed (.poolAlloc 4 0 2 3))) (.poolAlloc 4 0 2 3) false (fun s f la c =>
    let v := (s.begun 0 false f c (.poolAlloc 4 0 2 3)).pool 0 la.ctx0 3
    v.1.isSome = true ∧ lanesMeet (f.acting false c) v.2 (allocOne 0 la f 4 2 3) = true) := Seen.of (by decide +kernel)

/-- The same with node 2 the only node of scope 5. -/
def allocated (s : State) : State :=
  let s1 := pooled s
  relaunch { s1 with mem := putWords s1.mem 0x200080 [0x80000000 ||| linkWord none, 0xC0000005] }
    (fun la => { la with scopes := Tbl.put la.scopes 5 { parent := 2, anytime := true, cancelled := false, head := some (3, 2), nodes := [(3, 2)], lost := [] } })

theorem test_meets_pool_free : Seen (regs (allocated (inScopes (placed (.poolFree 4 0 3)))) [(4, 0, 2)]) (.poolFree 4 0 3) false (fun s f la c =>
    let v := (s.begun 0 false f c (.poolFree 4 0 3)).pool 0 la.ctx0 3
    v.1.isSome = true ∧ (f.undone false).any Pending.isAccess = false ∧ lanesMeet (f.acting false c) (v.2.release 0) (freeOne 0 la f 4 3) = true) :=
  Seen.of (by decide +kernel)

/-- A pool whose every node is in use, and one with room; a number beyond its nodes, and a node to free. -/
theorem test_meets_pool_nodes : let full := { pooled (placed .nop) with mem := putWords (pooled (placed .nop)).mem 0xC068 [0x00FFFFFF, 12] }
    let some_ := allocated (inScopes (placed .nop))
    (full.pool 0 0 3).1.any (fun p => decide (p.free = noNode ∧ p.cap ≤ p.bump)) = true ∧
    (some_.pool 0 0 3).1.any (fun p => decide (p.cap ≤ 12 ∧ p.bump ≤ 3)) = true ∧
    (match (some_.allocNode 0 0 0 3 5).1 with
    | .ok (some n) => decide (n = 3)
    | _ => false) = true ∧
    ((some_.allocNode 0 0 0 3 5).2.launches.any (fun e => (Tbl.find e.2.scopes 5).isSome)) = true ∧ (some_.freeNode 0 0 0 3 2).1 = none := by decide +kernel

theorem test_meets_scope_open_one : Seen (inScopes (placed (.scopeOpen 4 true true 0 3))) (.scopeOpen 4 true true 0 3) false (fun s f la c =>
    (∀ l ∈ lanesOf (f.acting false c), Cells.get f.scope l = Cells.get f.scope (lowLane (f.acting false c))) ∧
      ((s.begun 0 false f c (.scopeOpen 4 true true 0 3)).openScope 0 la.word 5 true (lanesOf (f.acting false c))).1.isSome = true ∧ la.cancels = []) :=
  Seen.of (by decide +kernel)

theorem test_meets_scope_open : Seen (inScopes (lanes (placed (.scopeOpen 4 false false 0 15)) 3)) (.scopeOpen 4 false false 0 15) false (fun _ _ la _ => la.cancels = []) :=
  Seen.of (by decide +kernel)

theorem test_meets_scope_close : Seen (inScopes (placed (.scopeClose 0))) (.scopeClose 0) false (fun _ f _ c =>
    ∀ l ∈ lanesOf (f.acting false c), Cells.get f.scope l ≠ 0) := Seen.of (by decide +kernel)

theorem test_meets_cancel : Seen (regs (lanes (inScopes (placed (.cancel 7 0))) 1) [(7, 0, 2)]) (.cancel 7 0) false (fun s f la c => la.word = f.launch ∧
    (Tbl.find ((s.begun 0 false f c (.cancel 7 0)).sweepScopes la.word).launches la.word.toNat).elim false (fun ln =>
      (lanesOf (f.acting false c)).all (fun l => (Tbl.find ln.scopes (f.g l 7).toNat).isSome)) = true ∧
    ((((s.begun 0 false f c (.cancel 7 0)).sweepScopes la.word).modFlight 0 (fun g => g.addPending false (.cancel 7 0) (f.slot false).pc (f.acting false c) false
      .cancel)).cancelStart la.word (sortNat ((lanesOf (f.acting false c)).map (fun l => (f.g l 7).toNat))) (some (0, f.order, f.nextSeq)) (some 0)).hole = false) :=
  Seen.of (by decide +kernel)

/-- Barrier 5 as given, for flight 0. -/
def barred (x : Barrier) (s : State) : State := { lanes s 7 with barriers := [(5, x)] }

/-- The arrival as a test. -/
def arrives (x : Barrier) (launch : Word) (m : Mask) (n : Option Nat) : Bool :=
  let k := if x.fixed then x.c else n.getD x.c0
  (decide (x.bound = none) || decide (x.bound = some launch)) && (decide (k = 0 → m &&& ~~~(Cells.get x.members 0) = 0) &&
    ((!x.fixed || n.all (fun j => decide (j = x.c))) && (decide (k ≠ 0 → x.a + countLanes m ≤ k) && decide (Cells.get x.arrived 0 &&& m = 0))))

theorem mayArrive_of_arrives {x : Barrier} {launch : Word} {m : Mask} {n : Option Nat} (h : arrives x launch m n = true) : mayArrive x launch 0 m n := by
  simp only [arrives, Bool.and_eq_true, Bool.or_eq_true, decide_eq_true_eq, Bool.not_eq_true'] at h
  obtain ⟨h1, h2, h3, h4, h5⟩ := h
  refine ⟨h1, h2, fun hf j hj => ?_, h4, h5⟩
  subst hj
  simpa [hf] using h3

/-- A barrier that waits for more, one whose count these lanes complete, and one that a gallery of these lanes completes. -/
theorem test_meets_barrier_sync : ∀ x ∈ [({ Barrier.reset with c0 := 2048 } : Barrier), { Barrier.reset with c0 := 3, phase := 0xFFFFFFFF },
    { Barrier.reset with bound := some 0, members := [(0, 7)] }], Seen (barred x (placed (.barSync 5))) (.barSync 5) false (fun s f la c =>
      (f.undone false).any Pending.isAccess = false ∧ mayArrive (s.bar 0 5) la.word 0 (f.acting false c) none ∧
        (((s.begun 0 false f c (.barSync 5)).release 0).setBar 0 5 (arrived (s.bar 0 5) la.word 0 (f.acting false c) none)).hole = false) := by
  have k : ∀ x, sees (barred x (placed (.barSync 5))) (.barSync 5) false (fun s f la c => decide ((f.undone false).any Pending.isAccess = false ∧
      arrives (s.bar 0 5) la.word (f.acting false c) none = true ∧
        (((s.begun 0 false f c (.barSync 5)).release 0).setBar 0 5 (arrived (s.bar 0 5) la.word 0 (f.acting false c) none)).hole = false)) = true →
      Seen (barred x (placed (.barSync 5))) (.barSync 5) false (fun s f la c =>
        (f.undone false).any Pending.isAccess = false ∧ mayArrive (s.bar 0 5) la.word 0 (f.acting false c) none ∧
          (((s.begun 0 false f c (.barSync 5)).release 0).setBar 0 5 (arrived (s.bar 0 5) la.word 0 (f.acting false c) none)).hole = false) :=
    fun x h => (Seen.of h).imp (fun _ _ _ _ y => ⟨y.1, mayArrive_of_arrives y.2.1, y.2.2⟩)
  refine List.forall_mem_cons.mpr ⟨k _ (by decide +kernel), List.forall_mem_cons.mpr ⟨k _ (by decide +kernel), List.forall_mem_cons.mpr
    ⟨k _ (by decide +kernel), List.forall_mem_nil _⟩⟩⟩

theorem test_meets_barrier_count : Seen (barred { Barrier.reset with fixed := true, c := 3 } (placed (.barSyncn 5 3))) (.barSyncn 5 3) false (fun s f la c =>
    (f.undone false).any Pending.isAccess = false ∧ mayArrive (s.bar 0 5) la.word 0 (f.acting false c) (some 3)) :=
  (Seen.of (p := fun s f la c => (f.undone false).any Pending.isAccess = false ∧ arrives (s.bar 0 5) la.word (f.acting false c) (some 3) = true)
    (by decide +kernel)).imp (fun _ _ _ _ y => ⟨y.1, mayArrive_of_arrives y.2⟩)

theorem test_meets_barrier_arrive : Seen (barred { Barrier.reset with c0 := 4 } (placed (.barArv 4 5))) (.barArv 4 5) false (fun s f la c =>
    (f.undone false).any Pending.isAccess = false ∧ mayArrive (s.bar 0 5) la.word 0 (f.acting false c) none) :=
  (Seen.of (p := fun s f la c => (f.undone false).any Pending.isAccess = false ∧ arrives (s.bar 0 5) la.word (f.acting false c) none = true)
    (by decide +kernel)).imp (fun _ _ _ _ y => ⟨y.1, mayArrive_of_arrives y.2⟩)

theorem test_meets_barrier_wait : Seen (regs (barred { Barrier.reset with phase := 0 } (placed (.barWait 4 5))) [(4, 0, 0xFFFFFFFF), (4, 1, 0xFFFFFFFE), (4, 2, 0x80000001)])
    (.barWait 4 5) false (fun s f la c => (s.bar 0 5).bound = none ∧ (∀ l ∈ lanesOf (f.acting false c), 1 ≤ ((s.bar 0 5).phase - f.g l 4).toInt) ∧
      (let s1 := ((s.begun 0 false f c (.barWait 4 5)).setBar 0 5 { s.bar 0 5 with bound := some la.word }).acquire 0;
        (!s1.hole && (s1.flight 0).elim false (fun g => ((s1.moveOn 0 false (.barWait 4 5) g).flight 0).elim false (fun h =>
          match (h.slot false).wait with
          | .barWait _ _ => false
          | _ => true))) = true)) := Seen.of (by decide +kernel)

theorem test_meets_barrier_waits : Seen (regs (barred { Barrier.reset with phase := 0 } (placed (.barWait 4 5))) [(4, 0, 0xFFFFFFFF), (4, 1, 0), (4, 2, 0x80000000)])
    (.barWait 4 5) false (fun s f la c => (s.bar 0 5).bound = none ∧ la.word = f.launch ∧
      (lanesOf (f.acting false c)).any (fun l => decide (((s.bar 0 5).phase - f.g l 4).toInt < 1)) = true) := Seen.of (by decide +kernel)

theorem test_meets_join : Seen (barred { Barrier.reset with members := [(0, 8)] } (placed (.joinGal 5))) (.joinGal 5) false (fun s f _ c =>
    (s.bar 0 5).bound = none ∧ s.formingUnder 0 5 = false ∧ Cells.get (s.bar 0 5).members 0 &&& f.acting false c = 0) := Seen.of (by decide +kernel)

theorem test_meets_leave : Seen (barred { Barrier.reset with bound := some 0, members := [(0, 15)] } (placed (.leaveGal 5))) (.leaveGal 5) false (fun s f la c =>
    (s.bar 0 5).bound = some la.word ∧ s.formingUnder 0 5 = false ∧ f.acting false c &&& ~~~(Cells.get (s.bar 0 5).members 0) = 0 ∧
      Cells.get (s.bar 0 5).arrived 0 &&& f.acting false c = 0) := Seen.of (by decide +kernel)

theorem test_meets_bar_init : Seen (barred Barrier.reset (placed (.barInit 5 2048))) (.barInit 5 2048) false (fun s _ _ _ =>
    (s.bar 0 5).bound = none ∧ (s.bar 0 5).a = 0 ∧ maskCount (s.bar 0 5).members = 0) := Seen.of (by decide +kernel)


/-- Two landing words in the window of the placed workgroup, the first of a past generation. -/
def withLanding (s : State) : State := regs (lanes (wideWindow { s with scratch := [(0, putWords [] 0x7F0 [0, 0, 7, 0])] }) 3)
  [(5, 0, 0x87F), (5, 1, 0x880), (6, 0, 4), (6, 1, 0x80000000), (4, 0, 6), (4, 1, 0xFFFFFFFF)]

theorem test_meets_land_init : Seen (withLanding (placed (.landInit 1 5 6 false 2))) (.landInit 1 5 6 false 2) false (fun s f la c =>
    ∀ l ∈ lanesOf (f.acting false c), (s.landRef (placeOf 0 false f la c) (f.g l 5)).toOption.isSome = true ∧ (f.g l 6).toNat % 4 = 0 ∧
      1 ≤ (f.g l 6).toNat ∧ (f.g l 6).toNat ≤ 2 ^ 31) := Seen.of (by decide +kernel)

theorem test_meets_land_wait : Seen (withLanding (placed (.landWait 4 5))) (.landWait 4 5) false (fun s f la c =>
    (∀ l ∈ lanesOf (f.acting false c), (s.landRef (placeOf 0 false f la c) (f.g l 5)).toOption.any (fun x =>
      decide (1 ≤ (wordAt (s.scr x.1) (x.2 + 8) - f.g l 4).toInt)) = true) ∧ ((s.begun 0 false f c (.landWait 4 5)).acquire 0).hole = false) :=
  Seen.of (by decide +kernel)

theorem test_meets_land_waits : Seen (regs (withLanding (placed (.landWait 4 5))) [(4, 0, 7)]) (.landWait 4 5) false (fun s f la c =>
    (∀ l ∈ lanesOf (f.acting false c), (s.landRef (placeOf 0 false f la c) (f.g l 5)).toOption.isSome = true) ∧
      (lanesOf (f.acting false c)).any (fun l => (s.landRef (placeOf 0 false f la c) (f.g l 5)).toOption.any (fun x =>
        decide ((wordAt (s.scr x.1) (x.2 + 8) - f.g l 4).toInt < 1))) = true) := Seen.of (by decide +kernel)

/-- The three cases of an offer: a NaN, the last generation, and one that counts, above and below the offer that stands. -/
theorem test_meets_offers : (Fp.ofWord 0x7FC00000).isNan = true ∧ ((Fp.ofWord 0).isNan = false ∧ ({ offers := [], latched := none, stale := false, gen := 0xFFFFFFFF } : BestCell).gen = 0xFFFFFFFF) ∧
    (Fp.ofWord 0x3F800000).isNan = false ∧ scoreRank 0 < scoreRank 0x3F800000 ∧ ¬ scoreRank 0 < scoreRank 0x80000000 ∧ scoreRank 0xBF800000 < scoreRank 0 := by
  decide +kernel

/-- A cell with two offers that an offer passes, comes between and follows, one of them latched. -/
theorem test_meets_best_cell : let x : BestCell := { offers := [⟨0x3F800000, 1, 2⟩, ⟨0, 2, 1⟩], latched := some ⟨0x40000000, 3, 3⟩, stale := true, gen := 3 }
    cellOk x ∧ cellOk { x with offers := [⟨0, 2, 1⟩], latched := none } ∧ scoreRank 0x3F800000 < scoreRank 0x40000000 ∧
      ¬ scoreRank 0x3F800000 < scoreRank 0x3F000000 ∧ scoreRank 0 < scoreRank 0x3F000000 ∧ ¬ scoreRank 0 < scoreRank 0xBF000000 ∧ x.gen ≠ 0xFFFFFFFF ∧
      (3 : Word) ≠ 0 := by unfold cellOk; decide +kernel

theorem test_meets_best : ∀ i ∈ [Instr.bestOffer 3 9 4 5 false, .bestInval 9 21 false, .bestTake 20 false], Seen (lanes (placed i) 3) i false (fun s f la c =>
    la.word = f.launch ∧ (f.undone false).any Pending.isAccess = false ∧ ((s.begun 0 false f c i).release 0).hole = false) := by
  refine List.forall_mem_cons.mpr ⟨Seen.of (by decide +kernel), List.forall_mem_cons.mpr ⟨Seen.of (by decide +kernel), List.forall_mem_cons.mpr
    ⟨Seen.of (by decide +kernel), List.forall_mem_nil _⟩⟩⟩

/-- Handle 1023, of counters. -/
def counted (s : State) : State :=
  let s1 := regs (lanes (mapped s) 1) [(4, 0, 0xFF050203)]
  { s1 with mem := putWords s1.mem 0xFFE0 [0x1000, 0, 0x1000, 0, 0x8000000E] }

theorem test_meets_spec_mark : Seen (counted (placed (.specMark 4))) (.specMark 4) false (fun s f la c =>
    (markedCounters (f.g (lowLane (f.acting false c)) 4)).elim false (fun ks =>
      match (s.begun 0 false f c (.specMark 4)).counters (placeOf 0 false f la c) ks with
      | (.ok _, s1) => !s1.hole
      | _ => false) = true) := Seen.of (by decide +kernel)

theorem test_meets_spec_none : ∀ i ∈ [Instr.specCommit 4, .specBack], Seen (placed i) i false (fun _ _ la _ =>
    (la.wgAt 0).bind (fun w => w.spec) = none) := by
  refine List.forall_mem_cons.mpr ⟨Seen.of (by decide +kernel), List.forall_mem_cons.mpr ⟨Seen.of (by decide +kernel), List.forall_mem_nil _⟩⟩

/-- The same with a speculation record of one counter. -/
def marked (s : State) : State :=
  let r : SpecRec := { counters := [(3, ⟨0, false, 0, 0x100C, 0x20100C, true, 2⟩, 5)], tails := [(0, 0)], flight := 0, seed := 0x123456 }
  relaunch (counted s) (fun la => { la with wgs := la.wgs.map (fun w => { w with spec := some r }) })

theorem test_meets_spec : ∀ i ∈ [Instr.specCommit 4, .specBack], Seen (marked (placed i)) i false (fun s f la c =>
    ((la.wgAt 0).bind (fun w => w.spec)).elim false (fun r =>
      match (s.begun 0 false f c i).counters (placeOf 0 false f la c) (r.counters.map (fun x => x.1)) with
      | (.ok xs, s1) => xs.all (fun x => x.2.host || !s1.held 0 (f.acting false c) x.2.pa 4) && !s1.hole
      | _ => false) = true) := by
  refine List.forall_mem_cons.mpr ⟨Seen.of (by decide +kernel), List.forall_mem_cons.mpr ⟨Seen.of (by decide +kernel), List.forall_mem_nil _⟩⟩

theorem test_meets_dl_set : ∀ i ∈ [Instr.dlSet 126 true, .dlSet 4 false], Seen (placed i) i false (fun _ f la _ => la.word = f.launch) := by
  refine List.forall_mem_cons.mpr ⟨Seen.of (by decide +kernel), List.forall_mem_cons.mpr ⟨Seen.of (by decide +kernel), List.forall_mem_nil _⟩⟩

/-- TLWAIT for a value that is just reached. -/
theorem test_meets_tlwait : Seen (timed (placed (.tlwait 3 0 6 0))) (.tlwait 3 0 6 0) false (fun s f la c => la.ctxAt 0 = some 0 ∧
    (∀ l ∈ lanesOf (f.acting false c), (f.g l 6).toNat + (f.gAt l 6 1).toNat * 2 ^ 32 ≤ (s.ctx 0).timeline) ∧ (s.acquire 0).hole = false) :=
  Seen.of (by decide +kernel)

theorem test_meets_tlwaits : Seen (regs (timed (placed (.tlwait 3 0 6 1))) [(6, 1, 4)]) (.tlwait 3 0 6 1) false (fun s f la c => la.ctxAt 0 = some 0 ∧
    (f.slot false).wait = .none ∧ (lanesOf (f.acting false c)).any (fun l => decide ((s.ctx 0).timeline < (f.g l 6).toNat + (f.gAt l 6 1).toNat * 2 ^ 32)) = true) :=
  Seen.of (by decide +kernel)

/-- A flight whose slot waits. -/
def slotWaits (w : Wait) (s : State) : State := tweak s (fun f => { f with a := { f.a with wait := w } })

theorem test_meets_tlwait_timeout : let s := slotWaits (.timeline 0 3 [(0, 9)] (some 0)) (placed .nop)
    ∃ f, s.flight 0 = some f ∧ (f.slot false).wait = .timeline 0 3 [(0, 9)] (some 0) ∧ (f.slot false).live = true ∧ 0 ≤ s.cycle :=
  ⟨_, rfl, rfl, by decide, by decide⟩

theorem test_meets_grow : Seen (placed (.grow 3 16)) (.grow 3 16) false (fun _ f _ _ => 8 * 16 ≤ f.allot) ∧
    Seen (tweak (placed (.grow 3 16)) (fun f => { f with allot := 120 })) (.grow 3 16) false (fun _ f _ _ => f.allot < 8 * 16) :=
  ⟨Seen.of (by decide +kernel), Seen.of (by decide +kernel)⟩

theorem test_meets_shrink : Seen (placed (.shrink 16)) (.shrink 16) false (fun _ f _ _ => f.allot ≤ 8 * 16) ∧
    Seen (placed (.shrink 15)) (.shrink 15) false (fun _ f _ _ => 8 * 15 < f.allot ∧ f.undone false = [] ∧ f.undone true = []) :=
  ⟨Seen.of (by decide +kernel), Seen.of (by decide +kernel)⟩

/-- A flight that waits to grow from 120 to 128 registers. -/
def growing (others : Nat) : State :=
  let s := slotWaits (.grow 3 1 128) (tweak (placed .nop) (fun f => { f with allot := 120 }))
  { s with growers := [(0, [{ flight := 0, slotB := false }])], flights := s.flights ++ (List.range others).flatMap (fun k =>
    (s.flight 0).toList.map (fun f => (k + 1, { f with allot := 128, a := { f.a with wait := .none, mask := 0 } }))) }

theorem test_meets_grow_grant : ∃ f, (growing 0).flight 0 = some f ∧ (f.slot false).wait = .grow 3 1 128 ∧ (f.slot false).live = true ∧
    (growing 0).growReady 0 false = true ∧ f.allot < 128 := ⟨_, rfl, rfl, by decide, by decide +kernel, by decide +kernel⟩

theorem test_meets_grow_denial : ∃ f, (growing 15).flight 0 = some f ∧ (f.slot false).wait = .grow 3 1 128 ∧ (f.slot false).live = true ∧
    (growing 15).growDenied 0 false = true := ⟨_, rfl, rfl, by decide, by decide +kernel⟩

theorem test_meets_csrw : ∀ i ∈ [Instr.csrw 2 0x20, .csrw 2 0x21, .csrw 2 0x22, .csrw 2 0x30, .csrw 2 0x23],
    Seen (asFirmware (placed i)) i false (fun s _ _ _ => s.frTail = s.frHead) := by
  repeat (refine List.forall_mem_cons.mpr ⟨Seen.of (by decide +kernel), ?_⟩)
  exact List.forall_mem_nil _

theorem test_meets_csrw_busy : Seen { asFirmware (placed (.csrw 2 0x20)) with frTail := 1 } (.csrw 2 0x20) false (fun s _ _ _ => ¬ s.frTail = s.frHead) :=
  Seen.of (by decide +kernel)

/-- A trap of flight 0, for a handler to serve. -/
def served : TrapInfo :=
  { code := 20, n := 9, pc := 4, mask := 3, who := 0, va := 0, flight := 1, slotB := false, decode := false, hdrBad := false, count := 1, late := none }

/-- The placed flight as a handler that serves a trap of flight 1. -/
def serving (s : State) : State :=
  let s1 := tweak (withHandler s) (fun f => { f with kind := .handler, trap := some served })
  { s1 with flights := s1.flights ++ (s1.flight 0).toList.map (fun f => (1, { f with kind := .resident, trap := none, a := { f.a with trapped := 3 } })) }

/-- TLBI of a handler names a context of its launch. -/
theorem test_meets_tlbi : Seen (serving (placed (.tlbi 4 6 8))) (.tlbi 4 6 8) false (fun s f la c =>
    f.kind = .handler ∧ la.ctxs.contains (some (f.g (lowLane (f.acting false c)) 4).toNat) = true ∧
      ((s.begun 0 false f c (.tlbi 4 6 8)).tlbi 0 0 0).hole = false) := Seen.of (by decide +kernel)

theorem test_meets_eret_firmware : Seen (asFirmware (placed (.eret 2))) (.eret 2) false (fun _ f _ _ => f.kind = .firmware ∧ f.trap = none) :=
  Seen.of (by decide +kernel)

theorem test_meets_eret : ∀ v ∈ [(1 : Word), 2], Seen (tweak (serving (placed (.eret 4))) (fun f => f.setGs [(4, 0, v)])) (.eret 4) false (fun s f _ c =>
    f.kind = .handler ∧ f.undone false = [] ∧ f.undone true = [] ∧ f.regions = [] ∧ f.trap = some served ∧
      ((((s.begun 0 false f c (.eret 4)).dispose served v.toNat).modFlight 0 (fun g =>
        { ((g.closeWindows false).closeWindows true).stop f.alive with trap := none })).leaveAll 0 f.alive).hole = false) := by
  refine List.forall_mem_cons.mpr ⟨Seen.of (by decide +kernel), List.forall_mem_cons.mpr ⟨Seen.of (by decide +kernel), List.forall_mem_nil _⟩⟩

/-- ERET of a handler flight that serves a trap of another flight, and of one that serves none. -/
theorem test_meets_eret_completes : ∀ tr ∈ [none, some served], Seen (tweak (serving (placed (.eret 4))) (fun f => { f with trap := tr })) (.eret 4) false
    (fun s f _ _ => f.kind = .handler ∧ f.undone false = [] ∧ f.undone true = [] ∧ f.regions = [] ∧ f.trap.all (fun t => decide (t.flight ≠ 0)) = true ∧
      ∀ e ∈ s.expans, e.2.isOpen = true) := by
  refine List.forall_mem_cons.mpr ⟨Seen.of (by decide +kernel), List.forall_mem_cons.mpr ⟨Seen.of (by decide +kernel), List.forall_mem_nil _⟩⟩

/-- Traps of an instruction and of a refused clause, whose lanes are in their slot, and have left it. -/
theorem test_meets_dispose : ([served, { served with code := 3 }, { served with decode := true }, { served with decode := true, hdrBad := true }].all (fun t =>
    [(3 : Mask), 4].all (fun m => (((serving (placed .nop)).modFlight 1 (fun f => { f with a := { f.a with mask := m } })).flight t.flight).elim false (fun f =>
      let x := f.slot t.slotB
      decide (x.trapped &&& t.mask ≠ 0 ∧ t.late = none ∧ (x.trapped &&& t.mask &&& x.mask = 0 ↔ m = 4) ∧ f.undone t.slotB = [] ∧ x.wait = .none))))) = true := by
  decide +kernel

/-- The trapped slot has something pending, so its lanes do not end yet. -/
theorem test_meets_dispose_end : let s := (serving (placed .nop)).modFlight 1 (fun f => f.addPending false (.divi 1 2 0 3) 4 1 false (.write [] [] 0))
    ∃ f, s.flight served.flight = some f ∧ (f.slot served.slotB).trapped &&& served.mask ≠ 0 ∧
      (f.slot served.slotB).trapped &&& served.mask &&& (f.slot served.slotB).mask ≠ 0 ∧ f.undone served.slotB ≠ [] ∧
      (f.slot served.slotB).wait = .none := ⟨_, rfl, by decide +kernel, by decide +kernel, by decide +kernel, rfl⟩

/-- An instruction whose guard is false in every lane. -/
def guardedOff (s : State) : State := tweak s (fun f => { f with a := { f.a with clause := f.a.clause.map (fun c => { c with guard := some 0 }) } })

theorem test_meets_no_acting_lane : ∀ i ∈ [Instr.iadd 1 2 3 false, .exit, .cancel 4 0, .st 5 2 false 0 1 .rel .w32 16], Machine.Instr.inProgram i = true ∧
    (guardedOff (placed i)).cur = { flight := 0, slotB := false } ∧ ∃ f la c, (guardedOff (placed i)).flight 0 = some f ∧
      Tbl.find (guardedOff (placed i)).launches f.launch.toNat = some la ∧ (f.slot false).clause = some c ∧
      decide ((guardedOff (placed i)).ready 0 f false i = true ∧ (∀ r ∈ i.use.gr ++ i.use.gw, r < f.allot) ∧ i.allowed f.kind = true ∧
        hazard f false i = false ∧ f.acting false c = 0 ∧ (i = .exit → f.undone false = [])) = true := by
  repeat (refine List.forall_mem_cons.mpr ⟨⟨by decide +kernel, by decide +kernel, standing.out (by decide +kernel)⟩, ?_⟩)
  exact List.forall_mem_nil _

/-- LD through a handle whose entry is invalid, and through the handle of size 0. -/
theorem test_meets_handle_none : Seen (reaching 0 (placed (.ld 5 2 false 0 1023 .weak .w32 0))) (.ld 5 2 false 0 1023 .weak .w32 0) false (fun s f la c =>
    f.regions = [] ∧ ((s.begun 0 false f c (.ld 5 2 false 0 1023 .weak .w32 0)).handle 0 la.ctx0 1023).1 = none) := Seen.of (by decide +kernel)

theorem test_meets_handle_empty : Seen (reaching 0 (placed (.ld 5 2 false 0 3 .weak .w32 0))) (.ld 5 2 false 0 3 .weak .w32 0) false (fun s f la c =>
    f.regions = [] ∧ ((s.begun 0 false f c (.ld 5 2 false 0 3 .weak .w32 0)).handle 0 la.ctx0 3).1.map (fun e => e.size) = some 0) := Seen.of (by decide +kernel)

/-- Offsets at both ends of a handle: outside it, unaligned, and allowed. -/
theorem test_meets_reach : ((-1 : Int) < 0) ∧ (((16 : Nat) : Int) < 13 + 4) ∧ (0 ≤ (12 : Int) ∧ (12 : Int) + 4 ≤ (16 : Nat)) ∧
    ((((0x1001 : Nat) : Int) + 2) % 2 ^ 48).toNat % 4 ≠ 0 ∧ ((((0x1000 : Nat) : Int) + 12) % 2 ^ 48).toNat % 4 = 0 := by decide

theorem test_meets_record : (31 < 32) ∧ State.reset.ringRoom ≠ 0 ∧ State.reset.ringAt + 64 ≤ Config.deviceBytes ∧
    ({ State.reset with frTail := 64 }).ringRoom = 0 := by decide +kernel

/-- A handle 4 over addresses that no page maps. -/
def unmapped (s : State) : State :=
  let s1 := reaching 0 s
  { s1 with mem := putWords s1.mem 0x8080 [0x200000, 0, 0x1000, 0, 0x8000000E] }

/-- What the statement on denied accesses supposes of a load. -/
def deniedMeets (i : Instr) (h : BitVec 10) (s : State) (f : Flight) (la : Launch) (c : Clause) (page : Bool) : Bool :=
  let rs := checksOf (s.begun 0 false f c i) 0 la h 4 .read false (offsetsOf f (f.acting false c) 2 0)
  let fs := denied rs.1
  decide (f.regions = []) && (decide (fs ≠ []) && (decide (rs.2.ringRoom ≠ 0) && (if page then fs.all (fun x => decide (x.code = .page)) else
    (lowestCode fs).any (fun e => decide (e ≠ .ecc)) && (decide (f.kind ≠ .handler) && la.takesTraps))))

theorem test_meets_denied_page : Seen (unmapped (placed (.ld 5 2 false 0 4 .weak .w32 0))) (.ld 5 2 false 0 4 .weak .w32 0) false (fun s f la c =>
    deniedMeets (.ld 5 2 false 0 4 .weak .w32 0) 4 s f la c true = true) := Seen.of (by decide +kernel)

theorem test_meets_denied_trap : Seen (withHandler (reaching 0xFFFD (placed (.ld 5 2 false 0 1 .weak .w32 0)))) (.ld 5 2 false 0 1 .weak .w32 0) false (fun s f la c =>
    deniedMeets (.ld 5 2 false 0 1 .weak .w32 0) 1 s f la c false = true) := Seen.of (by decide +kernel)

/-! Steps. -/

theorem test_meets_step_input : let s := { State.reset with inputs := [.doorbell 3 5] }
    s.inputs = .doorbell 3 5 :: [] ∧ s.passes (.doorbell 3 5) = false ∧ s.passes .nop = true ∧ s.security.halted = false := by decide +kernel

/-- An access of the host that has waited and waits no longer. -/
theorem test_meets_step_host : let s := { State.reset with hostOps := [.write 0x100 5 15] }
    s.inputs = [] ∧ s.security.halted = false ∧ s.hostNext.isSome = true := by decide +kernel

/-- A deadline is due, so something is urgent. -/
theorem test_meets_step_urgent : let s := { relaunch (placed .nop) (fun la => { la with deadline := 5 }) with time := 5 }
    s.inputs = [] ∧ s.security.halted = false ∧ s.hostNext.isNone = true ∧ (s.urgent.find? (fun m => s.would m)).any (fun m => nextIs (exec m.1 s) (fun _ => true)) = true := by
  decide +kernel

/-- A slot issues. -/
theorem test_meets_step_issue : let s := placed (.iadd 1 2 3 false)
    s.inputs = [] ∧ s.security.halted = false ∧ s.hostNext.isNone = true ∧ (s.urgent.find? (fun m => s.would m)).isNone = true ∧ s.cycle % 2 = 0 ∧
      s.pick = some { flight := 0, slotB := false } ∧ standing s (fun f la _ => decide (la.instrAt (f.slot false).pc = some (.iadd 1 2 3 false))) = true ∧
      nextIs (exec (.iadd 1 2 3 false) (s.aim { flight := 0, slotB := false })) (fun _ => true) = true := by decide +kernel

/-- A slot decodes its clause. -/
def undecoded (s : State) : State :=
  { tweak (mapped s) (fun f => { f with a := { f.a with clause := none, pc := 0 } }) with accepted := 0x3FF01 }

theorem test_meets_step_decode : let s := undecoded (placed .nop)
    s.inputs = [] ∧ s.security.halted = false ∧ s.hostNext.isNone = true ∧ (s.urgent.find? (fun m => s.would m)).isNone = true ∧ s.cycle % 2 = 0 ∧
      s.pick = some { flight := 0, slotB := false } ∧ (s.flight 0).map (fun f => (f.slot false).clause) = some none ∧
      nextIs (exec (.clauseDecode 0 false) (s.aim { flight := 0, slotB := false })) (fun _ => true) = true := by decide +kernel

/-- An event comes in an odd cycle. -/
theorem test_meets_step_event : let s := { slotWaits (.sleep 1) (placed .nop) with cycle := 1 }
    s.inputs = [] ∧ s.security.halted = false ∧ s.hostNext.isNone = true ∧ (s.urgent.find? (fun m => s.would m)).isNone = true ∧ s.cycle % 2 = 1 ∧
      s.event = some (.sleepExpiry 0 false) ∧ nextIs (exec (.sleepExpiry 0 false) s) (fun _ => true) = true := by decide +kernel

theorem test_meets_step_nothing : let s := State.reset
    s.inputs = [] ∧ s.security.halted = false ∧ s.hostNext.isNone = true ∧ (s.urgent.find? (fun m => s.would m)).isNone = true ∧ s.issueNext = none ∧ s.event = none := by decide +kernel

/-! Events. -/

theorem test_meets_clause_decode : let s := undecoded (placed .nop)
    (s.flight 0).elim false (fun f => (Tbl.find s.launches f.launch.toNat).elim false (fun la =>
      let s0 := s.putFlight 0 (f.setSlot false { f.slot false with wait := .none, replay := none })
      let d1 := s0.fetchDeny la 0
      let d2 := d1.2.fetchDeny la (min (0 + hdrCount (la.code.getD 0 0)) (la.code.length - 1))
      s.slotClear 0 f false && (decide ((f.slot false).clause = none) && (decide (la.wordIdx (f.slot false).pc = some 0) &&
        (!(f.undone false).any (hdrWaits (la.code.getD 0 0)) && (decide (d1.1 = none) && (decide (d2.1 = none) &&
          (decide (clauseCheck s.accepted la.code 0 = none) && !d2.2.hole)))))))) = true := by decide +kernel

theorem test_meets_sleep_expiry : let s := slotWaits (.sleep 0) (placed .nop)
    ∃ f, s.flight 0 = some f ∧ (f.slot false).wait = .sleep 0 ∧ 0 ≤ s.cycle := ⟨_, rfl, rfl, by decide⟩

theorem test_meets_completion : ∀ act ∈ [PendAct.write [(1, 0, 9)] [] 1, .reading [(1, 0, 9)] (.priv 1 1 [(0, 0)]), .product [(1, 0, 9)] [(0, 3)] none,
      .product [(1, 0, 9)] [(0, 3)] (some (.product [] [])), .finished],
    let s := withPending (.divi 1 2 0 3) act (placed .nop)
    (standing s (fun f _ _ => (f.pending.find? (fun q => decide (q.seq = 0))).elim false (fun p => decide (p.act = act) && (!p.done &&
      (!s.keepsBack 0 f p && !f.acqWaits p)))) && !s.hole) = true ∧
    flightIs (exec (.longLatencyCompletion 0 0) s) (fun g => !g.finished && (!g.a.wait.ends && !g.b.wait.ends)) = true := by
  decide +kernel

/-- A ready slot that others have passed over 256 times, one that they have passed over once less, and one that waits. -/
theorem test_meets_aged : ([((256 : Nat), Wait.none), (255, .none), (256, .sleep 1)].all (fun x =>
    let s := tweak (placed .nop) (fun f => { f with a := { f.a with aged := x.1, wait := x.2 } })
    standing s (fun f _ _ => decide (f.a.aged = x.1) && decide (s.slotReady 0 f false = decide (x.2 = .none))))) = true := by decide +kernel

/-- Child groups of 7 and 25 lanes in the task queue of core 0. -/
theorem test_meets_spawn_start : let s := { withHandler (placed .nop) with
      tasks := [(0, [⟨0, 2, 9, 0, 7⟩, ⟨0, 2, 8, 0, 25⟩])] }
    (s.nextSpawn 0).map (fun x => (x.1.word, x.2.1)) = some (0, 2) := by decide +kernel

/-- A workgroup with a held event and a handler that does not run. -/
def held (e : HeldEvent) : State :=
  relaunch (withHandler (placed .nop)) (fun la => { la with wgs := la.wgs.map (fun w => { w with held := [e], handlerPos := some 5 }) })

theorem test_meets_handler_start : ∀ e ∈ [HeldEvent.deadline, .trap served], ∃ la w, Tbl.find (held e).launches (0 : Word).toNat = some la ∧ la.wgAt 0 = some w ∧
    (((List.range la.roles.length).zip la.roles).find? (fun x => x.2.handler)).map (fun x => x.1) = some 1 ∧ w.held = e :: [] ∧ w.handlerPos = some 5 ∧
      w.running = false ∧ w.retired = false := by
  refine List.forall_mem_cons.mpr ⟨⟨_, _, rfl, rfl, by decide +kernel, rfl, rfl, rfl, rfl⟩, List.forall_mem_cons.mpr
    ⟨⟨_, _, rfl, rfl, by decide +kernel, rfl, rfl, rfl, rfl⟩, List.forall_mem_nil _⟩⟩

theorem test_meets_deadline : let s := { relaunch (inScopes (placed .nop)) (fun la => { la with deadline := 5 }) with time := 5 }
    (Tbl.find s.launches (0 : Word).toNat).elim false (fun la => s.deadlineDue la && nextIs (exec (.deadlineFire 0) s) (fun _ => true)) = true := by decide +kernel

/-- A launch whose deadline is not due, while a cancellation of it runs. -/
theorem test_meets_deadline_later : let s := relaunch (inScopes (placed .nop)) (fun la => { la with deadline := 5, cancels := [⟨[], [], [], none⟩] })
    (Tbl.find s.launches (0 : Word).toNat).elim false (fun la => !s.deadlineDue la && !la.cancels.isEmpty &&
      nextIs (exec (.deadlineFire 0) s) (fun t => !t.hole)) = true := by decide +kernel

/-- A launch whose workgroups have retired. -/
theorem test_meets_launch_end : let s := relaunch (placed .nop) (fun la => { la with wgs := la.wgs.map (fun w => { w with retired := true }) })
    (Tbl.find s.launches (0 : Word).toNat).elim false (fun la => s.launchDone la && nextIs (exec (.launchCompletion 0) s) (fun _ => true)) = true := by decide +kernel

theorem test_meets_preemption : let s := withPending (.ld 5 2 false 0 1 .weak .w32 0) (.load 5 .w32 .weak []) (placed .nop)
    ∃ la, Tbl.find s.launches (0 : Word).toNat = some la ∧ la.word = 0 ∧ la.runningGang 0 ≠ [] ∧ Tbl.sorted s.flights = true ∧
      (∀ e ∈ s.flights, e.2.launch = 0 → e.2.regions = [] ∧ ∀ p ∈ e.2.pending, p.done = true ∨ p.kind ≠ 1) ∧ (s.preempt 0 0).hole = false :=
  ⟨_, rfl, by decide +kernel, by decide +kernel, by decide +kernel, by decide +kernel, by decide +kernel⟩

/-- A matrix instruction that has not fetched its operands when its core halts, as the choices tape says. -/
theorem test_meets_abandon : let s := withPending (.mma 8 false false 0 1 1 1 1) (.product [(8, 0, 5)] [] (some (.product [] []))) { placed .nop with choices := [true], matBusy := [(0, 40)] }
    ∃ f p, s.flight 0 = some f ∧ f.pending = [p] ∧ p.done = false ∧ p.act = .product [(8, 0, 5)] [] (some (.product [] [])) ∧ s.choose.1 = true ∧
      s.cycle < (Tbl.find s.matBusy (4 * (0 / 64) + 0 % 64 / 16)).getD 0 :=
  ⟨_, _, rfl, rfl, rfl, rfl, rfl, by decide⟩

/-- The same with its matrix unit free again. -/
theorem test_meets_abandon_free : let s := withPending (.mma 8 false false 0 1 1 1 1) (.product [(8, 0, 5)] [] (some (.product [] []))) { placed .nop with choices := [true] }
    (Tbl.find s.matBusy (4 * (0 / 64) + 0 % 64 / 16)).getD 0 ≤ s.cycle ∧ s.choose.1 = true := by decide +kernel

/-- A gang that was taken off, and a place where it cannot stand. -/
theorem test_meets_resume : nextIs (exec (.preemptionRequest 0 0) (placed .nop)) (fun s => (Tbl.find s.launches (0 : Word).toNat).elim false (fun la =>
    (s.saved.find? (fun g => decide (g.launch = 0) && decide (g.gang = 0))).isSome && decide (128 < 128 + la.gang) &&
      nextIs (exec (.gangResume 0 0 5) s) (fun _ => true))) = true := by decide +kernel

/-- The gang resumes on another core, its window with it. -/
theorem test_meets_resumes : let s0 := { windowed (placed .nop) with scratch := [(0, putWords [] 0x1000 [5])] }
    nextIs (exec (.preemptionRequest 0 0) s0) (fun s => (Tbl.find s.launches (0 : Word).toNat).elim false (fun la =>
      (s.saved.find? (fun g => decide (g.launch = 0) && decide (g.gang = 0))).elim false (fun img =>
        decide (la.gang ≠ 0) && (decide (7 % la.gang = 0) && (!img.unfilled la && img.members.all (fun m =>
          (s.memberFits la m (7 + m.index)).elim false (fun wins => Tbl.sorted m.flights && (Tbl.sorted m.barriers && (Tbl.sorted m.expans && (Tbl.sorted m.atria &&
            (m.windows.all (fun x => (Tbl.find wins x.1).isSome && (la.windows.any (fun w => decide (w.num = x.1 ∧ w.space = x.2.1)) && (Cells.wf x.2.2 &&
              x.2.2.all (fun e => decide (e.1 < x.2.1))))) &&
              (decide (m.windows.length = 2) && decide (wins = [(1, 0), (2, 256)] ∨ wins.map (fun x => x.1) = [1, 2]))))))))))) &&
        nextIs (exec (.gangResume 0 0 7) s) (fun t => (t.flight 448).isSome))) = true := by decide +kernel

/-- A saved flight and its record: PC 4, 32 live lanes, stack reference 127, role 0 with 128 registers in the flight word (R339), and the
word of g2 of lane 3 at 0xA40 + 128 × 2 + 4 × 3. -/
theorem test_flight_record : nextIs (exec (.preemptionRequest 0 0) (regs (placed .nop) [(2, 3, 77)])) (fun s => s.saved.any (fun g => g.members.any (fun m =>
    (Tbl.find m.flights 0).isSome && decide ((List.range 4).map (fun i => m.recordWord 0 (4 * i)) = [some 4, some 0xFFFFFFFF, some 127, some 1]) &&
    decide (m.recordWord 0 0x20 = some 0x00800000) && decide (m.recordWord 0 0xB4C = some 77) && decide (m.recordWord 0 0x43C = some 0)))) = true := by
  decide +kernel

/-- The reserve stands, and a time. -/
def reserved (t last : Nat) (run : Option Word) (wide : Bool) : State :=
  let s := placed .nop
  { s with acceptedW := true, time := t, reflex := { s.reflex with lastBoundary := last, running := run, windowOpen := wide } }

theorem test_meets_reflex : (reserved 4980000 1 none false).windowDue = true ∧
    ((reserved 5000000 0 none true).reserveStands = true ∧ (reserved 5000000 0 none true).reflex.lastBoundary < (reserved 5000000 0 none true).reflex.reached 5000000 ∧
      (reserved 5000000 0 none true).reflexRuns = false ∧ ((reserved 5000000 0 none true).queue 0).waiting = none) ∧
    ((reserved 5000000 0 (some 0) true).reflex.lastBoundary < (reserved 5000000 0 (some 0) true).reflex.reached 5000000 ∧
      (reserved 5000000 0 (some 0) true).reflexRuns = true) ∧
    (reserved 5002000 1 none true).closeDue = true := by decide +kernel

/-- Context 0 with one command. -/
def commanded (x : Command) : State :=
  let s := mapped (placed .nop)
  { s with ctxs := s.ctxs.map (fun e => (e.1, { e.2 with tail := 1, cmds := [x] })) }

/-- A command that has not started. -/
def command (k : CmdKind) : Command :=
  { num := 1, kind := k, launch := none, issuer := 0, scope := 0, started := false, cancelled := false, finished := false, pos := 0, parkSeq := none, walk := [],
    visited := 0, version := 0, order := 0 }

/-- A descriptor of 256 bytes: its operation, source and destination handle 1. -/
def descWords (op : Word) : List Word := [op, 1, 0x100, 0, 1, 0x1000, 0, 256, 7, 0, 0, 0, 0, 0, 0, 0]

theorem test_meets_chain_work : ∀ x ∈ [((1 : Word), Instr.copyCmd 0 1), (2, .fillCmd 0 1), (3, .reduceCopyCmd 0 1), (4, .nopCmd 0 1)],
    ((commanded (command (.chain (descWords x.1)))).workable 0 1).map (fun c => c.kind) = some (.chain (descWords x.1)) ∧
      (descOf (descWords x.1)).map (fun d => d.op) = some x.1.toNat ∧ nextIs (exec x.2 (commanded (command (.chain (descWords x.1))))) (fun _ => true) = true := by
  decide +kernel

/-- Aligned addresses of device memory, all different. -/
def stand (as : List LaneAddr) : Bool := as.all (fun a => !a.host && decide (a.pa % 4 = 0)) && decide ((as.map (fun a => a.pa)).Nodup)

/-- The first block of a fill, of a copy and of a reduction, once the command has started. -/
theorem test_meets_blocks : ([(1 : Word), 2, 3].all (fun op =>
    let c := { command (.chain (descWords op)) with started := true }
    let s := commanded c
    (descOf (descWords op)).elim false (fun d =>
      let n := min (d.len - c.pos) (128 - (d.doff + c.pos) % 128)
      let a := s.engRun (s.cmdCtx 0 c) d.src ((d.soff + c.pos : Nat) : Int) n 4 .read
      let b := a.2.engRun (s.cmdCtx 0 c) d.dst ((d.doff + c.pos : Nat) : Int) n 4 .write
      decide (d.op = op.toNat ∧ c.pos + n < d.len ∧ (op = 3 → d.chunk c.pos = n)) && (decide (b.2.combining = [] ∧ b.2.l1 = [] ∧ b.2.errors = []) &&
        (match a.1, b.1 with
        | .ok as, .ok bs => decide (as.length = 32 ∧ bs.length = 32) && (stand as && (stand bs && as.all (fun x => decide (x.pa + 4 ≤ Config.deviceBytes))))
        | _, _ => false))))) = true := by decide +kernel

/-- A word of a reduction for a block with no entry, while one is free, while none is, and with one that stands. -/
theorem test_meets_contribution : let s0 := (mapped (placed .nop)).engRun 0 1 0x1000 4 4 .write
    let entry (block : Nat) : CombEntry := { hall := 0, block := block, at_ := ⟨0, false, 0, 0x1000, 0x201000, false, 1⟩, op := .add, from_ := [(1, 1)], words := [], got := 0 }
    (match s0.1 with
    | .ok bs => decide (bs.length = 1) && (stand bs && (decide (s0.2.l1 = [] ∧ s0.2.combining = []) && bs.all (fun a =>
        decide (a.pa / 128 = 0x201000 / 128) && ((List.replicate 16 (entry 7)).all (fun e => decide (e.block ≠ a.pa / 128)) &&
          decide (16 ≤ ((List.replicate 16 (entry 7)).filter (fun e => decide (e.hall = 0))).length ∧ (entry (a.pa / 128)).block = a.pa / 128)))))
    | .error _ => false) = true := by decide +kernel

/-- An entry that still awaits a word of a reduction. -/
theorem test_meets_awaited : let s := commanded (command (.chain (descWords 3)))
    s.awaited { hall := 0, block := 0x201000 / 128, at_ := ⟨0, false, 0, 0x1000, 0x201000, false, 1⟩, op := .add, from_ := [], words := [], got := 0 } = true := by decide +kernel

/-- A query of a point in a tree at handle 1, whose level may be too high. -/
def queryWords (level : Word) : List Word := [1, 1, 0, level, 0, 0, 0, 0x3F800000, 0, 0, 0, 0, 0, 0, 0, 0]

/-- A frame of a walk, every octant empty. -/
def frame (n : Nat) : WalkFrame := { node := 0, level := 0, lo := [0, 0, 0], edge := 0x3F800000, occ := 0, base := 0, octant := n }

/-- A query: refused, at its first node, at an empty octant, at its end, at the end of a nested node, at a full and an unknown octant that the point
touches, at a mixed one, and cancelled. -/
theorem test_meets_query : queryOk (queryWords 16) = false ∧ queryOk (queryWords 15) = true ∧
    (∀ x ∈ [(queryWords 16, ([] : List WalkFrame), false), (queryWords 15, [], false), (queryWords 0, [frame 8], false), (queryWords 0, [frame 7], false),
        (queryWords 0, [frame 0, frame 8], false), (queryWords 0, [{ frame 0 with occ := 1 }], false), (queryWords 0, [{ frame 0 with occ := 3 }], false),
        (queryWords 0, [{ frame 0 with occ := 2, level := 1 }], false), (queryWords 0, [], true)],
      ((commanded { command (.query x.1 []) with walk := x.2.1, cancelled := x.2.2 }).workable 0 1).map (fun c => (c.kind, c.walk, c.cancelled)) =
          some (.query x.1 [], x.2) ∧
        nextIs (exec (.collisionQuery 0 1) (commanded { command (.query x.1 []) with walk := x.2.1, cancelled := x.2.2 })) (fun _ => true) = true) ∧
    8 ≤ (frame 8).octant ∧ (frame 7).octant < 8 ∧ octState (frame 7).occ (frame 7).octant = 0 ∧ octState 1 0 = 1 ∧ octState 3 0 = 3 ∧ octState 2 0 = 2 ∧
    (let box := octantBox (frame 0) 0
     queryHits (queryWords 0) box.1 box.2.1 box.2.2 = true) := by decide +kernel

/-- A node of a query that keeps its layout at level 0 and not at level 1, and a record where the result goes. -/
theorem test_meets_query_node : let c := command (.query (queryWords 0) [⟨0, false, 0, 0x40, 0x200040, false, 1⟩])
    let s := commanded c
    (match s.engRun (s.cmdCtx 0 c) 1 0 16 16 .read with
    | (.ok as, s1) => decide ((s1.runRead as).1 = [0, 0, 0, 0]) && decide ((0 : Nat) / 2 ^ 16 % 256 ≠ 1)
    | _ => false) = true ∧ (s.againAll c.statusAt .write).1.toOption.isSome = true := by decide +kernel

/-- A step of n bodies through handle 1. -/
def stepWords (n : Word) : List Word := [1, 1, 1, n, 0x3C23D70A, 0, 0, 0, 0, 0, 0, 0]

theorem test_meets_dynamics : stepOk (stepWords 0) = false ∧ stepOk (stepWords 1) = true ∧
    (∀ x ∈ [((0 : Word), false, 0), (1, false, 0), (1, true, 0), (1, true, 1)],
      ((commanded { command (.dyn (stepWords x.1) []) with started := x.2.1, pos := x.2.2 }).workable 0 1).map (fun c => (c.kind, c.started)) =
          some (.dyn (stepWords x.1) [], x.2.1) ∧
        nextIs (exec (.dynamicsStep 0 1) (commanded { command (.dyn (stepWords x.1) []) with started := x.2.1, pos := x.2.2 })) (fun _ => true) = true) ∧
    ((commanded (command (.dyn (stepWords 1) []))).stepProbe ((commanded (command (.dyn (stepWords 1) []))).cmdCtx 0 (command (.dyn (stepWords 1) [])))
      (stepWords 1)).1.toOption = some true ∧
    ((commanded { command (.dyn (stepWords 1) []) with started := true }).stepRead
      ((commanded { command (.dyn (stepWords 1) []) with started := true }).cmdCtx 0 { command (.dyn (stepWords 1) []) with started := true })
      (stepWords 1) (((stepWords 1).getD 2 0).toNat + 0)).1.toOption.isSome = true := by decide +kernel

/-- A cancelled step, and one of a body with a reserved bit set. -/
theorem test_meets_dynamics_other : let c := command (.dyn (stepWords 1) [])
    ((commanded { c with cancelled := true }).workable 0 1).map (fun c => c.cancelled) = some true ∧
      nextIs (exec (.dynamicsStep 0 1) (commanded { c with cancelled := true })) (fun _ => true) = true ∧
      (let s := { commanded c with mem := putWords (commanded c).mem 0x200078 [4] }
       (s.stepProbe (s.cmdCtx 0 c) (stepWords 1)).1.toOption = some false) := by decide +kernel

/-- The first of two bodies, and the second. -/
theorem test_meets_two_bodies : ([0, 1].all (fun p =>
    let c := { command (.dyn (stepWords 2) []) with started := true, pos := p }
    let s := commanded c
    decide (((s.workable 0 1).map (fun c => (c.kind, c.started, c.pos))) = some (.dyn (stepWords 2) [], true, p)) &&
      (s.stepRead (s.cmdCtx 0 c) (stepWords 2) (((stepWords 2).getD 2 0).toNat + p)).1.toOption.isSome)) = true := by decide +kernel

theorem test_meets_restripe : let s := commanded (command (.restripe 0 1 0x200000 0x84000))
    (s.workable 0 1).map (fun c => c.kind) = some (.restripe 0 1 0x200000 0x84000) ∧
      (match walkFrom s 0 0 4 0 (s.ctx 0).root with
      | .leaf e => decide (e.size = 0x200000)
      | _ => false) = true ∧ nextIs (exec (.restripeHandover 0 1) s) (fun _ => true) = true := by decide +kernel

/-- An earlier restripe of the page through another context, and none. -/
theorem test_meets_restripe_order : let s0 := commanded { command (.restripe 0 1 0x200000 0x84000) with order := 5 }
    let s := { s0 with ctxs := s0.ctxs ++ [(1, { s0.ctx 0 with cmds := [command (.restripe 0 1 0x200000 0x84000)] })] }
    (s.workable 0 1).map (fun c => c.order) = some 5 ∧
      (match walkFrom s 0 0 4 0 (s.ctx 0).root with
      | .leaf e => decide (e.size = 0x200000) && (s.restripedBefore 5 e && !s0.restripedBefore 5 e)
      | _ => false) = true := by decide +kernel

theorem test_meets_command_completion : let s := commanded { command (.chain (descWords 4)) with finished := true }
    (s.ctx 0).cmds.map (fun c => c.finished) = [true] ∧ nextIs (exec (.engineCommandCompletion 0) s) (fun _ => true) = true := by decide +kernel

/-- A finished reduction whose words another command of its block still keeps in the switch, and one whose words have left. -/
theorem test_meets_combined : let entry : CombEntry := { hall := 0, block := 0x201000 / 128, at_ := ⟨0, false, 0, 0x1000, 0x201000, false, 1⟩, op := .add, from_ := [(0, 1), (0, 2)], words := [], got := 0 }
    let s0 := commanded { command (.chain (descWords 3)) with finished := true }
    let s := { s0 with
      combining := [entry]
      ctxs := s0.ctxs.map (fun (e : Nat × EngineCtx) => (e.1, { e.2 with cmds := e.2.cmds ++ [{ command (.chain (descWords 3)) with num := 2 }] })) }
    (s.ctx 0).cmds.map (fun c => c.finished) = [true, false] ∧
      (s.unlessHeld s.combSettle).combining.any (fun e => e.from_.contains (0, 1)) = true ∧
      ({ s0 with combining := [entry] }.unlessHeld { s0 with combining := [entry] }.combSettle).combining.any (fun e => e.from_.contains (0, 1)) = false := by
  decide +kernel

/-- A block with dirty bytes, one of them in a word that a priority attempt has reserved. -/
theorem test_meets_caches : let s := (mapped (placed .nop)).storeL1 0 0 4 0x200004 4 9
    let r : Reservation := { pa := 0x200004, flight := 64, lane := 0, cycle := 0 }
    s.reserved = [] ∧ ((s.l1.filter (fun y => decide (y.core = 0)))[0]?).elim false (fun x =>
      decide (r.pa = x.page + 4) && (x.dirty.getLsbD 4 && (!x.dirty.getLsbD 8 && decide (Cells.get s.mem r.pa ≠ x.data.extractLsb' (8 * 4) 8)))) = true ∧
    (((mapped (placed .nop)).translate 0 0x40).2.tlb[0]?).isSome = true := by decide +kernel

/-- The second block of the second flight's own words, on a core with one global block. -/
theorem test_meets_own_block : let blk (n : Nat) : PrivBlock := { index := n, valid := 5, dirty := 4, words := [(2, 9)] }
    let s0 := (mapped (placed .nop)).storeL1 0 0 4 0x200004 4 9
    let s := { s0 with flights := (s0.flight 0).toList.flatMap (fun (f : Flight) =>
      [(0, { f with pblocks := [blk 1] }), (1, { f with pblocks := [blk 2, blk 3] })]) }
    ∃ f g, s.flights = [(0, f)] ++ (1, g) :: [] ∧ 1 / 64 = 0 ∧ Tbl.sorted s.flights = true ∧ (g.pblocks[1]?).map (fun b => (b.index, b.dirty)) = some (3, 4) ∧
      3 = (s.l1.filter (fun y => decide (y.core = 0))).length + (([(0, f)].filter (fun e => decide (e.1 / 64 = 0))).map (fun e => e.2.pblocks.length)).sum + 1 :=
  ⟨_, _, rfl, rfl, by decide +kernel, by decide +kernel, by decide +kernel⟩

/-- A fine region that has seen no recall for 4,096 cycles. -/
theorem test_meets_region : (Tbl.find [(5, ({ holder := some 3, fine := true, lastReg := 0, lastRecall := 0 } : DirEntry))] 5).map (fun d => decide (d.fine = true ∧
    d.lastRecall + 4096 ≤ 4096)) = some true := by decide +kernel

/-! Packets and queues. -/

/-- Queue 3 open and holding a packet, contexts 0 valid and 2 not. -/
def holding (i : Instr) : State :=
  let s := mapped (placed .nop)
  { s with
    queues := [(3, { Queue.reset with opened := true, en := true, doorbell := 10, base := 0x4000, space := true, held := some i })]
    security := { s.security with booted := 6 }, accepted := 0x3FF01, acceptedW := true, ctxs := s.ctxs ++ [(2, EngineCtx.reset)] }

/-- The header of a packet of queue 3. -/
def hdr3 : PktHdr := { q := 3, cls := 0, fence := 1 }

/-- The packet that a state's queue 3 holds may start and has an effect. -/
def serves (i : Instr) : Bool := (holding i).prune.mayServe 3 i && nextIs (exec i (holding i)) (fun _ => true)

theorem test_meets_packets : ∀ i ∈ [Instr.nopPkt hdr3, .stopPkt hdr3, .waitTimelinePkt hdr3 0 5, .fencePkt hdr3, .setDeadlinePkt hdr3 0 99,
    .contextPkt hdr3 2 true 0x2000 0x8000 0xA000 0xC000, .contextPkt hdr3 2 false 0 0 0 0], serves i = true := by decide +kernel

theorem test_meets_signal : serves (.signalPkt hdr3 2 true 4 0x100 77) = true ∧ ((holding .nop).prune.ctx 2).valid = false ∧
    serves (.signalPkt hdr3 0 true 31 0x100 77) = true ∧ ((holding .nop).prune.ctx 0).valid = true ∧
      ((holding .nop).prune.ctxWrite 0 0x100 [77, 0]).isSome = true := by decide +kernel

theorem test_meets_restripe_packet : serves (.restripePkt hdr3 0 1 0x40000000 0x84000) = true ∧ (holding .nop).prune.restripeSize 0 0x40000000 1 0x84000 = none ∧
    serves (.restripePkt hdr3 0 1 0 0x84000) = true ∧ ((holding .nop).prune.restripeSize 0 0 1 0x84000).isSome = true := by decide +kernel

theorem test_meets_chain_packet : serves (.chainPkt hdr3 2 1 0x40) = true ∧ serves (.chainPkt hdr3 0 1 0x44) = true ∧
    serves (.chainPkt hdr3 0 1 0x40) = true ∧ ((holding .nop).prune.ctxRead 0 0x40 16).1.isSome = true ∧
    serves (.chainPkt hdr3 0 1 0x40000000) = true ∧ ((holding .nop).prune.ctxRead 0 0x40000000 16).1.isSome = false := by decide +kernel

theorem test_meets_indirect : serves (.indirectPkt hdr3 0 2 0x100) = true ∧
    (let s := holding (.indirectPkt hdr3 0 2 0x100)
     let s1 := s.setQueue 3 { s.queue 3 with indirect := [{ ctx := 0, va := 0, count := 2, next := 0, pkt := 0, last := none }] }
     s1.prune.mayServe 3 (.indirectPkt hdr3 0 2 0x100) = true ∧ ((s1.prune.queue 3).indirect.any (fun y =>
       decide (y.ctx = 0) && decide (y.va ≤ 0x100) && decide (0x100 < y.va + 256 * y.count))) = true) := by decide +kernel

/-- The body of a LAUNCH packet of one gang on core 8, its image at virtual address 0x100. -/
def body (record : BitVec 64) (x : Word) : LaunchBody :=
  { image := 0x100, param := 0, ctxs := 0xFFFFFF00, gang := 1, cls := 1, flags := 0, vector := 0, cores := 0x100, seed := 5, deadline := 0, x := x, y := 1, z := 1,
    chunk := 1, groups := 0, record := record, rsv := false }

/-- The same state with an image of one role, whose clause is one NOP. -/
def imaged (i : Instr) : State :=
  let s := holding i
  let code := ((Tbl.find s.launches 0).map (fun la => la.code)).getD []
  { s with mem := putWords s.mem 0x200100 ([0x4D525542, 0x00010001, 192, 2, 0, 0, 192, 192, 0, 0, 200, 0, 0, 0, 0, 0, 0, 0x00000108] ++ List.replicate 30 0 ++
      code.take 2) }

theorem test_meets_launch_packet : (holding .nop).prune.recordOk (body 0x201 1) = false ∧ (imaged .nop).prune.recordOk (body 0x400 1) = true ∧
    (imaged (.launchPkt hdr3 (body 0x400 1))).prune.mayServe 3 (.launchPkt hdr3 (body 0x400 1)) = true ∧
    ((imaged .nop).prune.judge 0x18000000 3 1 (body 0x400 1)).1.toOption.isSome = true ∧
    ((imaged .nop).prune.judge 0x18000000 3 1 (body 0x400 0)).1.toOption.isSome = false := by decide +kernel

/-- A launch of class 0 that has waited a microsecond at the boundary, and fits. -/
theorem test_meets_reflex_start : ((imaged .nop).judge 0x18000000 3 1 (body 0x400 1)).1.toOption.elim false (fun w0 =>
    let w := { w0 with launch := { w0.launch with cls := 0 }, since := 4999000 }
    let s0 := imaged .nop
    let s := { s0 with time := 5000000, reflex := { s0.reflex with lastBoundary := 0 },
                       queues := [(0, { Queue.reset with waiting := some w, active := [{ id := 0, pkt := .nop, cond := .launch 0x18000000 }] })] }
    let n := s.reflex.reached s.time
    decide (s.reserveStands = true ∧ s.reflex.lastBoundary < n ∧ s.reflexRuns = false ∧ w.since + 1000 ≤ s.reflex.at_ n ∧
      (Tbl.find s.launches w.launch.word.toNat).isSome = false) &&
    (match ({ s with reflex := { s.reflex with lastBoundary := n, windowOpen := true } } : State).prepare w with
    | (.ok la, s2) => (s2.spots la).elim false (fun sps =>
        (((s2.startLaunch la w.fence sps).launchGone 0 true).queue 0).active.any (fun a => decide (a.cond = .launch w.launch.word))) &&
      nextIs (exec .reflexBoundary s) (fun t => decide (t.reflex.running = some 0x18000000))
    | _ => false)) = true := by decide +kernel

/-- A launch that waits in queue 3 for room, and fits. -/
theorem test_meets_launch_start : ((imaged .nop).judge 0x18000000 3 1 (body 0x400 1)).1.toOption.elim false (fun w =>
    let s := (imaged .nop).setQueue 3 { (imaged .nop).queue 3 with waiting := some w }
    decide (((s.queue 3).waiting).isSome = true ∧ (Tbl.find s.launches w.launch.word.toNat).isSome = false ∧ s.reflex.windowOpen = false) &&
      (match s.prepare w with
      | (.ok la, s1) => (s1.spots la).isSome && nextIs (exec (.launchStart 3) s) (fun t => decide (t.launches.length = 2))
      | _ => false)) = true := by decide +kernel

/-- The places of a launch with two windows; and one of a flight that fits in a partition. -/
theorem test_meets_launch_places : ((imaged .nop).judge 0x18000000 3 1 (body 0x400 1)).1.toOption.elim false (fun w =>
    (match ((imaged .nop).prepare w).1 with
    | .ok l => let la := { l with windows := [(⟨1, false, 64⟩ : Window), ⟨2, true, 256⟩] }
        ((imaged .nop).spots la).elim false (fun sps => decide ((la.wgs.map (fun w => w.core)).Nodup) && sps.all (fun sp => !sp.flights.isEmpty)) &&
          (((imaged .nop).spotOn la 8).isSome && decide ((la.windows.map (fun w => w.num)).Nodup))
    | .error _ => false) &&
    ((Occ.empty.place 128).isSome && Occ.empty.all (fun e => e.2.all (fun q => decide (q < 16))))) = true := by decide +kernel

/-- A queue that may fetch, its ring in host memory with a word in its first slot's trailer. -/
def fetching (t : Word) (space : Bool) (base : Nat) : State :=
  let s := (holding .nop).setQueue 3 { (holding .nop).queue 3 with held := none, space := space, base := base }
  { s with hostMem := putWords [] 0x40FC [t] }

/-- A slot with its lap that holds a packet, one that holds none, one without its lap, and one past the end of device memory. -/
theorem test_meets_slot_fetch : ([(fetching 0x01000001 true 0x4000, 0), (fetching 0x010000FF true 0x4000, 1), (fetching 0x02000001 true 0x4000, 2),
      (fetching 0 false (2 ^ 47), 3)].all (fun c =>
    let s := c.1
    let x := s.queue 3
    let a := x.base + 256 * (x.consumed % 2 ^ x.n)
    (x.opened && (!x.halt && (!s.security.halted && decide (x.held = none ∧ x.waiting = none ∧ x.indirect = [] ∧ x.consumed < x.doorbell)))) &&
      (nextIs (exec (.slotFetch 3) s) (fun _ => true) &&
      (match s.ringWords x (a + 252) 1 with
      | (some [t], s1) => if t.toNat / 2 ^ 24 = (x.consumed / 2 ^ x.n + 1) % 256 then
          (match s1.ringWords x a 64 with
          | (some ws, _) => (match decodeSlot 3 ws with
            | .ok _ => decide (c.2 = 0)
            | .error _ => decide (c.2 = 1))
          | _ => false) else decide (c.2 = 2)
      | _ => decide (c.2 = 3))))) = true := by decide +kernel

theorem test_meets_round : (holding (.nopPkt hdr3)).fetchAll.prune.holding ≠ [] ∧ nextIs (exec .firmwareCoreRound (holding (.nopPkt hdr3))) (fun _ => true) = true := by
  decide +kernel

/-- Queues at the limits of their slot count, closed and open and halted. -/
theorem test_meets_queues : (31 < 32) ∧ (State.reset.queue 31).en = false ∧ 4 ≤ (State.reset.queue 31).n ∧ (State.reset.queue 31).n ≤ 12 ∧
    ¬ (4 ≤ ({ Queue.reset with n := 13 } : Queue).n ∧ ({ Queue.reset with n := 13 } : Queue).n ≤ 12) ∧ ((holding .nop).queue 3).en = true ∧
    ({ Queue.reset with halt := true } : Queue).halt = true := by decide +kernel

/-! The host and the device. -/

/-- A device that has booted, before and after the first write of accepted word 0. -/
def booted (w : Bool) : State := { State.reset with security := { State.reset.security with booted := 6 }, acceptedW := w }

theorem test_meets_host : 3 ≤ (booted false).security.booted ∧ (booted false).security.halted = false ∧ (booted false).acceptedW = false ∧
    (booted true).acceptedW = true ∧ (booted true).security.keysZero = false ∧ (0x7F < 0x80) ∧ ((booted true).queue 31).en = false ∧
    (Config.deviceBytes - 4) % 4 = 0 ∧ Config.deviceBytes - 4 + 4 ≤ Config.deviceBytes := by decide +kernel

/-- Accesses of the host that wait, a reserved word, and a word that it would change. -/
theorem test_meets_host_waits : ({ booted true with hostOps := [.read 0] }).hostOps ≠ [] ∧
    (let s := { booted true with reserved := [({ pa := 0x100, flight := 0, lane := 0, cycle := 0 } : Reservation)] }
     s.hostOps = [] ∧ s.security.halted = false ∧ s.reserved.map (fun r => r.pa) = [0x100] ∧ wordAt s.mem 0x100 ≠ 5) ∧
    ((booted true).hostRegister (0x1000 + 64 * 31 + 0x18)).isSome = true := by decide +kernel

theorem test_meets_device : { State.reset with security := { State.reset.security with halted := true } }.security.halted = true ∧
    ({ State.reset with synced := true }).synced = true ∧ State.reset.synced = false ∧ State.reset.security.halted = false ∧
    ((placed .nop).flight 0).isSome = true := by decide +kernel

/-- A channel of the reserve while the reflex window is open. -/
theorem test_meets_scrub : let s0 := booted true
    let s := { s0 with placed := [(1, 5)], reflex := { s0.reflex with channels := 0xFFFFFFFF, halls := 3, windowOpen := true } }
    3 ≤ s.security.booted ∧ s.security.halted = false ∧ s.onReserved 0x1000 = true ∧ s.onReserved 0 = false ∧ s.reflex.windowOpen = true ∧
      0x1000 + 4 ≤ Config.deviceBytes := by decide +kernel

/-- The attestation record and telemetry, before and after a class A alarm. -/
theorem test_meets_host_reads : (booted true).hostTelemetry.isSome = true ∧ (booted true).hostAttestation.isSome = true ∧
    ((booted true).alarmA.hostTelemetry).isNone = true ∧ ((booted true).alarmA.hostAttestation).isSome = true ∧
    (booted true).alarmA.security.halted = true := by decide +kernel

/-- An image with a member, its flight and a window, in device memory of which a page is mapped. -/
theorem test_meets_image : ∀ f ∈ (placed .nop).flight 0, let m : SavedMember := ⟨3, 0, 0, [], [(0, f)], [], [], [], [], [], [], [(1, 64, [(5, 7)])]⟩
    let g : SavedGang := ⟨0, 0, 9, [m]⟩
    g.extent ≤ Config.lpddrBytes ∧ (g.header 1).length = 8 ∧ (mapped (placed .nop)).leaves.length = 1 ∧ (m.recordWord 0 0x24).isSome = true := by
  intro f hf
  have ha : f.allot ≤ 128 := by
    have h : ∀ f ∈ (placed .nop).flight 0, f.allot ≤ 128 := by decide +kernel
    exact h f hf
  refine ⟨?_, rfl, by decide +kernel, rfl⟩
  have he : Config.expansionBytes % 2 ^ 20 < 2 ^ 20 := Nat.mod_lt _ (by decide)
  simp only [SavedGang.extent, SavedGang.sections, SavedMember.sections, SavedMember.contents, List.flatMap_cons, List.flatMap_nil, List.map_cons,
    List.map_nil, List.append_nil, List.cons_append, List.nil_append, sectionStarts, ImageSection.bytes, List.zip_cons_cons,
    List.zip_nil_right, List.foldl_cons, List.foldl_nil, Config.lpddrBytes]
  generalize Config.expansionBytes % 2 ^ 20 = e at *
  omega

/-! Encodings and memory. -/

theorem test_meets_clause_checks : ([0xF1000000, 7] : List Word).drop 1 = 7 :: [] ∧ hdrOk 7 = false ∧ hdrOk 0xF1800000 = true ∧ ([] : List Word).length < hdrCount 0xF1800000 ∧
    hasX 0 = false ∧ (instrCheck 0x3FF01 0xF1800000 0 none true).isSome = true ∧
    instrCheck 0x3FF01 (headerFor 2 1) 0x21000001 none true = some .badField ∧
    instrCheck 0x3FF01 (headerFor 4 2) ((encode (.jmp 4)).getD 0 0) none false = some .badTransfer ∧ 960 ≤ (0xF0000000 : Word).toNat / 2 ^ 22 ∧
    (0xD0000000 : Word).toNat / 2 ^ 22 < 960 ∧ opDefined ((0xD0000000 : Word).toNat / 2 ^ 22) = false := by decide +kernel

/-- Clauses of an integer engine whose second instruction fails: of one word, of two, and with its second word missing; and one that passes. -/
theorem test_meets_clause_walk :
    let h (n : Nat) : Word := headerFor 0 n
    hdrOk (h 2) = true ∧ hdrCount (h 3) = 3 ∧
      PassesTo 0x3FF01 (h 2) [0x05410204, 0xF0000000] 1 [0xF0000000] ∧ instrCheck 0x3FF01 (h 2) 0xF0000000 none true = some .classF ∧
      PassesTo 0x3FF01 (h 3) [0x05410204, 0xF8000000, 0] 1 [0xF8000000, 0] ∧ instrCheck 0x3FF01 (h 3) 0xF8000000 (some 0) true = some .classF ∧
      PassesTo 0x3FF01 (h 2) [0x05410204, 0x08038206] 1 [0x08038206] ∧ instrCheck 0x3FF01 (h 2) 0x08038206 none true = some .lastWord ∧
      PassesTo 0x3FF01 (h 3) [0x05410204, 0x08038206, 0x08000000] 3 [] :=
  ⟨by decide +kernel, by decide +kernel, .one _ _ _ _ (by decide +kernel) (by decide +kernel) (.start _), by decide +kernel,
    .one _ _ _ _ (by decide +kernel) (by decide +kernel) (.start _), by decide +kernel,
    .one _ _ _ _ (by decide +kernel) (by decide +kernel) (.start _), by decide +kernel,
    .one _ _ _ _ (by decide +kernel) (by decide +kernel) (.two _ _ _ _ _ (by decide +kernel) (by decide +kernel) (.start _))⟩

/-- Words of PBOOL with each operation and a reserved one, and of SWZ and SHFL at the ends of their fields. -/
theorem test_meets_words : (0x21000000 : Word).toNat / 2 ^ 22 = 0x84 ∧ (0x2103CFFE : Word).toNat / 2 ^ 15 % 8 = 7 ∧ (0x90018201 : Word).toNat / 2 ^ 22 = 0x240 ∧
    (0x9001821F : Word).toNat % 256 < 32 ∧ ¬ (0x90018220 : Word).toNat % 256 < 32 ∧ (0x90400000 : Word).toNat / 2 ^ 22 = 0x241 := by decide +kernel

/-- Runs at the ends of a block of memory. -/
theorem test_meets_home : 1 ≤ 4 ∧ 0x20007C % 128 + 4 ≤ 128 ∧ 1 ≤ 128 ∧ 0x200000 % 128 + 128 ≤ 128 := by decide

/-- The invariant holds after reset and in a state that a step leaves. -/
theorem test_meets_invariant : State.reset.memOk = true ∧ State.reset.regsOk = true ∧ nextIs (step (mapped (placed .nop))) (fun t => t.memOk && t.regsOk) = true := by
  decide +kernel

/-- A packet within its limits. -/
theorem test_meets_packet_words : pktHdr (.launchPkt hdr3 (body 0x400 1)) = some hdr3 ∧ packetOk (.launchPkt hdr3 (body 0x400 1)) = true ∧
    packetOk (.waitTimelinePkt hdr3 255 0xFFFFFFFFFFFFFFFF) = true := by decide +kernel

end Sys2Proof.Tests
end

section
/-! PROOFS. The statements of the family 00_scope: O12 (refuted), O54 and O56, with the lemmas about masks, fault records and the delivery of
faults that they rest on. -/

namespace Sys2Proof.Proofs

open Sys2Proof Sys2Proof.Machine Sys2Proof.Claims Sys2Proof.Laws

/-! Tables, lanes and masks. -/

/-- A record looked up in a table of which every record was changed. -/
theorem find_map {α β : Type} (t : Tbl α) (g : Nat → α → β) (k : Nat) :
    Tbl.find (t.map (fun e => (e.1, g e.1 e.2))) k = (Tbl.find t k).map (g k) := by
  induction t with
  | nil => rfl
  | cons e t ih =>
    obtain ⟨n, x⟩ := e
    by_cases h : k = n
    · simp [Tbl.find, h]
    · simpa [Tbl.find, h] using ih

theorem mem_lanesOf {m : Mask} {l : Nat} : l ∈ lanesOf m ↔ m.getLsbD l = true := by
  simp only [lanesOf, List.mem_filter, List.mem_range, and_iff_right_iff_imp]
  exact BitVec.lt_of_getLsbD

theorem getLsbD_maskOf (ls : List Nat) (l : Nat) : (maskOf ls).getLsbD l = (decide (l < 32) && decide (l ∈ ls)) := by
  have h : ∀ m : Mask, (ls.foldl (fun m k => m ||| BitVec.twoPow 32 k) m).getLsbD l =
      (m.getLsbD l || (decide (l < 32) && decide (l ∈ ls))) := by
    induction ls with
    | nil => simp
    | cons k ls ih =>
      intro m
      rw [List.foldl_cons, ih, BitVec.getLsbD_or, BitVec.getLsbD_twoPow]
      grind
  simpa [maskOf] using h 0

theorem maskOf_lanesOf (m : Mask) : maskOf (lanesOf m) = m := by
  ext l hl
  rw [← BitVec.getLsbD_eq_getElem, getLsbD_maskOf]
  simp [mem_lanesOf, hl, BitVec.getLsbD_eq_getElem]

/-- The mask of lanes that all stand in another mask. -/
theorem maskOf_and {ls : List Nat} {m : Mask} (h : ∀ l ∈ ls, m.getLsbD l = true) : maskOf ls &&& m = maskOf ls := by
  ext l hl
  simp only [← BitVec.getLsbD_eq_getElem, BitVec.getLsbD_and, getLsbD_maskOf]
  by_cases hm : l ∈ ls <;> simp [hm, h]

theorem maskOf_ne_zero {ls : List Nat} {m : Mask} (hne : ls ≠ []) (h : ∀ l ∈ ls, m.getLsbD l = true) : maskOf ls ≠ 0 := by
  obtain ⟨l, ls, rfl⟩ := List.exists_cons_of_ne_nil hne
  intro hz
  have hl := getLsbD_maskOf (l :: ls) l
  have hlt := BitVec.lt_of_getLsbD (h l (List.mem_cons_self ..))
  rw [hz] at hl
  simp [hlt] at hl

/-! The flight of an instruction that issues. -/

/-- Beginning an instruction changes the slot that it issues from, the regions and what is pending. -/
theorem issued_eq (f : Flight) (b : Bool) (c : Clause) (i : Instr) : ∃ rs ps, f.issued b c i =
    { f.setSlot b { f.slot b with clause := some { c with guard := some (f.guardMask c) }, wait := .none, aged := 0, old := false } with
      regions := rs, pending := ps } := by
  unfold Flight.issued Flight.retag Flight.begun Flight.fixed
  cases b <;> (repeat' split) <;> exact ⟨_, _, rfl⟩

theorem issued_slot (f : Flight) (b : Bool) (c : Clause) (i : Instr) : (f.issued b c i).slot b =
    { f.slot b with clause := some { c with guard := some (f.guardMask c) }, wait := .none, aged := 0, old := false } := by
  obtain ⟨rs, ps, h⟩ := issued_eq f b c i
  rw [h]
  exact slot_setSlot f b _

theorem issued_kind (f : Flight) (b : Bool) (c : Clause) (i : Instr) : (f.issued b c i).kind = f.kind := by
  obtain ⟨rs, ps, h⟩ := issued_eq f b c i
  rw [h]
  exact setSlot_kind f b _

theorem issued_launch (f : Flight) (b : Bool) (c : Clause) (i : Instr) : (f.issued b c i).launch = f.launch := by
  obtain ⟨rs, ps, h⟩ := issued_eq f b c i
  rw [h]
  exact setSlot_launch f b _

theorem retag_inRegion (f : Flight) (i : Instr) (m : Mask) (l : Nat) : (f.retag i m).inRegion l = f.inRegion l := by
  unfold Flight.retag
  split
  · rfl
  · have hg : (f.regions.map fun e => if m.getLsbD e.1 then (e.1, e.2.after f i e.1) else e) =
        f.regions.map (fun e => (e.1, if m.getLsbD e.1 then e.2.after f i e.1 else e.2)) :=
      List.map_congr_left fun e _ => by split <;> rfl
    simp only [Flight.inRegion, hg, find_map f.regions (fun n x => if m.getLsbD n then x.after f i n else x), Option.isSome_map]

/-- Beginning an instruction opens and closes no region. -/
theorem issued_inRegion (f : Flight) (b : Bool) (c : Clause) (i : Instr) (l : Nat) : (f.issued b c i).inRegion l = f.inRegion l := by
  have hfixed : ∀ g : Flight, (g.fixed b i).inRegion l = g.inRegion l := fun g => by unfold Flight.fixed; split <;> rfl
  have hbegun : (f.begun b c).inRegion l = f.inRegion l := by
    unfold Flight.begun Flight.inRegion
    split <;> simp [Flight.tick]
  rw [Flight.issued, hfixed, retag_inRegion, hbegun]

theorem ready_free {s : State} {key : Nat} {f : Flight} {b : Bool} {i : Instr} (h : s.ready key f b i = true) :
    (f.slot b).trapped = 0 := by
  simp only [State.ready, State.slotClear, Bool.and_eq_true, decide_eq_true_eq] at h
  simp [h]

theorem acting_mask {f : Flight} {b : Bool} {c : Clause} {l : Nat} (h : (f.acting b c).getLsbD l = true) :
    (f.slot b).mask.getLsbD l = true := by
  unfold Flight.acting at h
  split at h <;> simp only [BitVec.getLsbD_and, Bool.and_eq_true] at h
  · exact h.2
  · exact h.1

theorem issued_regions {f : Flight} {b : Bool} {c : Clause} {i : Instr} (h : f.regions = []) : (f.issued b c i).regions = [] := by
  have hbegun : (f.begun b c).regions = [] := by
    unfold Flight.begun
    split <;> simp [Flight.tick, h]
  unfold Flight.issued Flight.retag Flight.fixed
  rw [if_pos hbegun]
  split <;> exact hbegun

theorem inRegion_of_none {g : Flight} (h : g.regions = []) (l : Nat) : g.inRegion l = false := by simp [Flight.inRegion, h, Tbl.find]

theorem regionLanes_of_none {g : Flight} (h : g.regions = []) (m : Mask) : regionLanes g m = [] := by
  simp [regionLanes, h, Tbl.find]

theorem plainMask_of_none {g : Flight} (h : g.regions = []) (m : Mask) : plainMask g m = m := by
  have hall : (lanesOf m).filter (fun l => !g.inRegion l) = lanesOf m :=
    List.filter_eq_self.mpr fun l _ => by rw [inRegion_of_none h, Bool.not_false]
  rw [plainMask, hall, maskOf_lanesOf]

theorem issued_g (f : Flight) (b : Bool) (c : Clause) (i : Instr) (l : Nat) (r : Reg) : (f.issued b c i).g l r = f.g l r := by
  rw [Flight.g, issued_gpr]
  rfl

/-- An instruction that stays pending changes what is pending alone. -/
theorem addPending_eq (f : Flight) (b : Bool) (i : Instr) (pc : Word) (m : Mask) (done : Bool) (act : PendAct) :
    ∃ ps, f.addPending b i pc m done act = { f with pending := ps, nextSeq := f.nextSeq + 1 } := by
  unfold Flight.addPending
  dsimp only
  split <;> exact ⟨_, rfl⟩

theorem modFlight_of_flight {s : State} {key : Nat} {f : Flight} (g : Flight → Flight) (h : s.flight key = some f) :
    s.modFlight key g = s.putFlight key (g f) := by
  have hf : Tbl.find s.flights key = some f := h
  simp only [State.modFlight, Tbl.modify, hf, State.putFlight]

/-! Words in memory. -/

theorem length_bytesOf (n v : Nat) : (bytesOf n v).length = n := by
  induction n generalizing v with
  | zero => rfl
  | succ n ih => simp [bytesOf, ih]

/-- Bytes outside a value written are as before. -/
theorem get_putValue_outside (c : Cells 8) (a n v : Nat) {b : Nat} (h : b < a ∨ a + n ≤ b) :
    Cells.get (putValue c a n v) b = Cells.get c b := by
  rw [putValue, get_setList, length_bytesOf, if_neg (by omega)]

theorem get_putWords_outside (c : Cells 8) (a : Nat) (ws : List Word) {b : Nat} (h : b < a ∨ a + 4 * ws.length ≤ b) :
    Cells.get (putWords c a ws) b = Cells.get c b := by
  induction ws generalizing c a with
  | nil => rfl
  | cons w ws ih =>
    rw [List.length_cons] at h
    rw [putWords, ih _ _ (by omega), get_putValue_outside _ _ _ _ (by omega)]

theorem leValue_congr {c d : Cells 8} {a n : Nat} (h : ∀ b, a ≤ b → b < a + n → Cells.get c b = Cells.get d b) :
    leValue c a n = leValue d a n := by
  induction n generalizing a with
  | zero => rfl
  | succ n ih => rw [leValue, leValue, h a (by omega) (by omega), ih fun b _ _ => h b (by omega) (by omega)]

/-- A value is read back as it was written, as far as its bytes go. -/
theorem leValue_putValue (c : Cells 8) (a n v : Nat) : leValue (putValue c a n v) a n = v % 256 ^ n := by
  induction n generalizing c a v with
  | zero => simp [leValue, Nat.mod_one]
  | succ n ih =>
    have hhead : Cells.get (putValue c a (n + 1) v) a = BitVec.ofNat 8 v := by
      simp [putValue, get_setList, bytesOf]
    have htail : leValue (putValue c a (n + 1) v) (a + 1) n = v / 256 % 256 ^ n := ih (Cells.set c a (BitVec.ofNat 8 v)) (a + 1) (v / 256)
    have hsplit : v % 256 ^ (n + 1) = v % 256 + 256 * (v / 256 % 256 ^ n) := by rw [Nat.pow_succ', Nat.mod_mul]
    rw [leValue, hhead, htail, BitVec.toNat_ofNat, hsplit]

theorem wordAt_putValue (c : Cells 8) (a : Nat) (w : Word) : wordAt (putValue c a 4 w.toNat) a = w := by
  rw [wordAt, leValue_putValue, Nat.mod_eq_of_lt (show w.toNat < 256 ^ 4 from w.isLt), BitVec.ofNat_toNat, BitVec.setWidth_eq]

/-- Words are read back as they were written. -/
theorem wordsAt_putWords (c : Cells 8) (a : Nat) (ws : List Word) : wordsAt (putWords c a ws) a ws.length = ws := by
  induction ws generalizing c a with
  | nil => rfl
  | cons w ws ih =>
    have hhead : wordAt (putWords (putValue c a 4 w.toNat) (a + 4) ws) a = w := by
      rw [wordAt, leValue_congr fun b _ _ => get_putWords_outside _ _ _ (by omega), ← wordAt, wordAt_putValue]
    rw [List.length_cons, wordsAt, putWords, hhead, ih]

/-! Fault records (R303). -/

/-- A number below a bound is met once on the way there. -/
theorem flatMap_range_single {α : Type} (x : α) (n N : Nat) :
    (List.range N).flatMap (fun l => if n = l then [x] else []) = if n < N then [x] else [] := by
  induction N with
  | zero => rw [if_neg (Nat.not_lt_zero n), List.range_zero, List.flatMap_nil]
  | succ N ih =>
    rw [List.range_succ, List.flatMap_append, ih, List.flatMap_singleton]
    rcases Nat.lt_trichotomy n N with hlt | heq | hgt
    · rw [if_pos hlt, if_neg (Nat.ne_of_lt hlt), if_pos (Nat.lt_succ_of_lt hlt), List.append_nil]
    · rw [if_neg (by omega), if_pos heq, if_pos (by omega), List.nil_append]
    · rw [if_neg (by omega), if_neg (by omega), if_neg (by omega), List.append_nil]

/-- One fault makes one record. -/
theorem records_one (s : State) (key : Nat) (f : Flight) (b : Bool) (ctx : Nat) (pc : Word) {x : LaneFault} (h : x.lane < 32) :
    s.records key f b ctx pc [x] = s.ringWrite (some f.order) b (laneRecord s key f b ctx pc x) := by
  have hfilter : ∀ l, [x].filter (fun y => decide (y.lane = l)) = if x.lane = l then [x] else [] := by
    intro l
    by_cases hl : x.lane = l
    · rw [if_pos hl]
      exact List.filter_eq_self.mpr fun y hy => decide_eq_true ((congrArg (·.lane) (List.mem_singleton.mp hy)).trans hl)
    · rw [if_neg hl]
      exact List.filter_eq_nil_iff.mpr fun y hy hd => hl ((congrArg (·.lane) (List.mem_singleton.mp hy)).symm.trans (of_decide_eq_true hd))
  have hone : (List.range 32).flatMap (fun l => [x].filter (fun y => decide (y.lane = l))) = [x] := by
    rw [funext hfilter, flatMap_range_single, if_pos h]
  rw [State.records, hone]
  rfl

/-- A flag in its place of a word. -/
theorem toNat_mul (b : Bool) (n : Nat) : b.toNat * n = if b then n else 0 := by cases b <;> simp

/-- The sixteen words of a lane's record, as the table of R303 gives them. -/
theorem laneRecord_eq (s : State) (key : Nat) (f : Flight) (b : Bool) (ctx : Nat) (pc : Word) (x : LaneFault) :
    laneRecord s key f b ctx pc x =
      [BitVec.ofNat 32 (x.code.num + (if x.mal then 512 else 0) + (if x.w then 1024 else 0) + ctx * 2 ^ 24), f.launch,
       BitVec.ofNat 32 (key / 64 + key % 64 * 2 ^ 8 + x.lane * 2 ^ 16 + (if b then 2 ^ 21 else 0)), pc,
       BitVec.ofNat 32 x.va, BitVec.ofNat 32 (x.va / 2 ^ 32 % 2 ^ 16), Cells.get f.own x.lane, Cells.get f.iter x.lane,
       BitVec.ofNat 32 x.handle, BitVec.ofNat 32 x.n, BitVec.ofNat 32 s.time, BitVec.ofNat 32 (s.time / 2 ^ 32), 0, 0, 0, 0] := by
  simp [laneRecord, whoWord, toNat_mul]

theorem ringPut_inside {s : State} (ws : List Word) (h : s.ringAt + 64 ≤ Config.deviceBytes) : s.ringPut ws =
    { s with mem := putWords s.mem s.ringAt (ws.take 10 ++ [BitVec.ofNat 32 s.time, BitVec.ofNat 32 (s.time / 2 ^ 32)] ++ ws.drop 12),
             frTail := s.frTail + 1 } := by
  simp [State.ringPut, State.inside, h]

/-- The record of a fault while the ring has room. -/
theorem records_of_room (s : State) (key : Nat) (b : Bool) (f : Flight) (ctx : Nat) (pc : Word) {x : LaneFault} (hlane : x.lane < 32)
    (hroom : s.ringRoom ≠ 0) (hin : s.ringAt + 64 ≤ Config.deviceBytes) : s.records key f b ctx pc [x] =
      { s with mem := putWords s.mem s.ringAt (laneRecord s key f b ctx pc x), frTail := s.frTail + 1 } := by
  rw [records_one s key f b ctx pc hlane, State.ringWrite, if_neg hroom, ringPut_inside _ hin]
  rfl

/-- The record of a fault while the ring is full: it waits. -/
theorem records_of_full (s : State) (key : Nat) (b : Bool) (f : Flight) (ctx : Nat) (pc : Word) {x : LaneFault} (hlane : x.lane < 32)
    (hfull : s.ringRoom = 0) : s.records key f b ctx pc [x] =
      { s with ringQueue := s.ringQueue ++ [{ order := some f.order, slotB := b, words := laneRecord s key f b ctx pc x }] } := by
  rw [records_one s key f b ctx pc hlane, State.ringWrite, if_pos hfull]

theorem laneRecord_length (s : State) (key : Nat) (f : Flight) (b : Bool) (ctx : Nat) (pc : Word) (x : LaneFault) :
    (laneRecord s key f b ctx pc x).length = 16 := rfl

/-- What a record changes, and its words as they are read back. -/
theorem record_written {s : State} {key : Nat} {b : Bool} {f : Flight} {ctx : Nat} {pc : Word} {x : LaneFault} (hlane : x.lane < 32)
    (hroom : s.ringRoom ≠ 0) (hin : s.ringAt + 64 ≤ Config.deviceBytes) {t : State} (ht : s.records key f b ctx pc [x] = t) :
    t.ringQueue = s.ringQueue ∧ t.frTail = s.frTail + 1 ∧ t.flights = s.flights ∧ t.launches = s.launches ∧
      (∀ a, a < s.ringAt ∨ s.ringAt + 64 ≤ a → Cells.get t.mem a = Cells.get s.mem a) ∧
      wordsAt t.mem s.ringAt 16 = laneRecord s key f b ctx pc x := by
  rw [records_of_room s key b f ctx pc hlane hroom hin] at ht
  subst ht
  dsimp only
  exact ⟨rfl, rfl, rfl, rfl, fun a ha => get_putWords_outside _ _ (laneRecord s key f b ctx pc x) ha, wordsAt_putWords ..⟩

/-- A record changes no flight. -/
theorem ringWrite_flights (s : State) (o : Option Nat) (b : Bool) (ws : List Word) : (s.ringWrite o b ws).flights = s.flights := by
  unfold State.ringWrite State.ringPut State.inside
  split
  · rfl
  · dsimp only; split <;> rfl

theorem records_flights (s : State) (key : Nat) (f : Flight) (b : Bool) (ctx : Nat) (pc : Word) (fs : List LaneFault) :
    (s.records key f b ctx pc fs).flights = s.flights :=
  foldl_keeps State.flights _ (fun _ _ => ringWrite_flights ..) _ _

/-! Delivery. -/

/-- Faults of lanes without a region are recorded and delivered, and nothing else is done. -/
theorem finish_faults (s0 : State) {s : State} {p : Place} {i : Instr} {extra : Mask} {fs : List LaneFault} {f : Flight}
    (hf : s.flight p.key = some f) (hin : ∀ x ∈ fs, f.inRegion x.lane = false) (hne : fs ≠ []) (hroom : s.ringRoom ≠ 0) :
    finish s0 s p i extra fs [] = ((s.records p.key f p.slotB p.la.ctx0 p.pc fs).putFlight p.key f).deliver p.key p.slotB p.la p.pc
      false false i.words extra fs := by
  have hout : fs.filter (fun x => f.inRegion x.lane && decide (x.code ≠ .ecc)) = [] :=
    List.filter_eq_nil_iff.mpr fun x hx => by simp [hin x hx]
  have hall : fs.filter (fun x => !(f.inRegion x.lane && decide (x.code ≠ .ecc))) = fs :=
    List.filter_eq_self.mpr fun x hx => by simp [hin x hx]
  simp only [finish, hf, hout, hall, hroom]
  simp [hne]

theorem lowestCode_of_pages {fs : List LaneFault} (h : ∀ x ∈ fs, x.code = .page) : lowestCode fs = none := by
  have hnone : fs.filter (fun x => decide (x.code ≠ .page)) = [] := List.filter_eq_nil_iff.mpr fun x hx => by simp [h x hx]
  rw [lowestCode, hnone]
  rfl

/-- One code in every lane is the lowest one. -/
theorem lowestCode_of_same {fs : List LaneFault} {c : FCode} (hne : fs ≠ []) (h : ∀ x ∈ fs, x.code = c) (hc : c ≠ .page) :
    lowestCode fs = some c := by
  have hall : fs.filter (fun x => decide (x.code ≠ .page)) = fs := List.filter_eq_self.mpr fun x hx => by simp [h x hx, hc]
  obtain ⟨x, xs, rfl⟩ := List.exists_cons_of_ne_nil hne
  rw [lowestCode, hall, List.foldl_cons]
  refine List.foldlRecOn (motive := fun m => m = some c) xs _ (by simp [h x]) fun m hm y hy => ?_
  simp [hm, h y (List.mem_cons_of_mem _ hy)]

/-- The trap of an instruction whose lanes m fault, c being their lowest code (R344). -/
def userTrap (key : Nat) (b : Bool) (pc : Word) (count : Nat) (m : Mask) (fs : List LaneFault) (c : FCode) : TrapInfo :=
  { code := c.num, n := BitVec.ofNat 8 ((((fs.filter (fun y => decide (y.code = c))).head?).map (·.n)).getD 0), pc := pc, mask := m,
    who := whoWord key b (lowLane m), va := (((fs.filter (fun y => decide (y.lane = lowLane m))).head?).map (·.va)).getD 0,
    flight := key, slotB := b, decode := false, hdrBad := false, count := count, late := none }

/-- The faults of an instruction meet a slot in which every lane of theirs stands, and none of it traps already. -/
structure Meets (s : State) (key : Nat) (b : Bool) (f : Flight) (fs : List LaneFault) : Prop where
  flight : s.flight key = some f
  faults : fs ≠ []
  lanes  : ∀ x ∈ fs, (f.slot b).mask.getLsbD x.lane = true
  free   : (f.slot b).trapped = 0

section

variable {s : State} {key : Nat} {b : Bool} {f : Flight} {fs : List LaneFault} (h : Meets s key b f fs)

include h

theorem Meets.faulting : (maskOf (fs.map (·.lane)) ||| 0) &&& (f.slot b).mask &&& ~~~(f.slot b).trapped = maskOf (fs.map (·.lane)) := by
  have hm : maskOf (fs.map (·.lane)) &&& (f.slot b).mask = maskOf (fs.map (·.lane)) := maskOf_and (by simpa using h.lanes)
  have hone : ~~~(0 : Mask) = BitVec.allOnes 32 := rfl
  rw [h.free, show maskOf (fs.map (·.lane)) ||| 0 = _ from BitVec.or_zero, hm, hone, BitVec.and_allOnes]

theorem Meets.faulting_ne_zero : maskOf (fs.map (·.lane)) ≠ 0 :=
  maskOf_ne_zero (by simpa using h.faults) (by simpa using h.lanes)

/-- Page faults alone park their lanes (R343). -/
theorem Meets.deliver_park (la : Launch) (pc : Word) (count : Nat) (hpage : ∀ x ∈ fs, x.code = .page) :
    s.deliver key b la pc false false count 0 fs =
      s.putFlight key (f.setSlot b { f.slot b with park := maskOf (fs.map (·.lane)), parkSeq := s.ringEnd, replay := none }) := by
  have hf : Tbl.find s.flights key = some f := h.flight
  simp only [State.deliver, hf, lowestCode_of_pages hpage, h.faulting, h.faulting_ne_zero, if_false]

/-- A user trap stops the slot with its lanes, and is held for the handler role (R344). -/
theorem Meets.deliver_trap {la : Launch} {c : FCode} (pc : Word) (count : Nat) (hlow : lowestCode fs = some c) (hc : c ≠ .ecc)
    (hkind : f.kind ≠ .handler) (htakes : la.takesTraps = true) :
    s.deliver key b la pc false false count 0 fs =
      (s.putFlight key (f.setSlot b { f.slot b with trapped := maskOf (fs.map (·.lane)), replay := none })).modWg f.launch (keyCore key)
        (fun w => { w with held := w.held ++ [.trap (userTrap key b pc count (maskOf (fs.map (·.lane))) fs c)] }) := by
  have hf : Tbl.find s.flights key = some f := h.flight
  simp only [State.deliver, hf, hlow, h.faulting, h.faulting_ne_zero, if_false, hc, hkind, htakes, false_or, Bool.true_eq_false]
  simp [h.free, userTrap]

/-- Without a handler role that takes user traps, the gang ends (R6). -/
theorem Meets.deliver_end {la : Launch} {c : FCode} (pc : Word) (count : Nat) (hlow : lowestCode fs = some c)
    (htakes : la.takesTraps = false) :
    s.deliver key b la pc false false count 0 fs = s.endGang f.launch (((la.wgAt (keyCore key)).map (·.gang)).getD 0) c := by
  have hf : Tbl.find s.flights key = some f := h.flight
  simp only [State.deliver, hf, hlow, htakes, or_true, if_true]

end

/-- The state in which the faults of an instruction are delivered: their records are made, and its flight g is listed. -/
def recorded (s : State) (key : Nat) (b : Bool) (g : Flight) (la : Launch) (pc : Word) (fs : List LaneFault) : State :=
  (s.records key g b la.ctx0 pc fs).putFlight key g

/-- Faults of acting lanes without a region: the records are made, and the faults are delivered to the slot. -/
theorem issue_faults {s : State} {i : Instr} {key : Nat} {b : Bool} {f : Flight} {la : Launch} {c : Clause} (h : Issues s i key b f la c)
    (body : Place → State → Body) {s2 : State} {g : Flight} {fs : List LaneFault}
    (hb : body (placeOf key b f la c) (s.begun key b f c i) = .done s2 fs []) (hg : s2.flight key = some g)
    (hslot : g.slot b = (f.issued b c i).slot b) (hin : ∀ x ∈ fs, g.inRegion x.lane = false) (hne : fs ≠ [])
    (hlane : ∀ x ∈ fs, x.lane ∈ lanesOf (f.acting b c)) (hroom : s2.ringRoom ≠ 0) :
    issue i s body = endStep ((recorded s2 key b g la (f.slot b).pc fs).deliver key b la (f.slot b).pc false false i.words 0 fs) ∧
      Meets (recorded s2 key b g la (f.slot b).pc fs) key b g fs := by
  constructor
  · rw [issue_eq h, hb]
    show endStep (finish s s2 (placeOf key b f la c) i 0 fs []) = _
    rw [finish_faults s (p := placeOf key b f la c) hg hin hne hroom]
    rfl
  · rw [issued_slot] at hslot
    refine ⟨putFlight_flight .., hne, fun x hx => ?_, ?_⟩
    · rw [hslot]
      exact acting_mask (mem_lanesOf.mp (hlane x hx))
    · rw [hslot]
      exact ready_free h.ready

/-- Records of a state that lists a flight leave the flight listed, in its place. -/
theorem recorded_putFlight (s : State) (key : Nat) (b : Bool) (g : Flight) (la : Launch) (pc : Word) (fs : List LaneFault) :
    recorded (s.putFlight key g) key b g la pc fs = (s.putFlight key g).records key g b la.ctx0 pc fs := by
  have hf : Tbl.put ((s.putFlight key g).records key g b la.ctx0 pc fs).flights key g =
      ((s.putFlight key g).records key g b la.ctx0 pc fs).flights := by
    rw [records_flights]
    exact put_put ..
  rw [recorded, State.putFlight, hf]

/-! One code raised in every lane of a mask. -/

/-- The faults of the lanes of a mask with one code, and the n of TRAP and BRK (R90). -/
def raised (code : FCode) (n : Nat) (m : Mask) : List LaneFault := (lanesOf m).map (fun l => { plainFault code l with n := n })

theorem faultAll_map (code : FCode) (n : Nat) (m : Mask) : (faultAll code m).map (fun x => { x with n := n }) = raised code n m := by
  rw [faultAll, List.map_map]
  rfl

section

variable {code : FCode} {n : Nat} {m : Mask}

theorem raised_code : ∀ x ∈ raised code n m, x.code = code := by simp [raised, plainFault]

theorem raised_lanes : (raised code n m).map (·.lane) = lanesOf m := by simp [raised, plainFault, Function.comp_def]

theorem raised_lane : ∀ x ∈ raised code n m, x.lane ∈ lanesOf m := by simp +contextual [raised, plainFault]

theorem lanesOf_ne_nil (h : m ≠ 0) : lanesOf m ≠ [] := by
  intro hnil
  exact h (by rw [← maskOf_lanesOf m, hnil, maskOf_nil])

theorem raised_ne_nil (h : m ≠ 0) : raised code n m ≠ [] := by simpa [raised] using lanesOf_ne_nil h

/-- The trap of one code raised in every lane of a mask. -/
theorem userTrap_raised (h : m ≠ 0) (key : Nat) (b : Bool) (pc : Word) (count : Nat) :
    userTrap key b pc count m (raised code n m) code =
      { code := code.num, n := BitVec.ofNat 8 n, pc := pc, mask := m, who := whoWord key b (lowLane m), va := 0, flight := key, slotB := b,
        decode := false, hdrBad := false, count := count, late := none } := by
  obtain ⟨l, ls, hl⟩ := List.exists_cons_of_ne_nil (lanesOf_ne_nil h)
  simp [userTrap, raised, lowLane, hl, plainFault]

variable {s : State} {key : Nat} {b : Bool} {g : Flight} {la : Launch} {pc : Word}

/-- A code raised in every lane of a mask is taken as a user trap (R344). -/
theorem Meets.deliver_raised (h : Meets (recorded s key b g la pc (raised code n m)) key b g (raised code n m)) (words : Nat)
    (hpage : code ≠ .page) (hecc : code ≠ .ecc) (hm : m ≠ 0) (hkind : g.kind ≠ .handler) (htakes : la.takesTraps = true) :
    (recorded s key b g la pc (raised code n m)).deliver key b la pc false false words 0 (raised code n m) =
      trapTaken s key b g la pc words m (raised code n m) { plainFault code 0 with n := n } := by
  have hlow := lowestCode_of_same (raised_ne_nil hm) (raised_code (n := n) (m := m)) hpage
  rw [h.deliver_trap _ _ hlow hecc hkind htakes, raised_lanes, maskOf_lanesOf, userTrap_raised hm, recorded, putFlight_putFlight]
  rfl

end

/-! TRAP and BRK. -/

section

variable {s : State} {i : Instr} {key : Nat} {b : Bool} {f : Flight} {la : Launch} {c : Clause} {code : FCode} {n : Nat}

/-- An instruction that raises one code in its acting lanes: the faults are recorded and delivered. -/
theorem issue_raises (h : Issues s i key b f la c) (hin : ∀ l ∈ lanesOf (f.acting b c), f.inRegion l = false) (hroom : s.ringRoom ≠ 0) :
    issue i s (fun p s => .done s ((faultAll code p.act).map (fun x => { x with n := n })) []) =
      endStep ((recorded (s.putFlight key (f.issued b c i)) key b (f.issued b c i) la (f.slot b).pc (raised code n (f.acting b c))).deliver
        key b la (f.slot b).pc false false i.words 0 (raised code n (f.acting b c))) ∧
      Meets (recorded (s.putFlight key (f.issued b c i)) key b (f.issued b c i) la (f.slot b).pc (raised code n (f.acting b c))) key b
        (f.issued b c i) (raised code n (f.acting b c)) :=
  issue_faults h _ (congrArg (Body.done _ · []) (faultAll_map ..)) (putFlight_flight ..) rfl
    (fun x hx => (issued_inRegion ..).trans (hin _ (raised_lane x hx))) (raised_ne_nil h.acts) raised_lane hroom

/-- Such an instruction is taken as an exception: with a handler role that takes user traps, its trap is held for that, and without one
the gang ends. -/
theorem raise_taken (h : Issues s i key b f la c) (hin : ∀ l ∈ lanesOf (f.acting b c), f.inRegion l = false) (hroom : s.ringRoom ≠ 0)
    (hexec : exec i s = issue i s (fun p s => .done s ((faultAll code p.act).map (fun x => { x with n := n })) []))
    (hpage : code ≠ .page) (hecc : code ≠ .ecc) {g : Flight} (hg : f.issued b c i = g) :
    (f.kind ≠ .handler → la.takesTraps = true → ∀ t,
      trapTaken (s.putFlight key g) key b g la (f.slot b).pc i.words (f.acting b c) (raised code n (f.acting b c))
        { plainFault code 0 with n := n } = t → t.hole = false → exec i s = .next t) ∧
    (la.takesTraps = false → ∀ t,
      ((s.putFlight key g).records key g b la.ctx0 (f.slot b).pc (raised code n (f.acting b c))).endGang
        f.launch (((la.wgAt (keyCore key)).map (·.gang)).getD 0) code = t → t.hole = false → exec i s = .next t) := by
  subst hg
  obtain ⟨hissue, hmeets⟩ := issue_raises (code := code) (n := n) h hin hroom
  have hlow := lowestCode_of_same (raised_ne_nil h.acts) (raised_code (n := n) (m := f.acting b c)) hpage
  refine ⟨fun hkind htakes t ht hsolid => ?_, fun htakes t ht hsolid => ?_⟩
  · rw [hexec, hissue, hmeets.deliver_raised _ hpage hecc h.acts (by rwa [issued_kind]) htakes, ht, endStep_ok hsolid]
  · rw [hexec, hissue, hmeets.deliver_end _ _ hlow htakes, recorded_putFlight, issued_launch, ht, endStep_ok hsolid]

end

/-- TRAP and BRK are taken as R90 and R344 say: this half of O12 holds. -/
theorem trap_taken : Claims.trap_taken := by
  intro n isTrap i s key b f la c h m g fs hin hroom
  cases isTrap
  · obtain ⟨htrap, hend⟩ := raise_taken (code := .brk) (n := n.toNat) h hin hroom rfl (by decide) (by decide) rfl
    exact ⟨fun hkind htakes => htrap hkind htakes _ rfl, fun htakes => hend htakes _ rfl⟩
  · obtain ⟨htrap, hend⟩ := raise_taken (code := .trap) (n := n.toNat) h hin hroom rfl (by decide) (by decide) rfl
    exact ⟨fun hkind htakes => htrap hkind htakes _ rfl, fun htakes => hend htakes _ rfl⟩

/-! Privilege. -/

/-- The instructions of a level that some flights do not have (R53, R347). -/
theorem privileged_cases {i : Instr} {k : FlightKind} (h : i.allowed k = false) :
    (∃ d c, i = .csrr d c) ∨ (∃ a c, i = .csrw a c) ∨ (∃ a, i = .halt a) ∨ (∃ a, i = .eret a) ∨ (∃ d a b, i = .tlbi d a b) ∨
      (∃ a, i = .faultack a) := by
  unfold Instr.allowed at h
  split at h <;> simp_all

/-- They issue like any other, from a flight that serves no trap. -/
theorem exec_privileged {s : State} {i : Instr} {k : FlightKind} (hlevel : i.allowed k = false)
    (htrap : (s.flight s.cur.flight).bind (fun f => f.trap) = none) : ∃ body, exec i s = issue i s body := by
  rcases privileged_cases hlevel with ⟨d, c, rfl⟩ | ⟨a, c, rfl⟩ | ⟨a, rfl⟩ | ⟨a, rfl⟩ | ⟨d, a, b, rfl⟩ | ⟨a, rfl⟩
  · exact ⟨_, show execCsrr d c s = _ from rfl⟩
  · exact ⟨_, show execCsrw a c s = _ from rfl⟩
  · exact ⟨_, show execHalt a s = _ from rfl⟩
  · show ∃ body, execEret a s = issue (.eret a) s body
    rw [execEret, htrap]
    generalize hout : issue (.eret a) s _ = out
    refine ⟨_, Eq.trans ?_ hout.symm⟩
    cases out <;> rfl
  · exact ⟨_, show execTlbi d a b s = _ from rfl⟩
  · exact ⟨_, show execFaultack a s = _ from rfl⟩

/-- When an instruction of a level that its flight does not have is about to issue: the hypotheses of issue in Claims.privilege. -/
structure LacksLevel (s : State) (i : Instr) (key : Nat) (b : Bool) (f : Flight) (la : Launch) (c : Clause) : Prop where
  cur    : s.cur = { flight := key, slotB := b }
  flight : s.flight key = some f
  launch : Tbl.find s.launches f.launch.toNat = some la
  clause : (f.slot b).clause = some c
  ready  : s.ready key f b i = true
  regs   : ∀ r ∈ i.use.gr ++ i.use.gw, r < f.allot
  level  : i.allowed f.kind = false

section

variable {s : State} {i : Instr} {key : Nat} {b : Bool} {f : Flight} {la : Launch} {c : Clause} (h : LacksLevel s i key b f la c)

include h

/-- Such an instruction raises PRIV in every live lane, before any effect (R53, R56). -/
theorem LacksLevel.issue_eq (body : Place → State → Body) : issue i s body =
    endStep (finish s s { key := key, slotB := b, la := la, act := (f.slot b).mask, pc := (f.slot b).pc } i 0
      (raised .priv 0 (f.slot b).mask) []) := by
  have hok : ((i.use.gr ++ i.use.gw).any fun r => decide (f.allot ≤ r)) = false := by
    rw [List.any_eq_false]
    intro r hr
    simpa using h.regs r hr
  simp only [issue, h.cur, h.flight, h.launch, ready_live h.ready, h.ready, h.clause, hok, h.level, Bool.false_eq_true, Bool.true_eq_false,
    if_false, if_true]
  rfl

/-- From a flight that serves no trap it is taken as an exception: with this further hypothesis the other half of O12 holds. -/
theorem privilege_of_no_trap (htrap : f.trap = none) (hregions : f.regions = []) (hroom : s.ringRoom ≠ 0) (hkind : f.kind ≠ .handler)
    (htakes : la.takesTraps = true) {t : State}
    (ht : trapTaken s key b f la (f.slot b).pc i.words (f.slot b).mask (faultAll .priv (f.slot b).mask) (plainFault .priv 0) = t)
    (hsolid : t.hole = false) : exec i s = .next t := by
  obtain ⟨body, hexec⟩ := exec_privileged (s := s) h.level (by rw [h.cur, h.flight]; exact htrap)
  have hm : (f.slot b).mask ≠ 0 := by simpa [Slot.live] using ready_live h.ready
  have hne : raised .priv 0 (f.slot b).mask ≠ [] := raised_ne_nil hm
  have hmeets : Meets (recorded s key b f la (f.slot b).pc (raised .priv 0 (f.slot b).mask)) key b f (raised .priv 0 (f.slot b).mask) :=
    ⟨putFlight_flight .., hne, fun x hx => mem_lanesOf.mp (raised_lane x hx), ready_free h.ready⟩
  have hfinish := finish_faults s (p := { key := key, slotB := b, la := la, act := (f.slot b).mask, pc := (f.slot b).pc }) (i := i)
    (extra := 0) h.flight (fun _ _ => inRegion_of_none hregions _) hne hroom
  calc exec i s
    _ = endStep (trapTaken s key b f la (f.slot b).pc i.words (f.slot b).mask (faultAll .priv (f.slot b).mask) (plainFault .priv 0)) := by
      rw [hexec, h.issue_eq, hfinish]
      exact congrArg endStep (hmeets.deliver_raised _ (by decide) (by decide) hm hkind htakes)
    _ = .next t := by rw [ht, endStep_ok hsolid]

end

/-! The refutation of O12. -/

/-- A trap such as handler flights serve. -/
def servedTrap : TrapInfo :=
  { code := FCode.trap.num, n := 0, pc := 0, mask := 1, who := 0, va := 0, flight := 0, slotB := true, decode := false, hdrBad := false,
    count := 1, late := none }

/-- A launch whose one clause is an ERET, with a handler role that takes user traps. -/
def eretLaunch : Launch :=
  let la := oneLaunch (headerFor 4 1 :: encode (.eret 0))
  { la with roles := la.roles ++ [⟨0, 64, 1, 0, true, false, true, 16⟩] }

/-- A resident flight that serves a trap, which the rules leave to handler flights: slot A stands at the ERET, slot B waits in a barrier. -/
def eretFlight : Flight :=
  let f := newFlight eretLaunch .resident 0 ⟨0, 128, 1, 0, false, false, false, 65536⟩ 0 1
  { f with a := { f.a with pc := 4, clause := some { hdr := headerFor 4 1, base := 0, guard := none } },
           b := { f.b with mask := 2, wait := .barrier 0 0 }, trap := some servedTrap }

/-- The state in which the flight issues its ERET. No barrier stands, so that the phase that slot B waits for is over. -/
def eretState : State := { State.reset with flights := [(0, eretFlight)], launches := [(0, eretLaunch)] }

/-- What slot B of flight 0 waits for after a step. -/
def waitOfB : Outcome State → Option Wait
  | .next t => (t.flight 0).map (fun f => (f.slot true).wait)
  | _ => none

/-- The flight's ERET wakes slot B: what follows a handler's ERET follows it too, though it raised PRIV. -/
theorem exec_eret_wakes : waitOfB (exec (.eret 0) eretState) = some .none := by decide +kernel

/-- In that state the clause on privilege says that slot B waits on. -/
theorem not_privilege : ¬ Claims.privilege := by
  intro h
  have he := h eretState (.eret 0) 0 false eretFlight eretLaunch _ rfl rfl rfl rfl (by decide +kernel) (by decide +kernel)
    (by decide +kernel) rfl (by decide +kernel) (by decide +kernel) (by decide +kernel) (by decide +kernel)
  have hw := exec_eret_wakes
  rw [he] at hw
  exact absurd hw (by decide +kernel)

/-- Refutes O12: its clause on privilege leaves open whether the flight serves a trap. An ERET of a resident flight that does raises PRIV, and
what follows a handler's ERET is done all the same (`State.retireIf`), which here wakes the flight's other slot. The clause on TRAP and BRK
holds (`trap_taken`), and so does that on privilege for a flight that serves no trap (`privilege_of_no_trap`). -/
theorem not_trapsAndPrivilege : ¬ Obligations.traps_and_privilege := by
  unfold Obligations.traps_and_privilege
  rintro ⟨-, hprivilege⟩
  exact not_privilege hprivilege

/-! The checks of an access change no flight. -/

theorem translate_flights (s : State) (ctx va : Nat) : (s.translate ctx va).2.flights = s.flights := by
  unfold State.translate
  dsimp only
  split
  · rfl
  · split
    · rfl
    · dsimp only
      split
      · split <;> rfl
      · rfl

theorem place_flights (s : State) (pa : Nat) (pl : Word) (size : Nat) : (s.place pa pl size).flights = s.flights := by
  unfold State.place
  dsimp only
  split
  · rfl
  · split <;> rfl

theorem handle_flights (s : State) (core ctx idx : Nat) : (s.handle core ctx idx).2.flights = s.flights := by
  unfold State.handle State.descRead
  dsimp only
  split
  · rfl
  · split
    · rfl
    · split
      · rfl
      · split <;> rfl

theorem grant_flights (s : State) (core ctx idx lane : Nat) (h : Handle) (va n : Nat) (need : Need) (na : Bool) :
    (s.grant core ctx idx lane h va n need na).2.flights = s.flights := by
  unfold State.grant
  dsimp only
  split
  · rfl
  · split
    · rfl
    · split
      · rfl
      · split
        · split
          · rfl
          · split <;> split <;> rfl
        · have ht := translate_flights s ctx va
          split
          · next e => rw [e] at ht; exact ht
          · next e =>
            rw [e] at ht
            split
            · exact ht
            · split <;> split <;> exact (place_flights ..).trans ht

theorem check_flights (s : State) (core ctx idx lane : Nat) (hd : Option Handle) (o : Int) (n : Nat) (need : Need) (na : Bool) :
    (s.check core ctx idx lane hd o n need na).2.flights = s.flights := by
  unfold State.check
  split
  · rfl
  · exact grant_flights ..

/-- What a threaded function keeps at each element it keeps. -/
theorem thread_keeps {α β γ : Type} (v : State → γ) (g : α → State → β × State) (hg : ∀ x s, v (g x s).2 = v s) (xs : List α)
    (s : State) : v (thread g xs s).2 = v s := by
  induction xs generalizing s with
  | nil => rfl
  | cons x xs ih => exact (ih _).trans (hg x s)

theorem checks_flights (s : State) (core ctx idx : Nat) (hd : Option Handle) (n : Nat) (need : Need) (na : Bool) (offs : List (Nat × Int)) :
    (s.checks core ctx idx hd n need na offs).2.flights = s.flights :=
  thread_keeps State.flights _ (fun _ _ => by exact check_flights ..) offs s

/-- Every answer of the checks is for a lane that accesses memory. -/
theorem checks_lanes (s : State) (core ctx idx : Nat) (hd : Option Handle) (n : Nat) (need : Need) (na : Bool) (offs : List (Nat × Int)) :
    (s.checks core ctx idx hd n need na offs).1.map (·.1) = offs.map (·.1) := by
  unfold State.checks
  induction offs generalizing s with
  | nil => rfl
  | cons x offs ih => exact congrArg (x.1 :: ·) (ih _)

theorem denied_lane {rs : List (Nat × Except Deny LaneAddr)} {x : LaneFault} (h : x ∈ denied rs) : x.lane ∈ rs.map (·.1) := by
  obtain ⟨⟨l, r⟩, hr, hx⟩ := List.mem_filterMap.mp h
  cases r with
  | ok a => cases hx
  | error d =>
    cases hx
    exact List.mem_map_of_mem hr

theorem checksOf_flights (s : State) (key : Nat) (la : Launch) (hn : BitVec 10) (n : Nat) (need : Need) (na : Bool) (offs : List (Nat × Int)) :
    (checksOf s key la hn n need na offs).2.flights = s.flights := (checks_flights ..).trans (handle_flights ..)

/-! Denied accesses (R177, R343, R344). -/

/-- What is checked before permission: the bounds, then the alignment (R177). -/
theorem reach_order (idx : Nat) (h : Handle) (o : Int) (n al : Nat) (w : Bool) :
    let r := reach idx (some h) o n al w
    let va := (((h.base : Int) + o) % 2 ^ 48).toNat
    ((o < 0 ∨ (h.size : Int) < o + n) → ∃ d, r = .error d ∧ d.code = .bounds ∧ d.va = va ∧ d.w = w) ∧
    (0 ≤ o → o + n ≤ h.size → (va % al ≠ 0 → ∃ d, r = .error d ∧ d.code = .align ∧ d.va = va ∧ d.w = w) ∧
      (va % al = 0 → r = .ok (h, va))) := by
  intro r va
  refine ⟨fun hout => ⟨_, if_pos hout, rfl, rfl, rfl⟩, fun h0 h1 => ?_⟩
  have hin : ¬ (o < 0 ∨ (h.size : Int) < o + n) := by omega
  exact ⟨fun hal => ⟨_, (if_neg hin).trans (if_pos hal), rfl, rfl, rfl⟩, fun hal => (if_neg hin).trans (if_neg fun hc => hc hal)⟩

/-- The checks of a weak LD's acting lanes, and the state after them. -/
def ldChecks (s : State) (key : Nat) (b : Bool) (f : Flight) (la : Launch) (c : Clause) (d a : Reg) (na : Bool) (lk : BitVec 4)
    (hn : BitVec 10) (wd : Width) (imm : BitVec 17) : List (Nat × Except Deny LaneAddr) × State :=
  checksOf (s.begun key b f c (.ld d a na lk hn .weak wd imm)) key la hn (Width.bytes wd) .read na (offsetsOf f (f.acting b c) a imm.toInt)

/-- The flight of a weak LD, which is pending for the lanes that no check denied. -/
def ldFlight (b : Bool) (f : Flight) (c : Clause) (d a : Reg) (na : Bool) (lk : BitVec 4) (hn : BitVec 10) (wd : Width) (imm : BitVec 17)
    (rs : List (Nat × Except Deny LaneAddr)) : Flight :=
  (f.issued b c (.ld d a na lk hn .weak wd imm)).addPending b (.ld d a na lk hn .weak wd imm) (f.slot b).pc
    (f.acting b c &&& ~~~maskOf ((denied rs).map (fun x => x.lane))) false (.load d.toNat wd .weak (passed rs))

theorem ldFlight_eq (b : Bool) (f : Flight) (c : Clause) (d a : Reg) (na : Bool) (lk : BitVec 4) (hn : BitVec 10) (wd : Width)
    (imm : BitVec 17) (rs : List (Nat × Except Deny LaneAddr)) : ∃ ps, ldFlight b f c d a na lk hn wd imm rs =
      { f.issued b c (.ld d a na lk hn .weak wd imm) with
        pending := ps, nextSeq := (f.issued b c (.ld d a na lk hn .weak wd imm)).nextSeq + 1 } := addPending_eq ..

/-! A weak LD outside regions, of which checks deny lanes: rs are the answers of the checks and g is its flight. -/

section

variable {s : State} {key : Nat} {b : Bool} {f : Flight} {la : Launch} {c : Clause}
  {d a : Reg} {na : Bool} {lk : BitVec 4} {hn : BitVec 10} {wd : Width} {imm : BitVec 17}
  {rs : List (Nat × Except Deny LaneAddr) × State} {g : Flight}
  (h : Issues s (.ld d a na lk hn .weak wd imm) key b f la c) (hregions : f.regions = [])
  (hrs : ldChecks s key b f la c d a na lk hn wd imm = rs) (hg : ldFlight b f c d a na lk hn wd imm rs.1 = g)
  (hne : denied rs.1 ≠ []) (hroom : rs.2.ringRoom ≠ 0)

include h hregions hrs hg hne hroom

/-- Faults of a weak LD outside regions are recorded and delivered to its slot. -/
theorem exec_ld_faults :
    exec (.ld d a na lk hn .weak wd imm) s = endStep ((recorded (rs.2.putFlight key g) key b g la (f.slot b).pc (denied rs.1)).deliver
        key b la (f.slot b).pc false false (Instr.words (.ld d a na lk hn .weak wd imm)) 0 (denied rs.1)) ∧
      Meets (recorded (rs.2.putFlight key g) key b g la (f.slot b).pc (denied rs.1)) key b g (denied rs.1) := by
  subst hg
  have hnone := issued_regions (b := b) (c := c) (i := .ld d a na lk hn .weak wd imm) hregions
  rw [show exec (.ld d a na lk hn .weak wd imm) s = execLd d a na lk hn .weak wd imm s from rfl, execLd]
  obtain ⟨ps, hadd⟩ := ldFlight_eq b f c d a na lk hn wd imm rs.1
  refine issue_faults h _ ?body (putFlight_flight ..) (hadd ▸ rfl) (fun x _ => ?regions) hne (fun x hx => ?lanes) hroom
  case regions => exact inRegion_of_none (hadd ▸ hnone) _
  case lanes =>
    have hx := denied_lane hx
    rw [← hrs, ldChecks, checksOf, checks_lanes, offsetsOf, List.map_map] at hx
    simpa using hx
  case body =>
    subst hrs
    have hflight : (s.begun key b f c (.ld d a na lk hn .weak wd imm)).flight key = some (f.issued b c (.ld d a na lk hn .weak wd imm)) :=
      putFlight_flight ..
    simp only [placeOf, hflight, regionLanes_of_none hnone, plainMask_of_none hnone, thread, offsets, issued_g, decide_true, Bool.not_true,
      Bool.or_false, List.flatMap_nil, List.isEmpty_nil, Bool.and_self, if_true, List.nil_append, List.map_nil, List.append_nil]
    exact congrArg (Body.done · _ []) (modFlight_of_flight _ ((congrArg (Tbl.find · key) (checksOf_flights ..)).trans hflight))

/-- Page faults alone of a weak LD park their lanes in its slot (R343). -/
theorem ld_pages_park (hpage : ∀ x ∈ denied rs.1, x.code = .page) {s1 t : State}
    (hs1 : (rs.2.putFlight key g).records key g b la.ctx0 (f.slot b).pc (denied rs.1) = s1)
    (ht : s1.putFlight key (g.setSlot b { g.slot b with
      park := maskOf ((denied rs.1).map (·.lane)), parkSeq := s1.frTail + s1.ringQueue.length, replay := none }) = t)
    (hsolid : t.hole = false) : exec (.ld d a na lk hn .weak wd imm) s = .next t := by
  obtain ⟨hexec, hmeets⟩ := exec_ld_faults h hregions hrs hg hne hroom
  rw [recorded_putFlight, hs1] at hexec hmeets
  rw [hexec, hmeets.deliver_park la _ _ hpage]
  exact (endStep_ok (by rw [← ht] at hsolid; exact hsolid)).trans (congrArg _ ht)

/-- With another fault, and a handler that takes user traps, the denied lanes trap with the lowest code (R7, R344). -/
theorem ld_fault_traps {e : FCode} (hlow : lowestCode (denied rs.1) = some e) (hecc : e ≠ .ecc) (hkind : f.kind ≠ .handler)
    (htakes : la.takesTraps = true) {s1 : State}
    (hs1 : (rs.2.putFlight key g).records key g b la.ctx0 (f.slot b).pc (denied rs.1) = s1) (hsolid : s1.hole = false) :
    ∃ (t : State) (tr : TrapInfo), exec (.ld d a na lk hn .weak wd imm) s = .next t ∧ t.mem = s1.mem ∧ t.frTail = s1.frTail ∧
      t.ringQueue = s1.ringQueue ∧
      t.flight key = some (g.setSlot b { g.slot b with trapped := maskOf ((denied rs.1).map (·.lane)), replay := none }) ∧
      t.launches = (s1.modWg f.launch (keyCore key) (fun w => { w with held := w.held ++ [.trap tr] })).launches ∧
      tr.code = e.num ∧ tr.pc = (f.slot b).pc ∧ tr.mask = maskOf ((denied rs.1).map (·.lane)) ∧ tr.decode = false ∧ tr.flight = key ∧
      tr.slotB = b := by
  obtain ⟨hexec, hmeets⟩ := exec_ld_faults h hregions hrs hg hne hroom
  rw [recorded_putFlight, hs1] at hexec hmeets
  obtain ⟨ps, hadd⟩ := ldFlight_eq b f c d a na lk hn wd imm rs.1
  rw [hg] at hadd
  have hgkind : g.kind = f.kind := hadd ▸ issued_kind ..
  have hlaunch : g.launch = f.launch := hadd ▸ issued_launch ..
  rw [hmeets.deliver_trap _ _ hlow hecc (hgkind ▸ hkind) htakes, hlaunch] at hexec
  exact ⟨_, _, hexec.trans (endStep_ok hsolid), rfl, rfl, rfl, putFlight_flight .., rfl, rfl, rfl, rfl, rfl, rfl, rfl⟩

end

/-- Settles O54: the offset checks in order, the record of a fault written or kept, and a weak LD whose denied lanes park or trap. -/
theorem deniedAccesses : Obligations.denied_accesses := by
  refine ⟨fun idx h o n al w _ => reach_order idx h o n al w, ?room, ?full, ?ld⟩
  case room =>
    intro s key b f ctx pc x hlane hroom hin t
    rw [← laneRecord_eq]
    exact record_written hlane hroom hin rfl
  case full =>
    intro s key b f ctx pc x hlane hfull
    exact ⟨{ order := some f.order, slotB := b, words := laneRecord s key f b ctx pc x }, rfl, rfl,
      congrArg (List.take 10) (laneRecord_eq s key f b ctx pc x), records_of_full s key b f ctx pc hlane hfull⟩
  case ld =>
    intro d a na lk h wd imm s key b f la c hi hregions i rs fs bad g s1 hne hroom
    constructor
    · intro hpage t hsolid
      exact ld_pages_park (rs := rs) (g := g) (s1 := s1) (t := t) hi hregions rfl rfl hne hroom hpage rfl rfl hsolid
    · intro e hlow hecc hkind htakes hsolid
      exact ld_fault_traps (rs := rs) (g := g) (s1 := s1) hi hregions rfl rfl hne hroom hlow hecc hkind htakes rfl hsolid

/-! A step. -/

/-- A step whose plan is an event. -/
theorem step_of_event {s : State} (h : Free s) {i : Instr} (hp : s.plan = some { instr := i, slot := none }) {t : State}
    (ht : exec i s = .next t) : step s = .next t.unaged.tick := by
  simp [step, h.inputs, h.runs, h.host, hp, ht, State.after]

/-- A step whose plan is the issue of a slot. -/
theorem step_of_issue {s : State} (h : Free s) {i : Instr} {c : Cur} (hp : s.plan = some { instr := i, slot := some c }) :
    (∀ t, exec i (s.aim c) = .next t → step s = .next (s.after { instr := i, slot := some c } t)) ∧
      (∀ r, exec i (s.aim c) = .fault r → step s = .fault r) ∧ (∀ r, exec i (s.aim c) = .refused r → step s = .refused r) := by
  refine ⟨fun t ht => ?_, fun r hr => ?_, fun r hr => ?_⟩
  · simp [step, h.inputs, h.runs, h.host, hp, ht]
  · simp [step, h.inputs, h.runs, h.host, hp, hr]
  · simp [step, h.inputs, h.runs, h.host, hp, hr]

/-- A step without a plan: the cycle passes. -/
theorem step_of_nothing {s : State} (h : Free s) (hp : s.plan = none) : step s = .next s.unaged.tick := by
  simp [step, h.inputs, h.runs, h.host, hp]

/-- The plan of a calm state, while no event comes before the issue. -/
theorem plan_of_issue {s : State} (h : Calm s) (hturn : s.cycle % 2 = 0 ∨ s.event = none) {p : Plan} (hp : s.issueNext = some p) :
    s.plan = some p := by
  rcases hturn with he | he <;> simp [State.plan, h.calm, hp, he]

/-- The plan of a calm state, while no issue comes before the event. -/
theorem plan_of_event {s : State} (h : Calm s) (hturn : s.cycle % 2 = 1 ∨ s.issueNext = none) {i : Instr} (hi : s.event = some i) :
    s.plan = some { instr := i, slot := none } := by
  rcases hturn with he | he <;> simp [State.plan, h.calm, hi, he]

theorem plan_of_none {s : State} (h : Calm s) (hissue : s.issueNext = none) (hevent : s.event = none) : s.plan = none := by
  simp [State.plan, h.calm, hissue, hevent]

theorem plan_of_urgent {s : State} {m : Move} (h : s.urgent.find? (fun m => s.would m) = some m) :
    s.plan = some { instr := m.1, slot := none } := by
  rw [State.plan, h]

theorem after_issue (s t : State) {i : Instr} (c : Cur) (h : ∀ fl b, i ≠ .clauseDecode fl b) :
    s.after { instr := i, slot := some c } t = (s.ageing c t).unaged.tick := by
  unfold State.after
  split
  · next hi => exact absurd hi (h _ _)
  · next heq _ => cases heq; rfl
  · next hnone => exact absurd hnone (Option.some_ne_none c)

/-- What the chosen slot issues: the instruction that the words at its PC decode to. -/
theorem issueNext_of_instr {s : State} {c : Cur} {f : Flight} {la : Launch} {cl : Clause} {i : Instr} (hc : s.pick = some c)
    (hf : s.flight c.flight = some f) (hla : Tbl.find s.launches f.launch.toNat = some la) (hcl : (f.slot c.slotB).clause = some cl)
    (hi : la.instrAt (f.slot c.slotB).pc = some i) : s.issueNext = some { instr := i, slot := some c } := by
  simp [State.issueNext, State.slotInstr, hc, hf, hla, hcl, hi]

/-- What the chosen slot does before its first instruction: it decodes its clause. -/
theorem issueNext_of_decode {s : State} {c : Cur} {f : Flight} (hc : s.pick = some c) (hf : s.flight c.flight = some f)
    (hcl : (f.slot c.slotB).clause = none) : s.issueNext = some { instr := .clauseDecode c.flight c.slotB, slot := some c } := by
  simp [State.issueNext, State.slotInstr, hc, hf, hcl]

/-- The instruction at a PC is what the words there decode to. -/
theorem instrAt_iff (la : Launch) (pc : Word) (i : Instr) : la.instrAt pc = some i ↔
    ∃ n, n < la.code.length ∧ (pc - la.pcOf 0).toNat = 4 * n ∧ decode (la.code.getD n 0) (la.code.getD (n + 1) 0) = .ok i := by
  have hidx : ∀ n, la.wordIdx pc = some n ↔ n < la.code.length ∧ (pc - la.pcOf 0).toNat = 4 * n := by
    intro n
    simp only [Launch.wordIdx, Option.ite_none_right_eq_some, Option.some.injEq]
    omega
  have hdec : ∀ n, (match decode (la.code.getD n 0) (la.code.getD (n + 1) 0) with
      | .ok x => some x
      | .error _ => none) = some i ↔ decode (la.code.getD n 0) (la.code.getD (n + 1) 0) = .ok i := by
    intro n
    cases decode (la.code.getD n 0) (la.code.getD (n + 1) 0) <;> simp
  constructor
  · intro h
    cases hn : la.wordIdx pc with
    | none => simp [Launch.instrAt, hn] at h
    | some n =>
      obtain ⟨hlt, heq⟩ := (hidx n).mp hn
      rw [Launch.instrAt, hn] at h
      exact ⟨n, hlt, heq, (hdec n).mp h⟩
  · rintro ⟨n, hlt, heq, hd⟩
    rw [Launch.instrAt, (hidx n).mpr ⟨hlt, heq⟩]
    exact (hdec n).mpr hd

/-! Ageing. -/

/-- The two slots of every flight of a state changed in turn, slot A before slot B. -/
theorem find_both {t : Tbl Flight} (one : Nat → Bool → Flight → Flight) {key : Nat} {f : Flight} (h : Tbl.find t key = some f) :
    Tbl.find (t.map (fun e => (e.1, one e.1 true (one e.1 false e.2)))) key = some (one key true (one key false f)) := by
  rw [find_map t (fun k x => one k true (one k false x)), h]
  rfl

/-- The class of a flight's launch. -/
def classOf (s : State) (f : Flight) : Option Nat := (Tbl.find s.launches f.launch.toNat).map (fun la => la.cls)

/-- Whether the issue of slot c passes over slot d of a flight: another ready slot of its class on its partition (R26). -/
abbrev passedOver (s : State) (c d : Cur) (f : Flight) : Prop :=
  d ≠ c ∧ d.flight / 16 = c.flight / 16 ∧ classOf s f = (s.flight c.flight).bind (classOf s) ∧ s.curReady d = true

/-- A flight of which one slot ages by the issue of slot c. -/
def agedBy (s : State) (c : Cur) (k : Nat) (b : Bool) (f : Flight) : Flight :=
  if passedOver s c { flight := k, slotB := b } f then f.setSlot b { f.slot b with aged := (f.slot b).aged + 1 } else f

theorem ageing_flight {s t : State} (c : Cur) {key : Nat} {f : Flight} (h : t.flight key = some f) :
    (s.ageing c t).flight key = some (agedBy s c key true (agedBy s c key false f)) := find_both (agedBy s c) h

theorem agedBy_slot_other (s : State) (c : Cur) (k : Nat) (b : Bool) (f : Flight) : (agedBy s c k b f).slot (!b) = f.slot (!b) := by
  unfold agedBy
  split
  · exact slot_setSlot_other ..
  · rfl

theorem agedBy_launch (s : State) (c : Cur) (k : Nat) (b : Bool) (f : Flight) : (agedBy s c k b f).launch = f.launch := by
  unfold agedBy
  split
  · exact setSlot_launch ..
  · rfl

theorem agedBy_aged (s : State) (c : Cur) (k : Nat) (b : Bool) (f : Flight) : ((agedBy s c k b f).slot b).aged =
    if passedOver s c { flight := k, slotB := b } f then (f.slot b).aged + 1 else (f.slot b).aged := by
  unfold agedBy
  split
  · rw [slot_setSlot]
  · rfl

/-- The age of a slot after an issue: one more where it was passed over. -/
theorem ageing_aged (s : State) (c d : Cur) (f : Flight) :
    ((agedBy s c d.flight true (agedBy s c d.flight false f)).slot d.slotB).aged =
      if passedOver s c d f then (f.slot d.slotB).aged + 1 else (f.slot d.slotB).aged := by
  obtain ⟨key, b⟩ := d
  cases b
  · exact (congrArg Slot.aged (agedBy_slot_other s c key true _)).trans (agedBy_aged s c key false f)
  · have hother : (agedBy s c key false f).slot true = f.slot true := agedBy_slot_other s c key false f
    have hclass : classOf s (agedBy s c key false f) = classOf s f := by rw [classOf, agedBy_launch, classOf]
    rw [agedBy_aged, hother]
    simp only [passedOver, hclass]

/-- A flight of which one slot, if it is not ready, loses its age. -/
def unagedBy (s : State) (k : Nat) (b : Bool) (f : Flight) : Flight :=
  if (f.slot b).aged = 0 ∧ (f.slot b).old = false then f
  else if s.curReady { flight := k, slotB := b } then f else f.setSlot b { f.slot b with aged := 0, old := false }

theorem unaged_flight {s : State} {key : Nat} {f : Flight} (h : s.flight key = some f) :
    s.unaged.flight key = some (unagedBy s key true (unagedBy s key false f)) := find_both (unagedBy s) h

theorem unagedBy_slot_other (s : State) (k : Nat) (b : Bool) (f : Flight) : (unagedBy s k b f).slot (!b) = f.slot (!b) := by
  unfold unagedBy
  split
  · rfl
  · split
    · rfl
    · exact slot_setSlot_other ..

/-- A slot that is not ready has no age, and is not aged. -/
theorem unagedBy_slot (s : State) (k : Nat) (b : Bool) (f : Flight) :
    ((unagedBy s k b f).slot b).aged = (if s.curReady { flight := k, slotB := b } then (f.slot b).aged else 0) ∧
      ((unagedBy s k b f).slot b).old = (s.curReady { flight := k, slotB := b } && (f.slot b).old) := by
  unfold unagedBy
  split
  · next hnone => simp [hnone]
  · split
    · next hready => simp [hready]
    · next hready => simp [hready]

theorem unaged_slot (s : State) (d : Cur) (f : Flight) :
    ((unagedBy s d.flight true (unagedBy s d.flight false f)).slot d.slotB).aged = (if s.curReady d then (f.slot d.slotB).aged else 0) ∧
      ((unagedBy s d.flight true (unagedBy s d.flight false f)).slot d.slotB).old = (s.curReady d && (f.slot d.slotB).old) := by
  obtain ⟨key, b⟩ := d
  cases b
  · have hother := unagedBy_slot_other s key true (unagedBy s key false f)
    rw [Bool.not_true] at hother
    rw [hother]
    exact unagedBy_slot s key false f
  · have hother : (unagedBy s key false f).slot true = f.slot true := unagedBy_slot_other s key false f
    rw [← hother]
    exact unagedBy_slot s key true _

theorem tick_time (s : State) : 17000000 * s.tick.time + s.tick.subNs = 17000000 * s.time + s.subNs + 10 * s.rate := by
  show 17000000 * (s.time + (s.subNs + 10 * s.rate) / 17000000) + (s.subNs + 10 * s.rate) % 17000000 = _
  omega

/-- Settles O56: a step is its input, the waiting access, or the plan of what happens next; then the slots age and the clock goes on. -/
theorem stepRunsDecoded : Obligations.step_runs_decoded := by
  refine ⟨?inputs, ?passes, ?halted, ?host, ?urgent, ?issue, ?decode, ?event, ?nothing, instrAt_iff,
    fun s t i c h => after_issue s t c h, ?ageing, ?unaged, fun s => ⟨rfl, tick_time s, rfl⟩⟩
  case inputs =>
    intro s i rest hin
    constructor <;> intro hpass <;> simp [step, hin, hpass]
  case passes =>
    intro s i hrun
    simp [State.passes, Instr.inProgram, hrun]
  case halted =>
    intro s hin hhalt
    simp [step, hin, hhalt]
  case host =>
    intro s t hin hrun hhost
    simp [step, hin, hrun, hhost]
  case urgent => exact fun s m hfree hm t ht => step_of_event hfree (plan_of_urgent hm) ht
  case issue =>
    intro s c f la cl i hcalm hturn hc hf hla hcl hi
    exact step_of_issue hcalm.toFree (plan_of_issue hcalm hturn (issueNext_of_instr hc hf hla hcl hi))
  case decode =>
    intro s c f hcalm hturn hc hf hcl t ht
    exact (step_of_issue hcalm.toFree (plan_of_issue hcalm hturn (issueNext_of_decode hc hf hcl))).1 t ht
  case event => exact fun s i hcalm hturn hi t ht => step_of_event hcalm.toFree (plan_of_event hcalm hturn hi) ht
  case nothing => exact fun s hcalm hissue hevent => step_of_nothing hcalm.toFree (plan_of_none hcalm hissue hevent)
  case ageing =>
    intro s t c d f hf cls passed
    refine ⟨_, ageing_flight c hf, fun hp => ?_, fun hp => ?_⟩
    · exact (ageing_aged s c d f).trans (if_pos hp)
    · exact (ageing_aged s c d f).trans (if_neg hp)
  case unaged => exact fun s d f hf => ⟨_, unaged_flight hf, unaged_slot s d f⟩

end Sys2Proof.Proofs
end

section
/-! PROOFS. The statements of the family 04_numbers: O2 and O6, with the lemmas about results written to general registers that they rest on. -/

namespace Sys2Proof.Proofs

open Sys2Proof Sys2Proof.Machine Sys2Proof.Claims Sys2Proof.Laws

/-! Results written to general registers. -/

/-- Reading a general register after one write: gz discards it (R45). -/
theorem get_setG (f : Flight) {k n l : Nat} (r : Nat) (v : Word) (hk : k < 32) (hn : n < 127) (hl : l < 32) :
    Cells.get (f.setG k r v).gpr (32 * n + l) = if r = n ∧ k = l then v else Cells.get f.gpr (32 * n + l) := by
  unfold Flight.setG
  split
  · rw [if_neg (by omega)]
  · have hplace : 32 * n + l = 32 * r + k ↔ r = n ∧ k = l := by omega
    simp only [get_set, hplace]

/-- Reading a general register after a list of writes that agree on it. -/
theorem get_setGs (f : Flight) {ws : List (Nat × Nat × Word)} {n l : Nat} {v : Word} (hlane : ∀ w ∈ ws, w.2.1 < 32)
    (hv : ∀ w ∈ ws, w.1 = n → w.2.1 = l → w.2.2 = v) (hn : n < 127) (hl : l < 32) :
    Cells.get (f.setGs ws).gpr (32 * n + l) = if (n, l, v) ∈ ws then v else Cells.get f.gpr (32 * n + l) := by
  induction ws generalizing f with
  | nil => rfl
  | cons w ws ih =>
    obtain ⟨r, k, x⟩ := w
    have hx : r = n → k = l → x = v := hv _ (List.mem_cons_self ..)
    have htail : Cells.get (f.setGs ((r, k, x) :: ws)).gpr (32 * n + l) =
        if (n, l, v) ∈ ws then v else Cells.get (f.setG k r x).gpr (32 * n + l) :=
      ih _ (fun w hw => hlane w (List.mem_cons_of_mem _ hw)) fun w hw => hv w (List.mem_cons_of_mem _ hw)
    rw [htail, get_setG f r x (hlane _ (List.mem_cons_self ..)) hn hl]
    by_cases hw : (n, l, v) ∈ ws
    · simp [hw]
    · by_cases hr : r = n ∧ k = l
      · simp [hr, hx hr.1 hr.2]
      · have hne : (n, l, v) ≠ (r, k, x) := fun h => hr ⟨(congrArg (·.1) h).symm, (congrArg (·.2.1) h).symm⟩
        simp [hw, hr, hne]

/-- A list of writes changes the general registers alone. -/
theorem setGs_eq (f : Flight) (ws : List (Nat × Nat × Word)) : ∃ c, f.setGs ws = { f with gpr := c } := by
  induction ws generalizing f with
  | nil => exact ⟨_, rfl⟩
  | cons w ws ih =>
    obtain ⟨c, hc⟩ := ih (f.setG w.2.1 w.1 w.2.2)
    refine ⟨c, hc.trans ?_⟩
    unfold Flight.setG
    split <;> rfl

/-- The members of a list, each with its place in it. -/
theorem mem_zip_range {α : Type} {xs : List α} {j : Nat} {x : α} : (j, x) ∈ (List.range xs.length).zip xs ↔ xs[j]? = some x := by
  simp only [List.mem_iff_getElem?, List.getElem?_zip_eq_some]
  grind

theorem mem_runWrites {d : Reg} {l n k : Nat} {vs : List Word} {v : Word} :
    (n, k, v) ∈ runWrites d l vs ↔ k = l ∧ d.toNat ≠ 127 ∧ d.toNat ≤ n ∧ vs[n - d.toNat]? = some v := by
  unfold runWrites
  split
  next h => simp [h]
  next h =>
    simp only [List.mem_map, Prod.exists, Prod.mk.injEq]
    constructor
    · rintro ⟨j, x, hj, rfl, rfl, rfl⟩
      exact ⟨rfl, h, Nat.le_add_right .., by rwa [Nat.add_sub_cancel_left, ← mem_zip_range]⟩
    · rintro ⟨rfl, -, hle, hj⟩
      exact ⟨n - d.toNat, v, mem_zip_range.mpr hj, Nat.add_sub_cancel' hle, rfl, rfl⟩

theorem mem_writesOf {m : Mask} {d : Reg} {vals : Nat → List Word} {n l : Nat} {v : Word} :
    (n, l, v) ∈ writesOf m d vals ↔
      m.getLsbD l = true ∧ d.toNat ≠ 127 ∧ d.toNat ≤ n ∧ (vals l)[n - d.toNat]? = some v := by
  simp only [writesOf, List.mem_flatMap, mem_runWrites, mem_lanesOf]
  exact ⟨fun ⟨_, hm, hl, hw⟩ => hl ▸ ⟨hm, hw⟩, fun ⟨hm, hw⟩ => ⟨l, hm, rfl, hw⟩⟩

/-- The values of some lanes, written to a run of registers. -/
theorem regsGiven_writesOf (f : Flight) (m : Mask) (d : Reg) (vals : Nat → List Word) :
    RegsGiven f (f.setGs (writesOf m d vals)) m d vals := by
  intro n l hn hl
  rw [get_setGs f (v := (vals l).getD (n - d.toNat) 0) ?lane ?agree hn hl]
  case lane =>
    rintro ⟨r, k, x⟩ hw
    exact BitVec.lt_of_getLsbD (mem_writesOf.mp hw).1
  case agree =>
    rintro ⟨r, k, x⟩ hw rfl rfl
    obtain ⟨-, -, -, hx⟩ := mem_writesOf.mp hw
    simp [hx]
  have hin : (n, l, (vals l).getD (n - d.toNat) 0) ∈ writesOf m d vals ↔
      m.getLsbD l = true ∧ d.toNat ≠ 127 ∧ d.toNat ≤ n ∧ n < d.toNat + (vals l).length := by
    rw [mem_writesOf]
    refine and_congr_right fun _ => and_congr_right fun _ => and_congr_right fun hle => ?_
    rw [List.getD_eq_getElem?_getD]
    by_cases hk : n - d.toNat < (vals l).length
    · rw [List.getElem?_eq_getElem hk]
      exact ⟨fun _ => by omega, fun _ => rfl⟩
    · rw [List.getElem?_eq_none (by omega)]
      exact ⟨nofun, fun _ => by omega⟩
  simp only [hin]

/-- An ALU instruction writes the values of its lanes and ORs their flags into FPSTAT (R74, R107, R113). -/
theorem alu_meets (f : Flight) (m : Mask) (d : Reg) (fn : LaneFn) :
    SameButRegsFlags f (f.alu m d fn) ∧ RegsGiven f (f.alu m d fn) m d (fun l => (fn f l).1) ∧
      (f.alu m d fn).fpstat = f.fpstat ||| (flagsOf m (fun l => (fn f l).2) &&& 0x1F) := by
  refine ⟨?_, regsGiven_writesOf f m d fun l => (fn f l).1, ?_⟩
  all_goals
    obtain ⟨c, hc⟩ := setGs_eq f (laneWrites f m d fn)
    rw [Flight.alu, hc]
    rfl

/-! What an instruction reads when it issues. -/

theorem issued_fpstat (f : Flight) (b : Bool) (c : Clause) (i : Instr) : (f.issued b c i).fpstat = f.fpstat := by
  obtain ⟨rs, ps, h⟩ := issued_eq f b c i
  rw [h]
  cases b <;> rfl

section

variable {f g : Flight} (h : g.gpr = f.gpr)

include h

theorem g_of_gpr : g.g = f.g := by
  funext l r
  rw [Flight.g, h, Flight.g]

theorem gAt_of_gpr : g.gAt = f.gAt := by
  funext l r n
  rw [Flight.gAt, h, Flight.gAt]

theorem floatValue_of_gpr (l : Nat) (i : Instr) : floatValue g l i = floatValue f l i := by
  simp only [floatValue, g_of_gpr h]

theorem convValue_of_gpr (l : Nat) (i : Instr) : convValue g l i = convValue f l i := by
  simp only [convValue, cvtnLane, unpnLane, scaleOf, g_of_gpr h, gAt_of_gpr h]

end

/-! Floating-point instructions. -/

/-- What the table of O2 gives a lane. -/
def floatLane (i : Instr) : LaneFn := flagged fun f l => ((floatValue f l i).map (·.2)).getD { bits := 0, flags := 0 }

theorem floatLane_eq {i : Instr} {f : Flight} {l : Nat} {d : Reg} {r : FpRes} (h : floatValue f l i = some (d, r)) :
    floatLane i f l = ([BitVec.ofNat 32 r.bits], r.flags) := by
  simp [floatLane, flagged, FpRes.word, h]

/-- Each instruction of the table is an ALU instruction with its values. -/
theorem exec_of_floatValue {i : Instr} {f : Flight} {l : Nat} {d : Reg} {r : FpRes} (h : floatValue f l i = some (d, r)) (s : State) :
    exec i s = aluOp i d (floatLane i) s := by
  unfold floatValue at h
  split at h <;> cases h <;> rfl

/-- Settles O2: the instruction is an ALU instruction with the table's values, which are read from registers that beginning it leaves alone. -/
theorem floatResults : Obligations.float_results := by
  unfold Obligations.float_results
  intro s i key b f la c d res hi hres
  obtain ⟨hsame, hregs, hflags⟩ := alu_meets (f.issued b c i) (f.acting b c) d (floatLane i)
  have hlane : ∀ l, floatLane i (f.issued b c i) l = ([BitVec.ofNat 32 (res l).bits], (res l).flags) := fun l =>
    floatLane_eq ((floatValue_of_gpr (issued_gpr f b c i) l i).trans (hres l))
  simp only [hlane, issued_fpstat] at hregs hflags
  refine ⟨_, (exec_of_floatValue (hres 0) s).trans (aluOp_eq hi d _), hsame, fun n l hn hl => ?_, hflags⟩
  rw [hregs n l hn hl, issued_gpr]

/-! Conversions and special functions. -/

/-- What the table of O6 gives a lane. -/
def convLane (i : Instr) : LaneFn := fun f l => ((convValue f l i).map (·.2)).getD ([], 0)

theorem convLane_eq {i : Instr} {f : Flight} {l : Nat} {d : Reg} {v : List Word × Word} (h : convValue f l i = some (d, v)) :
    convLane i f l = v := by
  simp [convLane, h]

/-- Each instruction of the table is a long-latency instruction with its values. -/
theorem exec_of_convValue {i : Instr} {f : Flight} {l : Nat} {d : Reg} {v : List Word × Word} (h : convValue f l i = some (d, v)) (s : State) :
    exec i s = longOp i d (convLane i) s := by
  unfold convValue at h
  split at h <;> cases h <;> rfl

/-- Settles O6: the instruction is a long-latency instruction with the table's values, which are read from registers that beginning it leaves
alone. -/
theorem conversionResults : Obligations.conversion_results := by
  unfold Obligations.conversion_results
  intro s i key b f la c d vals fl hi hvals
  have hlane : ∀ l, convLane i (f.issued b c i) l = (vals l, fl l) := fun l =>
    convLane_eq ((convValue_of_gpr (issued_gpr f b c i) l i).trans (hvals l))
  rw [exec_of_convValue (hvals 0), longOp_eq hi, laneWrites, laneFlags]
  simp only [hlane]
  rfl

end Sys2Proof.Proofs
end
